-- ==== Sys2Proof/Word.lean ====
section
/-! DEFINITION. The plainest types of the model: bytes, raster lines, fixed tables and their one read and one write. -/

namespace Sys2Proof

/-- A byte of the desk link, of a line slot or of the page memory. -/
abbrev Byte := BitVec 8

/-- A 16-bit order tag (R205). -/
abbrev Tag := BitVec 16

/-- One raster line, pixel 0 first; true is black (section 2.1). -/
abbrev Raster := List Bool

/-- A table of `n` numbered places. -/
abbrev Table (α : Type) (n : Nat) := Vector α n

/-- A byte holding the low eight bits of a number. -/
def byteOf (n : Nat) : Byte := BitVec.ofNat 8 n

end Sys2Proof
end

