-- ==== Sys2Proof/Syntax.lean ====
section
/-! DEFINITION. The commands of the FL-824: one constructor for each row of spec/opcode_table.json, with what reaches the part as its operands. -/

namespace Sys2Proof

/-- One of the eight telephone lines. -/
abbrev LineNo := Fin 8

/-- A scan channel; channel `i` serves station `i + 2` (chapter 3). -/
abbrev ChannelNo := Fin 4

/-- The six timeout classes (R150), in the order of their configuration values (R207). -/
inductive TimeoutClass where
  | answer | message | data | page | scan | print
  deriving DecidableEq, Repr

/-- The commands. Frames of the desk link come as their source station and payload bytes, messages of a
remote terminal as the bytes after the ones that name the message, orders as their tag and parameter bytes. -/
inductive Instr where
  /-- HARD_RESET (R209): `msz` is the level of the strap MSZ[1:0]. -/
  | hardReset (msz : BitVec 2)
  /-- FRAME_CHECK_FAIL (R204): bytes arriving on DLRXD that do not make a good frame. -/
  | frameCheckFail (bytes : List Byte)
  /-- FRAME_DISCARDED (R203): a frame that passed its check. -/
  | frameDiscarded (dst src kind : Byte) (payload : List Byte)
  /-- ORDER_FRAME (R205): an ORDER frame that passed its check. -/
  | orderFrame (src : Byte) (payload : List Byte)
  /-- ORDER_BAD_CODE (R206): an order whose code is 0 or above 29 is taken. -/
  | orderBadCode (tag : Tag) (code : Byte) (params : List Byte)
  | configure (tag : Tag) (params : List Byte)
  | loadRoute (tag : Tag) (params : List Byte)
  | clearRoute (tag : Tag) (params : List Byte)
  | loadDialProfile (tag : Tag) (params : List Byte)
  | loadGroup (tag : Tag) (params : List Byte)
  | stageTariff (tag : Tag) (params : List Byte)
  | applyTariff (tag : Tag) (params : List Byte)
  | loadBands (tag : Tag) (params : List Byte)
  | loadDayMap (tag : Tag) (params : List Byte)
  | setTime (tag : Tag) (params : List Byte)
  | readTime (tag : Tag) (params : List Byte)
  | setAccount (tag : Tag) (params : List Byte)
  | readAccount (tag : Tag) (params : List Byte)
  | takeRecords (tag : Tag) (params : List Byte)
  | setLine (tag : Tag) (params : List Byte)
  | retireLine (tag : Tag) (params : List Byte)
  | returnLine (tag : Tag) (params : List Byte)
  | readLine (tag : Tag) (params : List Byte)
  | openDocument (tag : Tag) (params : List Byte)
  | closeDocument (tag : Tag) (params : List Byte)
  | replacePage (tag : Tag) (params : List Byte)
  | releaseDocument (tag : Tag) (params : List Byte)
  | readDocument (tag : Tag) (params : List Byte)
  | submitSend (tag : Tag) (params : List Byte)
  | submitPrint (tag : Tag) (params : List Byte)
  | cancelJob (tag : Tag) (params : List Byte)
  | readJob (tag : Tag) (params : List Byte)
  | readStore (tag : Tag) (params : List Byte)
  | restart (tag : Tag) (params : List Byte)
  /-- SHEET_START (R49): a SHEET frame of kind START; `fields` follow the sheet kind byte (R213). -/
  | sheetStart (src : Byte) (fields : List Byte)
  /-- SHEET_END (R55): a SHEET frame of kind END. -/
  | sheetEnd (src : Byte) (fields : List Byte)
  /-- SHEET_ABORT (R56): a SHEET frame of kind ABORT. -/
  | sheetAbort (src : Byte) (fields : List Byte)
  /-- RASTER (R53): a RASTER frame with its whole payload. -/
  | raster (src : Byte) (payload : List Byte)
  /-- CODER_TURN (R54, R57). -/
  | coderTurn
  /-- ADMISSION_PASS (R99). -/
  | admissionPass
  | cadencePhaseEnd (line : LineNo)
  | lineLost (line : LineNo)
  | busy (line : LineNo)
  | guardTimeEnd (line : LineNo)
  | ringPresent (line : LineNo)
  /-- RING_END (R116): `frames` is how long ring current lasted beyond the frames already counted. -/
  | ringEnd (line : LineNo) (frames : Nat)
  | ringingEpisodeEnd (line : LineNo)
  | answerBlankingEnd (line : LineNo)
  /-- ABILITY (R131): the bytes after the message code (R215). -/
  | ability (line : LineNo) (fields : List Byte)
  /-- CHOICE (R143): the bytes after the message code. -/
  | choice (line : LineNo) (fields : List Byte)
  /-- TRIAL_QUALITY (R144): the module's trial quality indication. -/
  | trialQuality (line : LineNo) (good : Bool)
  /-- TRIAL_GOOD (R134): `rest` holds any bytes after the message code. -/
  | trialGood (line : LineNo) (rest : List Byte)
  | trialBad (line : LineNo) (rest : List Byte)
  /-- PAGE_DATA_BYTE_SEND (R135): the module shows space for a byte of page data. -/
  | pageDataByteSend (line : LineNo)
  /-- PAGE_DATA_BYTE (R145): a byte received with page data set (R214). -/
  | pageDataByte (line : LineNo) (value : Byte)
  /-- PAGE_DATA_END (R145): the message boundary with page data set. -/
  | pageDataEnd (line : LineNo)
  /-- PAGE_END (R146): the bytes after the message code. -/
  | pageEnd (line : LineNo) (fields : List Byte)
  /-- VERDICT_GOOD (R137): a VERDICT message whose verdict byte is 0; `rest` holds any further bytes. -/
  | verdictGood (line : LineNo) (rest : List Byte)
  /-- VERDICT_RESEND (R138): a VERDICT message whose verdict byte is 1. -/
  | verdictResend (line : LineNo) (rest : List Byte)
  /-- WAIT (R128). -/
  | wait (line : LineNo) (rest : List Byte)
  /-- CLOSE (R140, R149): the bytes after the message code. -/
  | close (line : LineNo) (fields : List Byte)
  /-- MESSAGE_CHECK_ERROR (R127, R215): a whole message with its check error indication. -/
  | messageCheckError (line : LineNo) (checkError : Bool) (bytes : List Byte)
  /-- CLOSE_HANDED (R140): the last of the engine's CLOSE has gone to the module. -/
  | closeHanded (line : LineNo)
  /-- CLASS_TICK (R152). -/
  | classTick (cls : TimeoutClass)
  | answerTimeout (line : LineNo)
  | messageTimeout (line : LineNo)
  | dataTimeout (line : LineNo)
  | pageTimeout (line : LineNo)
  | scanTimeout (channel : ChannelNo)
  | printTimeout
  /-- SECOND_EVENT (R173). -/
  | secondEvent
  | unitBoundary (line : LineNo)
  | destinationEligible (job : Fin 32) (dest : Fin 16)
  /-- PRINTER_CREDIT (R161): a CREDIT frame with its whole payload. -/
  | printerCredit (src : Byte) (payload : List Byte)
  /-- PAPER_OUT (R166): a PRINTER-STATUS frame whose status byte is 1; `rest` holds any further bytes. -/
  | paperOut (src : Byte) (rest : List Byte)
  /-- PAPER_READY (R167): a PRINTER-STATUS frame whose status byte is 0. -/
  | paperReady (src : Byte) (rest : List Byte)
  /-- PRINTER_FRAME_SENT (R164). -/
  | printerFrameSent
  /-- TRANSMIT_SELECT (R208): the transmitter becomes free. -/
  | transmitSelect
  /-- MESSAGE_BYTE_SEND (R214): the module shows space for a byte of a message. -/
  | messageByteSend (line : LineNo)
  /-- LOOP_CURRENT_CHANGE (R113): the loop current indication drops or comes back. -/
  | loopCurrentChange (line : LineNo) (present : Bool)
  /-- RING_INTERVAL_START (R116). -/
  | ringIntervalStart (line : LineNo)
  deriving DecidableEq, Repr

end Sys2Proof
end

