-- ==== Sys2Proof/Decode.lean ====
section
/-! DEFINITION. The command that a table word spells. No row of spec/opcode_table.json has bits: a command of this block is a
frame, a message, a signal or an event, not a word, so no word spells one. -/

namespace Sys2Proof

/-- The command of a word of `nbits` bits: none, since no row of the table gives bits. -/
def decodeTableWord (_nbits _w : Nat) : Option Instr := none

end Sys2Proof
end

