-- ==== Sys2Proof/Config.lean ====
section
/-! DEFINITION. What the spec leaves to the board or does not state: the strap of State.reset, what a byte of page
memory that nothing has written reads as, and the free value. The values CONFIGURE sets (R207) are state, not here. -/

namespace Sys2Proof.Config

/-- DESIGN CHOICE (log 3): the level of the size strap MSZ[1:0] at State.reset. -/
def resetStrap : BitVec 2 := 0#2

/-- DESIGN CHOICE (log 4): what a byte of page memory that nothing has written reads as. -/
def unwrittenByte : Byte := 0#8

/-- FREE VALUE (log 7): the ready time of a destination that was never READY. R68 and R69 state none. It is applied
to State.freeCount, which moves on at every use. -/
opaque neverReadyTime : Nat → BitVec 32

end Sys2Proof.Config
end

