-- ==== Sys2Proof/Machine/State.lean ====
section
/-! DEFINITION. The state of the FL-824 as plain data, block by block, its value after hard reset, and the two
reason types of the host's interface. -/

namespace Sys2Proof.Machine

/-! ### Names shared by the chapters -/

/-- Page resolution (R3), in the order of R213. -/
inductive Resolution where
  | standard | fine
  deriving DecidableEq, Repr

/-- A symbol of a dialled number (section 4.2). -/
inductive Symbol where
  | digit (d : Fin 10) | star | hash | pause
  deriving DecidableEq, Repr

/-- A dialled number, a route's digits or access digits, first symbol first. -/
abbrev Number := List Symbol

/-- A station name: 0 to 20 characters (R126). -/
abbrev Name := List Byte

/-- The call reasons, in the order of their codes (R215). -/
inductive Reason where
  | delivered | busy | noAnswer | timeout | lineLost | noRate | pageRefused | remoteClose
  | width | cutCredit | cancelled | restart | noRoute | barred | storeFull | docFull
  deriving DecidableEq, Repr

/-- A supervised context (R151): its class, its age and its suspended flag. -/
structure Supervision where
  cls : Option TimeoutClass
  age : Nat
  suspended : Bool
  deriving DecidableEq, Repr

/-- No supervision: class none, age 0, suspended clear (R151). -/
def Supervision.off : Supervision := ⟨none, 0, false⟩

/-! ### Configuration (R207) -/

/-- The twenty values of CONFIGURE. -/
structure Configuration where
  reserve : Nat
  anchorInterval : Nat
  ownNumber : Number
  guardTime : Nat
  ringOnMinimum : Nat
  ringGapMaximum : Nat
  maxWidth : Nat
  fine : Bool
  delta : Bool
  maxRate : Nat
  stationName : Name
  resendLimit : Nat
  acceptLimit : Nat
  periods : Table Nat 6
  correction : Int
  deriving DecidableEq, Repr

/-- The defaults of R207. -/
def Configuration.default : Configuration where
  reserve := 256
  anchorInterval := 4
  ownNumber := []
  guardTime := 2
  ringOnMinimum := 200
  ringGapMaximum := 6
  maxWidth := 2048
  fine := true
  delta := true
  maxRate := 6
  stationName := []
  resendLimit := 2
  acceptLimit := 16
  periods := #v[1500, 300, 200, 600, 500, 1000]
  correction := 0

/-! ### Page Memory Controller (chapter 1) -/

inductive PageState where
  | free | filling | sealed | void
  deriving DecidableEq, Repr

/-- A page record (R3). The claim count is not stored: it is the number of claims attached (R13). -/
structure Page where
  state : PageState
  place : Option (Fin 64 × Nat)
  mapped : Bool
  width : Nat
  resolution : Resolution
  lines : Nat
  length : Nat
  chain : List Nat
  substituted : Nat
  truncated : Bool
  damaged : Bool
  version : Nat
  deriving DecidableEq, Repr

/-- A FREE record (R3). Width and resolution of a FREE record are a DESIGN CHOICE (log 5). -/
def Page.blank : Page where
  state := .free
  place := none
  mapped := false
  width := 0
  resolution := .standard
  lines := 0
  length := 0
  chain := []
  substituted := 0
  truncated := false
  damaged := false
  version := 0

/-- How a document's pages arrive, with the station or the line that feeds it (R10). -/
inductive DocumentKind where
  | scanned (channel : ChannelNo) | received (line : LineNo)
  deriving DecidableEq, Repr

/-- A document record in use (R10). -/
structure Document where
  kind : DocumentKind
  isOpen : Bool
  closePending : Bool
  slots : List (Fin 256)
  remoteName : Name
  held : Option (Fin 256)
  released : Bool
  jobCount : Nat
  deriving DecidableEq, Repr

/-- The holder of a claim (R13). -/
inductive Holder where
  | dest (job : Fin 32) (dest : Nat) | print (job : Fin 32)
  deriving DecidableEq, Repr

/-- A claim (R13). -/
structure Claim where
  holder : Holder
  doc : Fin 64
  slot : Nat
  page : Fin 256
  inUse : Bool
  withdrawn : Bool
  deriving DecidableEq, Repr

/-- The page memory: the bytes written, sorted by address, none equal to Config.unwrittenByte. -/
abbrev Memory := List Host.Cell

/-- The Page Memory Controller's state. -/
structure Store where
  blocks : Nat
  freeList : List Nat
  mem : Memory
  pages : Table Page 256
  docs : Table (Option Document) 64
  claims : List Claim
  deriving DecidableEq, Repr

/-! ### Scan channels and span coder (chapters 2 and 3) -/

inductive Binding where
  | unbound | bound (doc : Fin 64) | replaceOnly (doc : Fin 64)
  deriving DecidableEq, Repr

inductive Replacement where
  | none | pending (doc : Fin 64) (slot : Nat) | filling (doc : Fin 64) (slot : Nat) (page : Fin 256)
  deriving DecidableEq, Repr

inductive SheetState where
  | idle | active | ending
  deriving DecidableEq, Repr

/-- A staging entry: line number, raster and missing-before count (R47). -/
structure Staged where
  line : Nat
  raster : Raster
  missing : Nat
  deriving DecidableEq, Repr

/-- The contents of a START as received (R213): width and resolution are not yet judged. -/
structure StartFrame where
  sheet : Nat
  width : Nat
  resolution : Nat
  deriving DecidableEq, Repr

/-- The coder context of a channel (R32). -/
structure CoderContext where
  reference : Option Raster
  index : Nat
  anchor : Nat
  deriving DecidableEq, Repr

def CoderContext.empty : CoderContext := ⟨none, 0, 0⟩

/-- A scan channel (R47). -/
structure Channel where
  binding : Binding
  replacement : Replacement
  sheet : SheetState
  number : Nat
  page : Fin 256
  width : Nat
  resolution : Resolution
  expected : Nat
  limit : Nat
  staging : List Staged
  endEntry : Option Nat
  truncate : Bool
  stalled : Bool
  heldStart : Option StartFrame
  coder : CoderContext
  sup : Supervision
  deriving DecidableEq, Repr

/-- A channel as R62 and R63 give it. The sheet number, page record, width and resolution of an IDLE channel are a
DESIGN CHOICE (log 6). -/
def Channel.idle : Channel where
  binding := .unbound
  replacement := .none
  sheet := .idle
  number := 0
  page := 0
  width := 0
  resolution := .standard
  expected := 0
  limit := 0
  staging := []
  endEntry := none
  truncate := false
  stalled := false
  heldStart := none
  coder := .empty
  sup := .off

/-- The span coder: idle, or busy with one line named by its channel and line index (R33). -/
inductive CoderState where
  | idle | busy (channel : ChannelNo) (index : Nat)
  deriving DecidableEq, Repr

structure ScanPart where
  channels : Table Channel 4
  coder : CoderState
  lastServed : ChannelNo
  deriving DecidableEq, Repr

/-- The channels and the arbiter after either reset: the last served station is 5 (R57, R63). -/
def ScanPart.initial : ScanPart := ⟨Vector.replicate 4 .idle, .idle, 3⟩

/-! ### Reports (R209) and Job Table (chapter 4) -/

inductive DestState where
  | queued | ready | held | onLine | delivered | failed | cut | cancelled
  deriving DecidableEq, Repr

inductive ScanFault where
  | format | unbound | noRecord | slotsFull | noEnd | superseded | aborted | scanTimeout
  deriving DecidableEq, Repr

inductive RingCause where
  | retiring | store | noJob | noDocument | noPage
  deriving DecidableEq, Repr

inductive AccountPolicy where
  | finish | cut
  deriving DecidableEq, Repr

inductive PrintCause where
  | paperOut | silent
  deriving DecidableEq, Repr

inductive RestartCause where
  | hardReset | order
  deriving DecidableEq, Repr

/-- The reports with their content, in the order of their codes (R209). -/
inductive Report where
  /-- R78; `atEnd` holds the line and the pages delivered of an attempt end, `eligible` the eligible time of a QUEUED one. -/
  | destResult (job : Fin 32) (dest : Nat) (number : Number) (state : DestState) (reason : Reason)
      (attempts allowed next : Nat) (oldVersion : Bool) (atEnd : Option (LineNo × Nat)) (eligible : Option (BitVec 32))
  /-- R85, for a SEND job. -/
  | sendDone (job : Fin 32) (doc : Fin 64) (account : Fin 64) (delivered failed cut cancelled : Nat)
  /-- R85, for a PRINT job. -/
  | printDone (job : Fin 32) (doc : Fin 64) (copies : Nat) (cancelled : Bool)
  /-- R84, R85, for a RECEIVE job. -/
  | receiveDone (line : LineNo) (result : Reason) (doc : Fin 64) (name : Name) (pages : Nat)
  /-- R60. -/
  | pageSealed (channel : ChannelNo) (sheet : Nat) (doc : Fin 64) (slot : Nat) (page : Fin 256) (version width : Nat)
      (resolution : Resolution) (lines substituted length : Nat) (truncated : Bool) (replaced : Option (Fin 256))
  /-- R61. -/
  | scanFault (channel : ChannelNo) (sheet : Nat) (cause : ScanFault) (doc : Option (Fin 64))
      (place : Option (Nat × Fin 256)) (replacement : Bool)
  /-- R118. -/
  | callIn (line : LineNo) (rings : Nat) (job : Fin 32) (doc : Fin 64)
  /-- R117. -/
  | ringRefused (line : LineNo) (rings : Nat) (cause : RingCause)
  /-- R191. -/
  | accountOver (account : Fin 64) (total limit : Nat) (policy : AccountPolicy) (blocked : Bool) (active : Nat)
  /-- R166, R167, R168. -/
  | printState (paused : Bool) (cause : PrintCause) (job : Option (Fin 32)) (place : Option (Nat × Nat)) (line : Option Nat)
  /-- R201, R202. -/
  | recordsWaiting (filled reserved : Nat)
  /-- R58. -/
  | storeLow (channel : ChannelNo) (free reserve : Nat)
  /-- R209, R210. -/
  | restarted (cause : RestartCause) (blocks free : Nat) (retired : List LineNo) (filled : Nat)
  deriving DecidableEq, Repr

inductive RestartPolicy where
  | resume | whole
  deriving DecidableEq, Repr

/-- A destination record (R69). -/
structure Dest where
  number : Number
  state : DestState
  attempts : Nat
  eligible : Option (BitVec 32)
  ready : BitVec 32
  line : Option LineNo
  next : Nat
  reason : Option Reason
  oldVersion : Bool
  deriving DecidableEq, Repr

structure SendJob where
  account : Fin 64
  priority : Nat
  attempts : Nat
  delay : Nat
  policy : RestartPolicy
  dests : List Dest
  deriving DecidableEq, Repr

/-- A print job with its print cursor (R64, R159). -/
structure PrintJob where
  copies : Nat
  priority : Nat
  autoRelease : Bool
  cancelled : Bool
  copy : Nat
  slot : Nat
  completed : Nat
  lost : Bool
  deriving DecidableEq, Repr

structure ReceiveJob where
  line : LineNo
  owed : Bool
  result : Option Reason
  deriving DecidableEq, Repr

inductive JobBody where
  | send (b : SendJob) | print (b : PrintJob) | receive (b : ReceiveJob)
  deriving DecidableEq, Repr

/-- A job slot in use (R64). A DONE job holds the JOB-DONE report that waits for room (R85). -/
structure Job where
  doc : Fin 64
  body : JobBody
  waiting : Option Report
  deriving DecidableEq, Repr

structure JobTable where
  slots : Table (Option Job) 32
  order : List (Fin 32)
  groups : Table (List Number) 8
  deriving DecidableEq, Repr

/-! ### Routes and admission (chapter 5) -/

inductive ChoiceMode where
  | inOrder | spread
  deriving DecidableEq, Repr

/-- A route entry (R90). The prefix length is the length of `digits`. -/
structure Route where
  valid : Bool
  digits : Number
  barred : Bool
  zone : Fin 8
  profile : Fin 8
  access : Number
  lines : List LineNo
  mode : ChoiceMode
  limit : Nat
  deriving DecidableEq, Repr

/-- An invalid entry: every field empty or 0 (R90). -/
def Route.invalid : Route := ⟨false, [], false, 0, 0, [], [], .inOrder, 0⟩

/-- The Route Table and the admission arbiter (R98). `candidates` are the job slot and destination index of the candidates
of the pass in hand, in their order (R99). -/
structure RouteTable where
  entries : Table Route 48
  active : Table Nat 48
  passing : Bool
  rerun : Bool
  candidates : List (Fin 32 × Nat)
  deriving DecidableEq, Repr

/-! ### Line Controller (chapter 6) -/

inductive LineState where
  | idle | seized | dialing | connected | ringing | answering | releasing | retired
  deriving DecidableEq, Repr

inductive Direction where
  | outgoing | incoming
  deriving DecidableEq, Repr

/-- The admission record (R102). The line itself names the reserved charge place (log 22). -/
structure Admission where
  job : Fin 32
  dest : Nat
  number : Number
  account : Fin 64
  entry : Fin 48
  zone : Fin 8
  profile : Fin 8
  access : Number
  deriving DecidableEq, Repr

inductive DialPart where
  | access | number
  deriving DecidableEq, Repr

inductive DialPhase where
  | none | seizePause | breakOn | makeOn | toneOn | toneOff | interdigit | accessPause | comma
  deriving DecidableEq, Repr

/-- The cadence generator (R111). `unit` is the cadence unit in frames, read at the start of the phase. -/
structure Cadence where
  phase : DialPhase
  count : Nat
  pause : Nat
  prescaler : Nat
  unit : Nat
  deriving DecidableEq, Repr

/-- The generator stopped: phase none (R106, R111). Its counters and its unit are then 0, a DESIGN CHOICE (log 37). -/
def Cadence.stopped : Cadence := ⟨.none, 0, 0, 0, 0⟩

structure LineSettings where
  answerAfter : Nat
  copies : Nat
  autoRelease : Bool
  priority : Nat
  deriving DecidableEq, Repr

/-- A line context (R106). -/
structure Line where
  state : LineState
  retiring : Bool
  direction : Option Direction
  admission : Option Admission
  receive : Option (Fin 32 × Fin 64)
  answered : Bool
  part : DialPart
  position : Nat
  breaks : Nat
  cadence : Cadence
  absence : Nat
  blanking : Nat
  onCount : Nat
  gapCount : Nat
  rings : Nat
  refused : Bool
  guard : Nat
  lastReason : Option Reason
  settings : LineSettings
  deriving DecidableEq, Repr

/-- A line after hard reset (R106). R106 gives no value for the dial cursor and for the counters of the stopped generator:
part ACCESS, position 0, breaks 0 and counters 0 are a DESIGN CHOICE (log 37). -/
def Line.initial : Line where
  state := .idle
  retiring := false
  direction := none
  admission := none
  receive := none
  answered := false
  part := .access
  position := 0
  breaks := 0
  cadence := .stopped
  absence := 0
  blanking := 0
  onCount := 0
  gapCount := 0
  rings := 0
  refused := false
  guard := 0
  lastReason := none
  settings := ⟨0, 0, false, 0⟩

inductive DialMethod where
  | tone | pulse
  deriving DecidableEq, Repr

/-- A dial profile (R109). -/
structure Profile where
  method : DialMethod
  unit : Nat
  toneOn : Nat
  toneOff : Nat
  breakTime : Nat
  makeTime : Nat
  interdigit : Nat
  seizePause : Nat
  accessPause : Nat
  commaPause : Nat
  bridge : Nat
  blanking : Nat
  deriving DecidableEq, Repr

/-- The defaults of R109. -/
def Profile.default : Profile := ⟨.tone, 1, 80, 80, 60, 40, 700, 1500, 2000, 2000, 300, 100⟩

/-! ### Call Procedure Engine (chapter 7) with its recoder and checker (chapter 2) -/

inductive LineKind where
  | repeatLine | plain | delta
  deriving DecidableEq, Repr

/-- Where the decoder stands inside a line's run codes (R36): the bits of the code being read, the runs read so far
(newest first) and their sum. -/
structure RunScan where
  code : List Bool
  runs : List Nat
  sum : Nat
  deriving DecidableEq, Repr

/-- A line being read: its kind, its bytes so far (newest first) and its runs. -/
structure LineScan where
  kind : LineKind
  bytes : List Byte
  scan : RunScan
  deriving DecidableEq, Repr

/-- A decoder context (R36). -/
structure Decoder where
  width : Nat
  reference : Option Raster
  index : Nat
  place : Nat
  seeking : Bool
  line : Option LineScan
  ended : Bool
  deriving DecidableEq, Repr

/-- The start of a page of the given width (R36). -/
def Decoder.start (width : Nat) : Decoder := ⟨width, none, 0, 0, false, none, false⟩

inductive RecodeMode where
  | pass | plainOnly | halve
  deriving DecidableEq, Repr

/-- A transmit recoder (R41) with the bytes of the line it has in hand (R45). -/
structure Recoder where
  active : Bool
  mode : RecodeMode
  delta : Bool
  page : Fin 256
  decoder : Decoder
  sendReference : Option Raster
  sent : Nat
  anchor : Nat
  buffer : List Byte
  waiting : Bool
  atEnd : Bool
  deriving DecidableEq, Repr

/-- An idle recoder (R41): empty references, indexes and anchor position 0. R41 gives no mode, no DELTA flag, no page record
and no width for it: PASS, no, record 0 and width 0 are a DESIGN CHOICE (log 38). -/
def Recoder.idle : Recoder := ⟨false, .pass, false, 0, .start 0, none, 0, 0, [], false, false⟩

/-- A receive checker: its decoder context and the anchor position of its next stored line (log 16). -/
structure Checker where
  decoder : Decoder
  anchor : Nat
  deriving DecidableEq, Repr

/-- A checker that reads no page. R36 gives its decoder context no width: 0 is a DESIGN CHOICE (log 38). -/
def Checker.idle : Checker := ⟨.start 0, 0⟩

inductive Phase where
  | idle | waitAbility | waitFirst | waitTrial | sending | holding | waitVerdict
  | waitChoice | judging | waitData | receiving | waitPageEnd | waitClose
  deriving DecidableEq, Repr

inductive Role where
  | caller | called
  deriving DecidableEq, Repr

inductive PageEndKind where
  | next | new | last
  deriving DecidableEq, Repr

inductive Verdict where
  | good | resend
  deriving DecidableEq, Repr

/-- The fields of an ABILITY (R127, R215). -/
structure Abilities where
  maxWidth : Nat
  fine : Bool
  delta : Bool
  maxRate : Nat
  lineTime : Nat
  name : Name
  deriving DecidableEq, Repr

/-- The settings in force (R125), those of a CHOICE. -/
structure Settings where
  width : Nat
  resolution : Resolution
  delta : Bool
  rate : Nat
  lineTime : Nat
  deriving DecidableEq, Repr

/-- The messages of the procedure (R127), as sent or as received with a good layout. -/
inductive Message where
  | ability (a : Abilities)
  | choice (c : Settings) (name : Name)
  | trialGood
  | trialBad
  | pageEnd (kind : PageEndKind)
  | verdict (v : Verdict)
  | wait
  | close (reason : Byte)
  deriving DecidableEq, Repr

/-- A procedure context (R125) with its recoder, its receive checker and its supervised context. -/
structure Proc where
  phase : Phase
  role : Role
  remote : Option Abilities
  settings : Settings
  slot : Nat
  page : Option (Fin 256)
  sends : Nat
  resends : Nat
  bad : Nat
  pageEnd : Option PageEndKind
  lastMessage : Option Message
  lastVerdict : Option Verdict
  delivered : Nat
  endReason : Option Reason
  recoder : Recoder
  checker : Checker
  sup : Supervision
  deriving DecidableEq, Repr

/-- An IDLE context: every field empty or 0 (R125). -/
def Proc.idle : Proc where
  phase := .idle
  role := .caller
  remote := none
  settings := ⟨0, .standard, false, 0, 0⟩
  slot := 0
  page := none
  sends := 0
  resends := 0
  bad := 0
  pageEnd := none
  lastMessage := none
  lastVerdict := none
  delivered := 0
  endReason := none
  recoder := .idle
  checker := .idle
  sup := .off

/-- The module commands, in the order of their codes (R214). -/
inductive ModuleCommand where
  | rest | receive | sendMessage | endMessage | sendData | sendTrial
  deriving DecidableEq, Repr

/-- What the engine has in hand for the module: bytes of messages, their ends and trial bursts, in order. -/
inductive OutItem where
  | byte (b : Byte) | endMessage | trial (rate : Nat)
  deriving DecidableEq, Repr

/-- What a release is handed by the engine (R119, R140). -/
structure ReleaseRequest where
  reason : Reason
  delivered : Nat
  name : Name
  deriving DecidableEq, Repr

/-- A line's highway slot (R214). `handed` says that an item has been handed over since the last frame, which carries one
(log 33). `closing` is the release asked for once the engine's CLOSE has been handed over. -/
structure Slot where
  out : List OutItem
  handed : Bool
  dataByte : Option Byte
  command : ModuleCommand
  rate : Nat
  closing : Option ReleaseRequest
  loopPresent : Bool
  ringPresent : Bool
  word : BitVec 32
  deriving DecidableEq, Repr

/-- A slot after hard reset; the module's indications are a DESIGN CHOICE (log 14). -/
def Slot.initial : Slot := ⟨[], false, none, .rest, 0, none, true, false, 0⟩

/-! ### Print Channel (chapter 9) -/

inductive PrintPhase where
  | idle | waitPage | printing
  deriving DecidableEq, Repr

inductive Ending where
  | complete | withdrawn | cancelled
  deriving DecidableEq, Repr

/-- The frames to the printer (R213). -/
inductive PrinterFrame where
  | pageStart (job : Fin 32) (doc : Fin 64) (slot copy version width : Nat) (resolution : Resolution) (reprint : Bool)
  | printLine (index : Nat) (raster : Raster)
  | pageFinish (job : Fin 32) (slot copy sent substituted : Nat) (ending : Ending)
  deriving DecidableEq, Repr

/-- The Print Channel (R160). The head of `frames` is the frame in hand of the link; `started` says that the
transmitter has begun it (R208). `stopping` is a cancel that waits for the PRINT-LINE frame in hand (R80). -/
structure PrintChannel where
  phase : PrintPhase
  job : Option (Fin 32)
  page : Option (Fin 256)
  decoder : Decoder
  ready : Option (Nat × Raster)
  credits : Nat
  paperOut : Bool
  paused : Bool
  substituted : Nat
  sent : Nat
  frames : List PrinterFrame
  started : Bool
  stopping : Bool
  sup : Supervision
  deriving DecidableEq, Repr

/-- The channel after hard reset (R160). The width 0 of its decoder context, which reads no page, and the
0 in substituted and in sent, which count lines of a page in hand, are a DESIGN CHOICE (log 38). -/
def PrintChannel.initial : PrintChannel where
  phase := .idle
  job := none
  page := none
  decoder := .start 0
  ready := none
  credits := 0
  paperOut := false
  paused := false
  substituted := 0
  sent := 0
  frames := []
  started := false
  stopping := false
  sup := .off

/-! ### Tariff Clock and Meter Bank (chapter 10) -/

/-- A tariff cell (R180). -/
structure Cell where
  whole : Nat
  fraction : Nat
  setup : Nat
  deriving DecidableEq, Repr

/-- A band schedule (R178): the start band and the switch points (second of day, band). -/
structure Schedule where
  start : Fin 4
  points : List (Nat × Fin 4)
  deriving DecidableEq, Repr

structure Clock where
  frame : Nat
  length : Nat
  accumulator : Nat
  second : Nat
  day : Fin 7
  elapsed : BitVec 32
  schedules : Table Schedule 2
  dayMap : Table (Fin 2) 7
  active : Table Cell 32
  staged : Table Cell 32
  deriving DecidableEq, Repr

/-- The clock after hard reset (R189). -/
def Clock.initial : Clock where
  frame := 0
  length := 8000
  accumulator := 0
  second := 0
  day := 0
  elapsed := 0
  schedules := Vector.replicate 2 ⟨0, []⟩
  dayMap := Vector.replicate 7 0
  active := Vector.replicate 32 ⟨0, 0, 0⟩
  staged := Vector.replicate 32 ⟨0, 0, 0⟩

/-- A meter (R183). Its units and its seconds are 32 bits wide, and what they do past 4,294,967,295 is log 47's. -/
structure Meter where
  running : Bool
  timed : Bool
  remaining : Nat
  dither : Nat
  units : BitVec 32
  seconds : BitVec 32
  zone : Fin 8
  account : Fin 64
  answerDay : Fin 7
  answerSecond : Nat
  deriving DecidableEq, Repr

def Meter.initial : Meter := ⟨false, false, 0, 0, 0, 0, 0, 0, 0, 0⟩

/-! ### Accounts and charge records (chapter 11) -/

/-- An account record (R190). -/
structure Account where
  total : Nat
  limit : Nat
  isOver : Bool
  blocked : Bool
  policy : AccountPolicy
  active : Nat
  deriving DecidableEq, Repr

def Account.initial : Account := ⟨0, 0, false, false, .finish, 0⟩

/-- A reserved place (R197). -/
structure Reservation where
  line : LineNo
  job : Fin 32
  dest : Nat
  deriving DecidableEq, Repr

/-- A charge record (R199). -/
structure ChargeRecord where
  account : Fin 64
  job : Fin 32
  dest : Nat
  number : Number
  entry : Fin 48
  zone : Fin 8
  line : LineNo
  answerDay : Fin 7
  answerSecond : Nat
  duration : BitVec 32
  units : BitVec 32
  reason : Reason
  delivered : Nat
  name : Name
  deriving DecidableEq, Repr

/-- The charge record queue (R197): reserved places and filled records, oldest first. -/
structure ChargeQueue where
  reserved : List Reservation
  filled : List ChargeRecord
  deriving DecidableEq, Repr

/-! ### Desk Link Interface (chapter 12) -/

inductive RefuseReason where
  | malformed | noSuch | noRoom | wrongState | outOfRange
  deriving DecidableEq, Repr

/-- What an owner answers an order with: DONE with its data as R212 encodes it, or REFUSED with a reason. -/
inductive Answer where
  | done (data : List Byte) | refused (why : RefuseReason)
  deriving DecidableEq, Repr

/-- A REPLY (R205, R212). -/
structure Reply where
  tag : Tag
  code : Byte
  answer : Answer
  deriving DecidableEq, Repr

/-- An ORDER: its tag, its code and its parameter bytes. -/
structure Order where
  tag : Tag
  code : Byte
  params : List Byte
  deriving DecidableEq, Repr

/-- An entry of the order queue (R205): an order, or a repeat with a copy of the stored reply. -/
inductive OrderEntry where
  | order (o : Order) | again (tag : Tag) (reply : Reply)
  deriving DecidableEq, Repr

/-- A CREDIT frame to a scanner station (R213). -/
structure CreditFrame where
  sheet : Nat
  limit : Nat
  expected : Nat
  stop : Bool
  deriving DecidableEq, Repr

/-- A report in the queue with its GAP flag (R209). -/
structure QueuedReport where
  report : Report
  gap : Bool
  deriving DecidableEq, Repr

structure Link where
  bytes : List Byte
  orders : List OrderEntry
  inHand : Option Order
  replies : List Reply
  last : Option (Tag × Reply)
  credits : Table (Option CreditFrame) 4
  reports : List QueuedReport
  gap : Bool
  sending : Option (List Byte)
  deriving DecidableEq, Repr

/-! ### The whole machine -/

/-- The state of the FL-824 and the queue of the commands that wait. -/
structure State where
  pending : List Instr
  cfg : Configuration
  store : Store
  scan : ScanPart
  jobs : JobTable
  routes : RouteTable
  lines : Table Line 8
  profiles : Table Profile 8
  procs : Table Proc 8
  slots : Table Slot 8
  ticks : Table Nat 6
  printer : PrintChannel
  clock : Clock
  meters : Table Meter 8
  accounts : Table Account 64
  charges : ChargeQueue
  link : Link
  freeCount : Nat
  deriving DecidableEq, Repr

/-- The faults: none. The spec names no state in which the part stops: what goes wrong is a refused order, a discarded
frame or message, a report or a call reason, all of them effects on State. A type without a constructor says so. Safe. -/
inductive Fault where
  deriving DecidableEq, Repr

/-- Why a command is refused by the model. -/
inductive Refusal where
  /-- A row that has no meaning yet; raised by exec's arms alone. Safe. -/
  | notModelled (mnemonic : String)
  deriving DecidableEq, Repr

/-! ### Hard reset -/

/-- The block count that the strap MSZ[1:0] selects (R1). -/
def strapBlocks (msz : BitVec 2) : Nat :=
  if msz = 0#2 then 4096 else if msz = 1#2 then 8192 else 16384

/-- The store after hard reset with N blocks: every block free in ascending order, every record FREE (R1, R3, R10). -/
def Store.initial (n : Nat) : Store where
  blocks := n
  freeList := List.range n
  mem := []
  pages := Vector.replicate 256 .blank
  docs := Vector.replicate 64 none
  claims := []

def JobTable.initial : JobTable := ⟨Vector.replicate 32 none, [], Vector.replicate 8 []⟩

def RouteTable.initial : RouteTable := ⟨Vector.replicate 48 .invalid, Vector.replicate 48 0, false, false, []⟩

/-- The link after hard reset (R204, R205, R208, R209): one RESTARTED report, cause HARD-RESET, waits. -/
def Link.initial (n : Nat) : Link where
  bytes := []
  orders := []
  inHand := none
  replies := []
  last := none
  credits := Vector.replicate 4 none
  reports := [⟨.restarted .hardReset n n [] 0, false⟩]
  gap := false
  sending := none

/-- The machine after a hard reset that sampled the strap at `msz`, with an empty command queue. -/
def State.afterReset (msz : BitVec 2) : State where
  pending := []
  cfg := .default
  store := .initial (strapBlocks msz)
  scan := .initial
  jobs := .initial
  routes := .initial
  lines := Vector.replicate 8 .initial
  profiles := Vector.replicate 8 .default
  procs := Vector.replicate 8 .idle
  slots := Vector.replicate 8 .initial
  ticks := Vector.replicate 6 0
  printer := .initial
  clock := .initial
  meters := Vector.replicate 8 .initial
  accounts := Vector.replicate 64 .initial
  charges := ⟨[], []⟩
  link := .initial (strapBlocks msz)
  freeCount := 0

/-- The machine right after hard reset (R209), with the strap of Config. -/
def State.reset : State := State.afterReset Config.resetStrap

end Sys2Proof.Machine
end

