-- ==== Sys2Proof/Machine/Tables.lean ====
section
/-! DEFINITION. The one read and the one write of a numbered table, and the number lists the rules run over. -/

namespace Sys2Proof.Machine

/-- The entry of place `i`. -/
def fetch {α : Type} {n : Nat} (t : Table α n) (i : Fin n) : α := t[i.val]

/-- The table with place `i` holding `x`. -/
def store {α : Type} {n : Nat} (t : Table α n) (i : Fin n) (x : α) : Table α n := t.set i.val x

/-- The table with `f` applied at place `i`. -/
def change {α : Type} {n : Nat} (t : Table α n) (i : Fin n) (f : α → α) : Table α n := store t i (f (fetch t i))

/-- The index that a number names, if it is in range. -/
def index? (n k : Nat) : Option (Fin n) := if h : k < n then some ⟨k, h⟩ else none

/-- The numbers 0 to n - 1 of a table, in order. -/
def indices (n : Nat) : List (Fin n) := List.finRange n

/-- The lines 0 to 7, in order. -/
def allLines : List LineNo := [0, 1, 2, 3, 4, 5, 6, 7]

/-- The scan channels of stations 2 to 5, in order. -/
def allChannels : List ChannelNo := [0, 1, 2, 3]

end Sys2Proof.Machine
end

