-- ==== Sys2Proof/Machine/SpanCode.lean ====
section
/-! DEFINITION. Span coding (chapter 2): runs, run codes, the coder's choice of a line kind, the decoder one byte at a
time, and pads. Nothing here touches State. -/

namespace Sys2Proof.Machine

/-! ### Runs and their codes (R28, R29, R30) -/

/-- The runs of what is left of a line, `count` pixels of `colour` being already counted. -/
def runsFrom (colour : Bool) (count : Nat) : Raster → List Nat
  | [] => [count]
  | p :: ps => if p = colour then runsFrom colour (count + 1) ps else count :: runsFrom (!colour) 1 ps

/-- The runs of a line (R28): alternately white and black, beginning with white. -/
def runsOf (r : Raster) : List Nat := runsFrom false 0 r

/-- The pixels of a run list (R36), the first run being of `colour`. -/
def expandRuns (colour : Bool) : List Nat → Raster
  | [] => []
  | n :: ns => List.replicate n colour ++ expandRuns (!colour) ns

/-- The difference line (R28), and a line rebuilt from its differences (R36). -/
def differ (a b : Raster) : Raster := List.zipWith xor a b

/-- The `w` low bits of `n`, most significant first. -/
def bitsOf : Nat → Nat → List Bool
  | 0, _ => []
  | w + 1, n => n.testBit w :: bitsOf w n

/-- The number that bits spell, most significant first. -/
def bitsValue (bs : List Bool) : Nat := bs.foldl (fun a b => 2 * a + b.toNat) 0

/-- The run code of R29. -/
def runCode (n : Nat) : List Bool :=
  if n ≤ 7 then false :: bitsOf 3 n
  else if n ≤ 71 then true :: false :: bitsOf 6 (n - 8)
  else true :: true :: false :: bitsOf 11 (n - 72)

/-- Bits packed into bytes most significant first, `k` bits of value `acc` already taken; zero bits fill the last byte (R28). -/
def packFrom (acc k : Nat) : List Bool → List Byte
  | [] => if k = 0 then [] else [byteOf (acc * 2 ^ (8 - k))]
  | b :: bs =>
    if k = 7 then byteOf (2 * acc + b.toNat) :: packFrom 0 0 bs else packFrom (2 * acc + b.toNat) (k + 1) bs

/-- Bits packed into bytes. -/
def packBits (bs : List Bool) : List Byte := packFrom 0 0 bs

/-- The bits of a byte, most significant first. -/
def byteBits (b : Byte) : List Bool := bitsOf 8 b.toNat

/-- The line marks (R29). -/
def markOf : LineKind → Byte
  | .repeatLine => 0x5A
  | .plain => 0x69
  | .delta => 0x96

/-- The page-end mark (R29). -/
def pageEndMark : Byte := 0xC3

/-- The length in bits of a run code (R29). -/
def runCodeBits (n : Nat) : Nat := if n ≤ 7 then 4 else if n ≤ 71 then 8 else 14

/-- The coded length of a line (R30). -/
def codedLength (kind : LineKind) (runs : List Nat) : Nat :=
  match kind with
  | .repeatLine => 1
  | .plain => 1 + ((runs.map runCodeBits).sum + 7) / 8
  | .delta => 1 + ((runs.map runCodeBits).sum + 7) / 8

/-- A coded line: its mark and, for PLAIN and DELTA, its run codes (R27, R31). -/
def codedLine (kind : LineKind) (runs : List Nat) : List Byte :=
  match kind with
  | .repeatLine => [markOf .repeatLine]
  | .plain => markOf .plain :: packBits (runs.flatMap runCode)
  | .delta => markOf .delta :: packBits (runs.flatMap runCode)

/-! ### The coder's choice (R31) and the substitute (R35) -/

/-- The kind R31 chooses for a line, with DELTA allowed or not. -/
def chooseKind (anchor : Nat) (reference : Option Raster) (deltaAllowed : Bool) (r : Raster) : LineKind :=
  if anchor = 0 then .plain
  else match reference with
    | none => .plain
    | some f =>
      if r = f then .repeatLine
      else if deltaAllowed && decide (codedLength .delta (runsOf (differ r f)) < codedLength .plain (runsOf r)) then .delta
      else .plain

/-- A line coded by R31. -/
def codeLine (anchor : Nat) (reference : Option Raster) (deltaAllowed : Bool) (r : Raster) : List Byte :=
  match chooseKind anchor reference deltaAllowed r with
  | .repeatLine => codedLine .repeatLine []
  | .plain => codedLine .plain (runsOf r)
  | .delta => codedLine .delta (runsOf (differ r (reference.getD [])))

/-- The substitute raster (R35): the reference line, or an all-white line where there is none. -/
def substituteRaster (width : Nat) (reference : Option Raster) : Raster :=
  reference.getD (List.replicate width false)

/-- The anchor position after a line (R32). -/
def nextAnchor (anchor interval : Nat) : Nat := if interval ≤ anchor + 1 then 0 else anchor + 1

/-- A coder context after a granted append of `r` (R32). -/
def CoderContext.advance (c : CoderContext) (interval : Nat) (r : Raster) : CoderContext :=
  ⟨some r, c.index + 1, nextAnchor c.anchor interval⟩

/-! ### The decoder (R36 to R39) -/

/-- What the bits of a run code say so far. -/
inductive CodeReading where
  | part | value (n : Nat) | invalid
  deriving DecidableEq, Repr

/-- Reads a run code from its bits (R29); a code that begins with 111 is invalid. -/
def readCode (code : List Bool) : CodeReading :=
  match code with
  | [] => .part
  | false :: v => if v.length = 3 then .value (bitsValue v) else .part
  | [true] => .part
  | true :: false :: v => if v.length = 6 then .value (8 + bitsValue v) else .part
  | [true, true] => .part
  | true :: true :: false :: v => if v.length = 11 then .value (72 + bitsValue v) else .part
  | true :: true :: true :: _ => .invalid

/-- What reading bits of a line's runs comes to. -/
inductive RunReading where
  | more (s : RunScan) | complete (runs : List Nat) | bad
  deriving DecidableEq, Repr

/-- One bit of a line of width `w` (R36, R37). -/
def RunScan.feedBit (w : Nat) (s : RunScan) (b : Bool) : RunReading :=
  match readCode (s.code ++ [b]) with
  | .part => .more { s with code := s.code ++ [b] }
  | .invalid => .bad
  | .value n =>
    if n = 0 ∧ s.runs ≠ [] then .bad
    else if w < s.sum + n then .bad
    else if s.sum + n = w then .complete (n :: s.runs).reverse
    else .more ⟨[], n :: s.runs, s.sum + n⟩

/-- The bits of a byte in turn; bits after the line's end or its fault are not examined (R36). -/
def RunScan.feedBits (w : Nat) (s : RunScan) : List Bool → RunReading
  | [] => .more s
  | b :: bs =>
    match s.feedBit w b with
    | .more s' => s'.feedBits w bs
    | .complete runs => .complete runs
    | .bad => .bad

/-- A line given by the decoder to its reader (R36); `bytes` are those the line took, its mark and run-code bytes as they
stood, without the fill before them (log 16). `runs` are the runs that a good PLAIN or DELTA line's codes spell. -/
structure DecodedLine where
  raster : Raster
  index : Nat
  good : Bool
  kind : Option LineKind
  bytes : List Byte
  runs : List Nat
  deriving DecidableEq, Repr

/-- What one byte brings. -/
inductive DecoderEvent where
  | none | line (l : DecodedLine) | pageEnd
  deriving DecidableEq, Repr

/-- A good line is given with the bytes it took, and becomes the reference (R36). -/
def Decoder.giveGood (d : Decoder) (kind : LineKind) (runs : List Nat) (bytes : List Byte) : Decoder × DecoderEvent :=
  let raster := match kind with
    | .repeatLine => substituteRaster d.width d.reference
    | .plain => expandRuns false runs
    | .delta => differ (expandRuns false runs) (substituteRaster d.width d.reference)
  ({ d with reference := some raster, index := d.index + 1, place := d.place + 1, seeking := false, line := none },
   .line ⟨raster, d.index, true, some kind, bytes, runs⟩)

/-- A bad line is given with its substitute raster, which becomes the reference; the decoder then looks for the next
mark (R37, R38). -/
def Decoder.giveBad (d : Decoder) (kind : Option LineKind) (bytes : List Byte) : Decoder × DecoderEvent :=
  let raster := substituteRaster d.width d.reference
  ({ d with reference := some raster, index := d.index + 1, place := d.place + 1, seeking := true, line := none },
   .line ⟨raster, d.index, false, kind, bytes, []⟩)

/-- One byte in the place of a mark (R36, R37, R38). -/
def Decoder.feedMark (d : Decoder) (b : Byte) : Decoder × DecoderEvent :=
  if b = pageEndMark then ({ d with place := d.place + 1, seeking := false, ended := true }, .pageEnd)
  else if b = markOf .plain then
    ({ d with place := d.place + 1, seeking := false, line := some ⟨.plain, [b], ⟨[], [], 0⟩⟩ }, .none)
  else if b = markOf .repeatLine then
    if d.index = 0 then d.giveBad (some .repeatLine) [b] else d.giveGood .repeatLine [] [b]
  else if b = markOf .delta then
    if d.index = 0 then d.giveBad (some .delta) [b]
    else ({ d with place := d.place + 1, seeking := false, line := some ⟨.delta, [b], ⟨[], [], 0⟩⟩ }, .none)
  else if b = 0 ∨ d.seeking then ({ d with place := d.place + 1 }, .none)
  else d.giveBad none [b]

/-- One byte of page data (R36 to R39). Bytes after a PAGE-END mark are not read. -/
def Decoder.feed (d : Decoder) (b : Byte) : Decoder × DecoderEvent :=
  if d.ended then ({ d with place := d.place + 1 }, .none)
  else match d.line with
    | none => d.feedMark b
    | some l =>
      match l.scan.feedBits d.width (byteBits b) with
      | .more s => ({ d with place := d.place + 1, line := some { l with bytes := b :: l.bytes, scan := s } }, .none)
      | .complete runs => d.giveGood l.kind runs (b :: l.bytes).reverse
      | .bad => d.giveBad (some l.kind) (b :: l.bytes).reverse

/-- The page data has ended (R37, R39): a line not complete is bad. -/
def Decoder.endData (d : Decoder) : Decoder × DecoderEvent :=
  match d.line with
  | some l => if d.ended then (d, .none) else d.giveBad (some l.kind) l.bytes.reverse
  | none => (d, .none)

/-! ### Rates and pads (R46, R125) -/

/-- The minimum line time in ms of a line time code (R125). -/
def lineTimeMs (code : Nat) : Nat :=
  match code with
  | 1 => 5
  | 2 => 10
  | 3 => 20
  | 4 => 40
  | _ => 0

/-- Bmin (R46): the rate in bit/s times the line time in ms, divided by 8000 and rounded up. -/
def minBytes (rate lineTime : Nat) : Nat := (2400 * rate * lineTimeMs lineTime + 7999) / 8000

/-- A coded line followed by its pad (R46). -/
def padded (rate lineTime : Nat) (bytes : List Byte) : List Byte :=
  bytes ++ List.replicate (minBytes rate lineTime - bytes.length) 0

end Sys2Proof.Machine
end

