-- ==== Sys2Proof/Machine/Formats.lean ====
section
/-! DEFINITION. The encodings of chapter 12: integers, strings, symbols and pixel strings (R212, R213), the CRC and the
link frame (R211), the inbound frame checker (R204), messages (R215) and the word of a highway slot (R214). -/

namespace Sys2Proof.Machine

/-! ### Writing (R212) -/

/-- An integer in `k` bytes, most significant byte first (R211). -/
def uint : Nat → Nat → List Byte
  | 0, _ => []
  | k + 1, n => byteOf (n / 2 ^ (8 * k)) :: uint k n

/-- A flag: one byte (R212). -/
def flag (b : Bool) : List Byte := [byteOf b.toNat]

/-- A list: a count byte followed by its items (R212). -/
def listOf {α : Type} (f : α → List Byte) (l : List α) : List Byte := byteOf l.length :: l.flatMap f

/-- A field that may be left out, behind its presence byte (R212). -/
def present {α : Type} (f : α → List Byte) : Option α → List Byte
  | none => [0]
  | some a => 1 :: f a

/-- A field carried only in some cases, behind its presence byte (R212). -/
def fieldIf (b : Bool) (bytes : List Byte) : List Byte := if b then 1 :: bytes else [0]

/-- A string of characters (R212). -/
def text (n : Name) : List Byte := listOf (fun c => [c]) n

/-- The four bits of a symbol (R212). -/
def Symbol.nibble : Symbol → Nat
  | .digit d => d.val
  | .star => 10
  | .hash => 11
  | .pause => 12

/-- The symbol of four bits, for the twelve that are allowed (R66). -/
def Symbol.ofNibble (n : Nat) : Option Symbol :=
  if h : n < 10 then some (.digit ⟨n, h⟩)
  else if n = 10 then some .star
  else if n = 11 then some .hash
  else if n = 12 then some .pause
  else none

/-- Two symbols to a byte, the first in the high four bits; 15 fills the last low four bits of an odd count (R212). -/
def packNibbles : List Nat → List Byte
  | [] => []
  | [a] => [byteOf (16 * a + 15)]
  | a :: b :: rest => byteOf (16 * a + b) :: packNibbles rest

/-- A dialled number, prefix or access digit string: its count, then its symbols two to a byte (R212). -/
def symbols (n : Number) : List Byte := byteOf n.length :: packNibbles (n.map Symbol.nibble)

/-- An integer in two's complement in two bytes: the correction (R212). -/
def int16 (c : Int) : List Byte := uint 2 (BitVec.ofInt 16 c).toNat

/-- A pixel string (R213): eight pixels to a byte, pixel 0 in the most significant bit of the first. -/
def pixels (r : Raster) : List Byte := packBits r

def Resolution.code : Resolution → Nat
  | .standard => 0
  | .fine => 1

def Resolution.ofCode (n : Nat) : Option Resolution :=
  if n = 0 then some .standard else if n = 1 then some .fine else none

/-- The call reason codes (R215). -/
def Reason.code : Reason → Nat
  | .delivered => 0
  | .busy => 1
  | .noAnswer => 2
  | .timeout => 3
  | .lineLost => 4
  | .noRate => 5
  | .pageRefused => 6
  | .remoteClose => 7
  | .width => 8
  | .cutCredit => 9
  | .cancelled => 10
  | .restart => 11
  | .noRoute => 12
  | .barred => 13
  | .storeFull => 14
  | .docFull => 15

/-! ### Reading (R212) -/

/-- A reader of bytes: what it read and the bytes left, or nothing where the layout does not fit. -/
abbrev Reader := StateT (List Byte) Option

/-- One byte. -/
def readByte : Reader Byte := fun bs =>
  match bs with
  | [] => none
  | b :: rest => some (b, rest)

/-- An integer of `k` bytes, `acc` holding the bytes before. -/
def readUintFrom (acc : Nat) : Nat → Reader Nat
  | 0 => pure acc
  | k + 1 => do
    let b ← readByte
    readUintFrom (256 * acc + b.toNat) k

/-- An integer of `k` bytes, most significant first. -/
def readUint (k : Nat) : Reader Nat := readUintFrom 0 k

/-- A flag; a byte other than 0 and 1 does not fit (R206). -/
def readFlag : Reader Bool := do
  let b ← readByte
  if b = 0 then pure false else if b = 1 then pure true else fun _ => none

/-- A field behind a presence byte (R212). -/
def readOptional {α : Type} (r : Reader α) : Reader (Option α) := do
  let p ← readFlag
  if p then some <$> r else pure none

/-- `n` items. -/
def readTimes {α : Type} (r : Reader α) : Nat → Reader (List α)
  | 0 => pure []
  | n + 1 => do
    let a ← r
    let rest ← readTimes r n
    pure (a :: rest)

/-- A list: a count byte and its items. -/
def readList {α : Type} (r : Reader α) : Reader (List α) := do
  let n ← readByte
  readTimes r n.toNat

/-- The two four-bit values of a byte. -/
def nibblesOf (b : Byte) : List Nat := [b.toNat / 16, b.toNat % 16]

/-- The four-bit values of a symbol string. What fills the last four bits of an odd count is not examined (log 12). -/
def readNibbles : Reader (List Nat) := do
  let n ← readByte
  let bs ← readTimes readByte ((n.toNat + 1) / 2)
  pure ((bs.flatMap nibblesOf).take n.toNat)

/-- A string of characters. -/
def readText : Reader Name := readList readByte

/-- A reader that must take every byte: too few or any left over does not fit (R206). -/
def readAll {α : Type} (r : Reader α) (bs : List Byte) : Option α :=
  match r.run bs with
  | some (a, []) => some a
  | _ => none

/-- The symbols of four-bit values, if each is one of the twelve (R66). -/
def numberOf (ns : List Nat) : Option Number := ns.mapM Symbol.ofNibble

/-- The pixels of a pixel string (R213). -/
def readPixels (bs : List Byte) : Raster := bs.flatMap byteBits

/-! ### CRC and frames (R211) -/

/-- One bit of the CRC with the polynomial x^16 + x^12 + x^5 + 1. -/
def crcBit (c : BitVec 16) (b : Bool) : BitVec 16 :=
  if xor c.msb b then (c <<< 1) ^^^ 0x1021#16 else c <<< 1

/-- The CRC of R211 over bytes, each most significant bit first, the register preset to all ones. -/
def crc16 (bs : List Byte) : BitVec 16 := (bs.flatMap byteBits).foldl crcBit 0xFFFF#16

/-- The kinds of link frame (R211). -/
inductive FrameKind where
  | raster | sheet | credit | pageStart | printLine | pageFinish | printerStatus | order | reply | report
  deriving DecidableEq, Repr

def FrameKind.code : FrameKind → Nat
  | .raster => 1
  | .sheet => 2
  | .credit => 3
  | .pageStart => 4
  | .printLine => 5
  | .pageFinish => 6
  | .printerStatus => 7
  | .order => 8
  | .reply => 9
  | .report => 10

/-- The header of a frame without its sync pair (R211). -/
def frameHeader (dst src kind length : Nat) : List Byte := [byteOf dst, byteOf src, byteOf kind] ++ uint 2 length

/-- A whole frame from the part (station 0) in sending order (R211). -/
def frameTo (dst : Nat) (kind : FrameKind) (payload : List Byte) : List Byte :=
  let body := frameHeader dst 0 kind.code payload.length ++ payload
  [0xA5, 0x3C] ++ body ++ uint 2 (crc16 body).toNat

/-- A frame that passed its check. -/
structure Frame where
  dst : Byte
  src : Byte
  kind : Byte
  payload : List Byte
  deriving DecidableEq, Repr

/-! ### The inbound frame checker (R204)

The checker's bytes are those held since the sync pair that opened the frame under check, or a lone 0xA5 in HUNT. Its
state and the count still due follow from them. -/

inductive CheckerState where
  | hunt | header | payload | check
  deriving DecidableEq, Repr

/-- The length field of held bytes (R211). -/
def heldLength (held : List Byte) : Nat := 256 * (held.getD 5 0).toNat + (held.getD 6 0).toNat

/-- The checker's state, from the bytes held. -/
def checkerState (held : List Byte) : CheckerState :=
  if held.length < 2 then .hunt
  else if held.length < 7 then .header
  else if held.length < 7 + heldLength held then .payload
  else .check

/-- The count still due in that state. -/
def checkerDue (held : List Byte) : Nat :=
  match checkerState held with
  | .hunt => 0
  | .header => 7 - held.length
  | .payload => 7 + heldLength held - held.length
  | .check => 9 + heldLength held - held.length

/-- What the checker makes of the bytes held (R204): it skips to a sync pair, waits for more, passes a frame, or goes on
from the byte after a failed frame's 0xA5. `fuel` is the number of bytes. -/
def checkBytes : Nat → List Byte → List Frame × List Byte
  | 0, held => ([], held)
  | fuel + 1, held =>
    match held with
    | [] => ([], [])
    | [b] => if b = 0xA5 then ([], [b]) else ([], [])
    | a :: b :: rest =>
      if a = 0xA5 ∧ b = 0x3C then
        if held.length < 7 then ([], held)
        else if 300 < heldLength held then checkBytes fuel (b :: rest)
        else if held.length < 9 + heldLength held then ([], held)
        else
          let n := heldLength held
          let body := (held.drop 2).take (5 + n)
          if (held.drop (7 + n)).take 2 = uint 2 (crc16 body).toNat then
            let (frames, left) := checkBytes fuel (held.drop (9 + n))
            (⟨held.getD 2 0, held.getD 3 0, held.getD 4 0, (held.drop 7).take n⟩ :: frames, left)
          else checkBytes fuel (b :: rest)
      else checkBytes fuel (b :: rest)

/-! ### Messages (R215) -/

/-- A message as the bytes handed to the module (R215). -/
def Message.bytes : Message → List Byte
  | .ability a => 1 :: (uint 2 a.maxWidth ++ flag a.fine ++ flag a.delta ++ uint 1 a.maxRate ++ uint 1 a.lineTime ++ text a.name)
  | .choice c n =>
    2 :: (uint 2 c.width ++ uint 1 c.resolution.code ++ flag c.delta ++ uint 1 c.rate ++ uint 1 c.lineTime ++ text n)
  | .trialGood => [3]
  | .trialBad => [4]
  | .pageEnd k => 5 :: (match k with | .next => [0] | .new => [1] | .last => [2])
  | .verdict v => 6 :: (match v with | .good => [0] | .resend => [1])
  | .wait => [7]
  | .close r => [8, r]

/-- A station name of at most 20 characters. -/
def readName : Reader Name := do
  let n ← readText
  if n.length ≤ 20 then pure n else fun _ => none

def readAbility : Reader Message := do
  let w ← readUint 2
  let f ← readFlag
  let d ← readFlag
  let r ← readUint 1
  let t ← readUint 1
  let n ← readName
  pure (.ability ⟨w, f, d, r, t, n⟩)

def readChoice : Reader Message := do
  let w ← readUint 2
  let q ← readUint 1
  let d ← readFlag
  let r ← readUint 1
  let t ← readUint 1
  let n ← readName
  match Resolution.ofCode q with
  | some q' => pure (.choice ⟨w, q', d, r, t⟩ n)
  | none => fun _ => none

def readPageEnd : Reader Message := do
  let k ← readUint 1
  match k with
  | 0 => pure (.pageEnd .next)
  | 1 => pure (.pageEnd .new)
  | 2 => pure (.pageEnd .last)
  | _ => fun _ => none

def readVerdict : Reader Message := do
  let k ← readUint 1
  match k with
  | 0 => pure (.verdict .good)
  | 1 => pure (.verdict .resend)
  | _ => fun _ => none

def readClose : Reader Message := do
  let r ← readByte
  pure (.close r)

/-- The message that received bytes make, or none where the layout is bad (R215). -/
def readMessage (bytes : List Byte) : Option Message :=
  match bytes with
  | [] => none
  | c :: rest =>
    match c.toNat with
    | 1 => readAll readAbility rest
    | 2 => readAll readChoice rest
    | 3 => readAll (pure .trialGood) rest
    | 4 => readAll (pure .trialBad) rest
    | 5 => readAll readPageEnd rest
    | 6 => readAll readVerdict rest
    | 7 => readAll (pure .wait) rest
    | 8 => readAll readClose rest
    | _ => none

/-! ### Frames to the scanners and the printer (R213) -/

def CreditFrame.bytes (c : CreditFrame) : List Byte :=
  uint 1 c.sheet ++ uint 2 c.limit ++ uint 2 c.expected ++ flag c.stop

def PrinterFrame.kind : PrinterFrame → FrameKind
  | .pageStart .. => .pageStart
  | .printLine .. => .printLine
  | .pageFinish .. => .pageFinish

def PrinterFrame.bytes : PrinterFrame → List Byte
  | .pageStart j d s c v w r p =>
    uint 1 j.val ++ uint 1 d.val ++ uint 1 s ++ uint 1 c ++ uint 1 v ++ uint 2 w ++ uint 1 r.code ++ flag p
  | .printLine n r => uint 2 n ++ pixels r
  | .pageFinish j s c n q e =>
    uint 1 j.val ++ uint 1 s ++ uint 1 c ++ uint 2 n ++ uint 2 q ++
      uint 1 (match e with | .complete => 0 | .withdrawn => 1 | .cancelled => 2)

/-! ### Reports (R209, R212) -/

def DestState.code : DestState → Nat
  | .queued => 0
  | .ready => 1
  | .held => 2
  | .onLine => 3
  | .delivered => 4
  | .failed => 5
  | .cut => 6
  | .cancelled => 7

def ScanFault.code : ScanFault → Nat
  | .format => 0
  | .unbound => 1
  | .noRecord => 2
  | .slotsFull => 3
  | .noEnd => 4
  | .superseded => 5
  | .aborted => 6
  | .scanTimeout => 7

def RingCause.code : RingCause → Nat
  | .retiring => 0
  | .store => 1
  | .noJob => 2
  | .noDocument => 3
  | .noPage => 4

def AccountPolicy.code : AccountPolicy → Nat
  | .finish => 0
  | .cut => 1

/-- The station address of a channel (chapter 3). -/
def stationOf (c : ChannelNo) : Nat := c.val + 2

/-- The channel of a scanner station. -/
def channelOf (src : Nat) : Option ChannelNo := if 2 ≤ src then index? 4 (src - 2) else none

/-- The report kind codes (R209). -/
def Report.code : Report → Nat
  | .destResult .. => 1
  | .sendDone .. => 2
  | .printDone .. => 2
  | .receiveDone .. => 2
  | .pageSealed .. => 3
  | .scanFault .. => 4
  | .callIn .. => 5
  | .ringRefused .. => 6
  | .accountOver .. => 7
  | .printState .. => 8
  | .recordsWaiting .. => 9
  | .storeLow .. => 10
  | .restarted .. => 11

/-- The content of JOB-DONE (R85, R84): each field that only some kinds of job carry stands behind a presence byte (R212), and the
line and the result of a RECEIVE job stand before the document, so that each kind's fields keep the order its rule lists (log 13).
`send` holds the account and the four counts, `print` the copies completed and whether the job was cancelled, `receive` the line,
the result, the remote name and the pages sealed. -/
def jobDoneBytes (job : Option (Fin 32)) (doc : Fin 64) (send : Option (Fin 64 × Nat × Nat × Nat × Nat)) (print : Option (Nat × Bool))
    (receive : Option (LineNo × Reason × Name × Nat)) : List Byte :=
  present (fun j => uint 1 j.val) job ++
    present (fun q => uint 1 q.1.val) receive ++ present (fun q => uint 1 q.2.1.code) receive ++ uint 1 doc.val ++
    present (fun q => uint 1 q.1.val) send ++ present (fun q => uint 1 q.2.1) send ++ present (fun q => uint 1 q.2.2.1) send ++
    present (fun q => uint 1 q.2.2.2.1) send ++ present (fun q => uint 1 q.2.2.2.2) send ++
    present (fun q => uint 1 q.1) print ++ present (fun q => flag q.2) print ++
    present (fun q => text q.2.2.1) receive ++ present (fun q => uint 1 q.2.2.2) receive

/-- The content of a report in the order its rule lists it (R212; log 13 for what R212 leaves to inference). -/
def Report.content : Report → List Byte
  | .destResult j d n st r a al nx ov e el =>
    uint 1 j.val ++ uint 1 d ++ symbols n ++ uint 1 st.code ++ uint 1 r.code ++ uint 1 a ++ uint 1 al ++
      uint 1 nx ++ flag ov ++ present (fun p => uint 1 p.1.val) e ++ present (fun p => uint 1 p.2) e ++
      present (fun t => uint 4 t.toNat) el
  | .sendDone j d a n1 n2 n3 n4 => jobDoneBytes (some j) d (some (a, n1, n2, n3, n4)) none none
  | .printDone j d c x => jobDoneBytes (some j) d none (some (c, x)) none
  | .receiveDone l r d n p => jobDoneBytes none d none none (some (l, r, n, p))
  | .pageSealed c s d sl p v w r l sb ln t rp =>
    uint 1 (stationOf c) ++ uint 1 s ++ uint 1 d.val ++ uint 1 sl ++ uint 1 p.val ++ uint 1 v ++ uint 2 w ++ uint 1 r.code ++
      uint 2 l ++ uint 2 sb ++ uint 3 ln ++ flag t ++ present (fun q => uint 1 q.val) rp
  | .scanFault c s f d p r =>
    uint 1 (stationOf c) ++ uint 1 s ++ uint 1 f.code ++ present (fun d => uint 1 d.val) d ++
      present (fun q => uint 1 q.1) p ++ present (fun q => uint 1 q.2.val) p ++ flag r
  | .callIn l n j d => uint 1 l.val ++ uint 1 n ++ uint 1 j.val ++ uint 1 d.val
  | .ringRefused l n c => uint 1 l.val ++ uint 1 n ++ uint 1 c.code
  | .accountOver a t l p b n => uint 1 a.val ++ uint 3 t ++ uint 3 l ++ uint 1 p.code ++ flag b ++ uint 1 n
  | .printState p c j pl ln =>
    flag (!p) ++ uint 1 (match c with | .paperOut => 0 | .silent => 1) ++ present (fun j => uint 1 j.val) j ++
      present (fun q => uint 1 q.1) pl ++ present (fun q => uint 1 q.2) pl ++ present (uint 2) ln
  | .recordsWaiting n r => uint 1 n ++ uint 1 r
  | .storeLow c f r => uint 1 (stationOf c) ++ uint 2 f ++ uint 2 r
  | .restarted c n f l k =>
    uint 1 (match c with | .hardReset => 0 | .order => 1) ++ uint 2 n ++ uint 2 f ++ listOf (fun l => uint 1 l.val) l ++ uint 1 k

/-- The payload of a REPORT frame: kind code, flags with GAP in the most significant bit, content (R212). -/
def QueuedReport.bytes (q : QueuedReport) : List Byte :=
  uint 1 q.report.code ++ [if q.gap then 0x80 else 0] ++ q.report.content

def RefuseReason.code : RefuseReason → Nat
  | .malformed => 1
  | .noSuch => 2
  | .noRoom => 3
  | .wrongState => 4
  | .outOfRange => 5

/-- The payload of a REPLY frame (R212). -/
def Reply.bytes (r : Reply) : List Byte :=
  uint 2 r.tag.toNat ++ [r.code] ++
    (match r.answer with
     | .done data => [0, 0] ++ data
     | .refused why => [1] ++ uint 1 why.code)

/-! ### The word of a highway slot (R214) -/

def ModuleCommand.code : ModuleCommand → Nat
  | .rest => 0
  | .receive => 1
  | .sendMessage => 2
  | .endMessage => 3
  | .sendData => 4
  | .sendTrial => 5

/-- The word from a line's module, read (R214): its data byte where data valid is set, and its nine indications. -/
structure ModuleWord where
  data : Option Byte
  ring : Bool
  loop : Bool
  busy : Bool
  boundary : Bool
  checkError : Bool
  trialValid : Bool
  trialGood : Bool
  space : Bool
  pageData : Bool
  deriving DecidableEq, Repr

/-- The word from a module by the places of its bits (R214). -/
def readModuleWord (w : BitVec 32) : ModuleWord where
  data := if w.getLsbD 23 then some (w.extractLsb' 24 8) else none
  ring := w.getLsbD 22
  loop := w.getLsbD 21
  busy := w.getLsbD 20
  boundary := w.getLsbD 19
  checkError := w.getLsbD 18
  trialValid := w.getLsbD 17
  trialGood := w.getLsbD 16
  space := w.getLsbD 15
  pageData := w.getLsbD 14

/-- The word from the part: data byte, data valid, hook, dial break, tone digit, module command, rate code (R214). -/
def slotWord (data : Option Byte) (offHook dialBreak : Bool) (tone : Nat) (command : ModuleCommand) (rate : Nat) : BitVec 32 :=
  BitVec.ofNat 32
    ((data.getD 0).toNat * 2 ^ 24 + data.isSome.toNat * 2 ^ 23 + offHook.toNat * 2 ^ 22 + dialBreak.toNat * 2 ^ 21 +
      tone * 2 ^ 17 + command.code * 2 ^ 14 + rate * 2 ^ 11)

end Sys2Proof.Machine
end

