-- ==== Sys2Proof/Machine/Flags.lean ====
section
/-! DEFINITION. The conditions the part works out and keeps as flags or reads as status: OVER and OPEN accounts, the store
above its reserve, final destinations, the band in effect, queue room. -/

namespace Sys2Proof.Machine

/-- OVER worked out afresh (R191, R195): the limit is not 0 and the total is at or above it. -/
def overOf (total limit : Nat) : Bool := decide (limit ≠ 0 ∧ limit ≤ total)

/-- The greatest total (R190). -/
def maxTotal : Nat := 16777215

/-- An account in neither condition (R190). -/
def Account.isOpen (a : Account) : Bool := !a.isOver && !a.blocked

/-- An account whose calls are to be cut (R139): policy CUT and OVER; BLOCKED does not cut. -/
def Account.cuts (a : Account) : Bool := a.isOver && decide (a.policy = .cut)

/-- The free count (R1). -/
def Store.freeCount (st : Store) : Nat := st.freeList.length

/-- The claim count of a page (R13). -/
def Store.claimCount (st : Store) (p : Fin 256) : Nat := st.claims.countP (fun c => decide (c.page = p))

/-- A page record held for a reception (R12). -/
def Store.isHeld (st : Store) (p : Fin 256) : Bool :=
  st.docs.toList.any (fun d => match d with | some d => decide (d.held = some p) | none => false)

/-- The final states of a destination (R69). -/
def DestState.isFinal : DestState → Bool
  | .delivered => true
  | .failed => true
  | .cut => true
  | .cancelled => true
  | _ => false

/-- The reasons after which another attempt may be made (R74). -/
def Reason.retryable : Reason → Bool
  | .busy => true
  | .noAnswer => true
  | .timeout => true
  | .lineLost => true
  | .noRate => true
  | .pageRefused => true
  | .remoteClose => true
  | _ => false

/-- An elapsed time that has been reached (R71): the difference modulo 2^32 is below 2^31. -/
def reached (elapsed eligible : BitVec 32) : Bool := decide ((elapsed - eligible).toNat < 2 ^ 31)

/-- The band in effect (R178): that of the last switch point at or below the second of day, or the start band. -/
def bandOf (s : Schedule) (second : Nat) : Fin 4 :=
  match (s.points.filter (fun p => decide (p.1 ≤ second))).getLast? with
  | some p => p.2
  | none => s.start

/-- The class of the day (R178). -/
def Clock.dayClass (c : Clock) : Fin 2 := fetch c.dayMap c.day

/-- The band in effect now (R178). -/
def Clock.band (c : Clock) : Fin 4 := bandOf (fetch c.schedules c.dayClass) c.second

/-- Reserved plus filled places (R197). -/
def ChargeQueue.used (q : ChargeQueue) : Nat := q.reserved.length + q.filled.length

/-- The sheet of a channel is in progress (R47). -/
def Channel.inProgress (c : Channel) : Bool := !decide (c.sheet = .idle)

/-- The unused credits (R47): 0 when the sheet is not ACTIVE. -/
def Channel.unused (c : Channel) : Nat := if c.sheet = .active then c.limit - c.expected else 0

/-- The channel has a piece of work by R54 and waits for the coder (R57). -/
def Channel.waiting (c : Channel) : Bool :=
  c.inProgress && !c.stalled && (!c.staging.isEmpty || c.endEntry.isSome)

/-- The cell of a tariff table for a band and a zone (R180). -/
def cellIndex (band : Fin 4) (zone : Fin 8) : Fin 32 := ⟨band.val * 8 + zone.val, by omega⟩

end Sys2Proof.Machine
end

