-- ==== Sys2Proof/Machine/Ops.lean ====
section
/-! DEFINITION. The shared operations on memory, tables, supervision, reports, page records, documents and claims. -/

namespace Sys2Proof.Machine

/-! ### Page memory -/

/-- The byte at an address. -/
def Memory.read : Memory → Nat → Byte
  | [], _ => Config.unwrittenByte
  | (k, v) :: m, a => if a = k then v else if a < k then Config.unwrittenByte else Memory.read m a

/-- Writes one byte and keeps the canonical form. -/
def Memory.write : Memory → Nat → Byte → Memory
  | [], a, b => if b = Config.unwrittenByte then [] else [(a, b)]
  | (k, v) :: m, a, b =>
    if a < k then (if b = Config.unwrittenByte then (k, v) :: m else (a, b) :: (k, v) :: m)
    else if a = k then (if b = Config.unwrittenByte then m else (a, b) :: m)
    else (k, v) :: Memory.write m a b

/-- The canonical form: addresses strictly rising, no entry equal to what an unlisted address reads as. -/
def Memory.wf : Memory → Bool
  | [] => true
  | [(_, v)] => decide (v ≠ Config.unwrittenByte)
  | (k, v) :: (k', v') :: m => decide (v ≠ Config.unwrittenByte) && decide (k < k') && Memory.wf ((k', v') :: m)

/-- The address of byte `off` of a page (section 1.1, R3): its block in the chain, 2048 bytes to a block. -/
def pageAddress (chain : List Nat) (off : Nat) : Nat := chain.getD (off / 2048) 0 * 2048 + off % 2048

/-- Writes bytes from offset `off` of a page on, in chain order. -/
def Memory.writePage (chain : List Nat) : Memory → Nat → List Byte → Memory
  | m, _, [] => m
  | m, off, b :: bs => Memory.writePage chain (m.write (pageAddress chain off) b) (off + 1) bs

/-! ### One setter for each table of State -/

def State.setLine (s : State) (l : LineNo) (x : Line) : State := { s with lines := Machine.store s.lines l x }
def State.setProc (s : State) (l : LineNo) (x : Proc) : State := { s with procs := Machine.store s.procs l x }
def State.setSlot (s : State) (l : LineNo) (x : Slot) : State := { s with slots := Machine.store s.slots l x }
def State.setMeter (s : State) (l : LineNo) (x : Meter) : State := { s with meters := Machine.store s.meters l x }
def State.setAccount (s : State) (a : Fin 64) (x : Account) : State := { s with accounts := Machine.store s.accounts a x }
def State.setJob (s : State) (j : Fin 32) (x : Option Job) : State :=
  { s with jobs := { s.jobs with slots := Machine.store s.jobs.slots j x } }
def State.setChannel (s : State) (c : ChannelNo) (x : Channel) : State :=
  { s with scan := { s.scan with channels := Machine.store s.scan.channels c x } }
def State.setTick (s : State) (i : Fin 6) (n : Nat) : State := { s with ticks := Machine.store s.ticks i n }
def State.setDoc (s : State) (d : Fin 64) (x : Option Document) : State :=
  { s with store := { s.store with docs := Machine.store s.store.docs d x } }

def State.line (s : State) (l : LineNo) : Line := fetch s.lines l
def State.proc (s : State) (l : LineNo) : Proc := fetch s.procs l
def State.slot (s : State) (l : LineNo) : Slot := fetch s.slots l
def State.meter (s : State) (l : LineNo) : Meter := fetch s.meters l
def State.account (s : State) (a : Fin 64) : Account := fetch s.accounts a
def State.job (s : State) (j : Fin 32) : Option Job := fetch s.jobs.slots j
def State.channel (s : State) (c : ChannelNo) : Channel := fetch s.scan.channels c
def State.doc (s : State) (d : Fin 64) : Option Document := fetch s.store.docs d
def State.page (s : State) (p : Fin 256) : Page := fetch s.store.pages p
def State.profile (s : State) (p : Fin 8) : Profile := fetch s.profiles p

/-! ### Supervision (R151) -/

/-- The index of a class among the tick counters and periods. -/
def TimeoutClass.index : TimeoutClass → Fin 6
  | .answer => 0
  | .message => 1
  | .data => 2
  | .page => 3
  | .scan => 4
  | .print => 5

/-- A supervised wait entered afresh: the class, age 0, suspended clear (R151). -/
def Supervision.enter (c : TimeoutClass) : Supervision := ⟨some c, 0, false⟩

/-- The age set to 0 where the context holds class `c` (R153). -/
def Supervision.progress (c : TimeoutClass) (x : Supervision) : Supervision := if x.cls = some c then { x with age := 0 } else x

/-! ### Reports (R209) -/

/-- The report queue takes a report, or remembers the gap. -/
def Link.offer (l : Link) (r : Report) : Link :=
  if l.reports.length < 64 then { l with reports := l.reports ++ [⟨r, l.gap⟩], gap := false } else { l with gap := true }

/-- A report is offered to the queue. -/
def report (r : Report) (s : State) : State := { s with link := s.link.offer r }

/-- The CREDIT frame waiting for a station, in place of any that waits (R208). -/
def sendCredit (c : ChannelNo) (f : CreditFrame) (s : State) : State :=
  { s with link := { s.link with credits := Machine.store s.link.credits c (some f) } }

/-! ### The start of a pass (R98, R99) -/

/-- A candidate of a pass with what it is sorted by. -/
structure Candidate where
  job : Fin 32
  dest : Nat
  priority : Nat
  age : Nat
  deriving DecidableEq, Repr

/-- Whether a candidate comes before another that stands later by job slot and index (R99). -/
def Candidate.before (a b : Candidate) : Bool := decide (b.priority < a.priority ∨ (a.priority = b.priority ∧ b.age ≤ a.age))

/-- A candidate put into a sorted list whose members come later by job slot and index. -/
def insertCandidate (a : Candidate) : List Candidate → List Candidate
  | [] => [a]
  | b :: rest => if a.before b then a :: b :: rest else b :: insertCandidate a rest

/-- The READY destinations of the ACTIVE send jobs, by job slot, then index. -/
def readyCandidates (s : State) : List Candidate :=
  (indices 32).flatMap (fun j =>
    match s.job j with
    | some ⟨_, .send b, none⟩ =>
      (b.dests.zipIdx.filter (fun e => decide (e.1.state = .ready))).map
        (fun e => ⟨j, e.2, b.priority, (s.clock.elapsed - e.1.ready).toNat⟩)
    | _ => [])

/-- The candidates of a pass that starts now, in order (R99). -/
def candidates (s : State) : List (Fin 32 × Nat) :=
  ((readyCandidates s).foldr insertCandidate []).map (fun c => (c.job, c.dest))

/-- A pass starts: it takes its candidates (R98, R99). -/
def startPass (s : State) : State := { s with routes := { s.routes with passing := true, candidates := candidates s } }

/-- A trigger of the admission arbiter (R98): in IDLE it starts a pass, and in PASSING it sets the rerun flag. -/
def trigger (s : State) : State :=
  if s.routes.passing then { s with routes := { s.routes with rerun := true } } else startPass s

/-! ### Credits of a scan channel (R52) -/

/-- The condition under which a channel grants credits. -/
def Channel.mayGrant (c : Channel) : Bool :=
  decide (c.sheet = .active) && !c.stalled && decide (c.staging.length + c.unused < 4) && decide (c.limit < 4095)

/-- The channel looks at its grant condition: a grant raises the limit and sends a CREDIT frame. -/
def grant (c : ChannelNo) (s : State) : State :=
  let x := s.channel c
  if x.mayGrant then
    let limit := min 4095 (x.expected + 4 - x.staging.length)
    sendCredit c ⟨x.number, limit, x.expected, false⟩ (s.setChannel c { x with limit := limit })
  else s

/-- A channel's stall ends (R58, R157). -/
def endStall (c : ChannelNo) (s : State) : State :=
  let x := s.channel c
  if x.stalled then
    grant c (s.setChannel c { x with stalled := false, sup := if x.sheet = .active then .enter .scan else x.sup })
  else s

/-- The notice that the store is above the reserve reaches the four channels (R2, R58). -/
def endStalls (s : State) : State := allChannels.foldl (fun s c => endStall c s) s

/-- A change of the store, with the notice of a passage above the reserve (R2). -/
def withStore (f : Store → Store) (s : State) : State :=
  let s' := { s with store := f s.store }
  if s.store.freeCount ≤ s.cfg.reserve ∧ s.cfg.reserve < s'.store.freeCount then endStalls s' else s'

/-! ### Page records (R3 to R9, R17) -/

def Store.setPage (st : Store) (p : Fin 256) (x : Page) : Store := { st with pages := Machine.store st.pages p x }

def Store.setDocument (st : Store) (d : Fin 64) (x : Option Document) : Store := { st with docs := Machine.store st.docs d x }

/-- A page that is SEALED or VOID, unclaimed and unmapped becomes FREE and its chain joins the tail of the free list (R17). -/
def Store.settle (st : Store) (p : Fin 256) : Store :=
  let x := fetch st.pages p
  if (x.state = .sealed ∨ x.state = .void) ∧ x.mapped = false ∧ st.claimCount p = 0 then
    { st with pages := Machine.store st.pages p .blank, freeList := st.freeList ++ x.chain }
  else st

/-- The lowest-numbered FREE record that is not held (R5, R12). -/
def Store.freePage (st : Store) : Option (Fin 256) :=
  (indices 256).find? (fun p => decide ((fetch st.pages p).state = .free) && !st.isHeld p)

/-- The lowest-numbered free document record (R12, R21). -/
def Store.freeDoc (st : Store) : Option (Fin 64) := (indices 64).find? (fun d => (fetch st.docs d).isNone)

/-- The purpose of an append (R2). -/
inductive Purpose where
  | scan | receive
  deriving DecidableEq, Repr

/-- Whether a block may be taken from the free list (R2). -/
def Store.grantsBlock (st : Store) (reserve : Nat) : Purpose → Bool
  | .scan => decide (reserve < st.freeCount)
  | .receive => decide (0 < st.freeCount)

/-- What an append adds to a page besides its bytes: a line, a substitute line, or the page-end mark (R6). -/
inductive AppendKind where
  | line | substitute | mark
  deriving DecidableEq, Repr

/-- The page after a granted append (R6). -/
def Page.appended (x : Page) (chain : List Nat) (n : Nat) (kind : AppendKind) : Page :=
  { x with chain := chain, length := x.length + n,
           lines := if kind = .mark then x.lines else x.lines + 1,
           substituted := if kind = .substitute then x.substituted + 1 else x.substituted }

/-- Appends bytes to a FILLING page (R6): nothing where the block it needs is refused (R2), or where the page is not FILLING. -/
def Store.append (st : Store) (reserve : Nat) (purpose : Purpose) (p : Fin 256) (bytes : List Byte) (kind : AppendKind) :
    Option Store :=
  let x := fetch st.pages p
  if x.state ≠ .filling then none
  else if x.length + bytes.length ≤ x.chain.length * 2048 then
    some { st with mem := Memory.writePage x.chain st.mem x.length bytes,
                   pages := Machine.store st.pages p (x.appended x.chain bytes.length kind) }
  else if st.grantsBlock reserve purpose then
    match st.freeList with
    | [] => none
    | b :: rest =>
      some { st with mem := Memory.writePage (x.chain ++ [b]) st.mem x.length bytes, freeList := rest,
                     pages := Machine.store st.pages p (x.appended (x.chain ++ [b]) bytes.length kind) }
  else none

/-- The bytes of a page as they are stored, offset `off` on. -/
def Store.pageByte (st : Store) (p : Fin 256) (off : Nat) : Byte := st.mem.read (pageAddress (fetch st.pages p).chain off)

/-- What reading the next line of a stored page gives (R39). -/
inductive PageReading where
  | line (l : DecodedLine) | finished | waiting
  deriving DecidableEq, Repr

/-- Reads on to the next line (R36, R39): the data of a SEALED page ends at its length; for a page still FILLING the
reader waits there. `fuel` bounds the bytes left. -/
def Store.readLine (st : Store) (p : Fin 256) : Nat → Decoder → Decoder × PageReading
  | 0, d => (d, .waiting)
  | fuel + 1, d =>
    if (fetch st.pages p).length ≤ d.place then
      if (fetch st.pages p).state = .filling then (d, .waiting)
      else match d.endData with
        | (d', .line l) => (d', .line l)
        | (d', _) => (d', .finished)
    else
      match d.feed (st.pageByte p d.place) with
      | (d', .none) => st.readLine p fuel d'
      | (d', .line l) => (d', .line l)
      | (d', .pageEnd) => (d', .finished)

/-- The next line of a page for a decoder context. -/
def Store.nextLine (st : Store) (p : Fin 256) (d : Decoder) : Decoder × PageReading :=
  st.readLine p ((fetch st.pages p).length - d.place + 1) d

/-! ### Claims (R13 to R16, R20) -/

/-- Pages are looked at in turn (R17). Where one event frees several, the order in which their chains join the free list is a
DESIGN CHOICE (log 39): slot order at the freeing of a document, and the order of the claim list at the drop of claims. -/
def Store.settleAll (st : Store) (ps : List (Fin 256)) : Store := ps.foldl Store.settle st

/-- Drops every claim that `gone` picks, and frees what this leaves (R15, R17). -/
def Store.dropClaims (st : Store) (gone : Claim → Bool) : Store :=
  Store.settleAll { st with claims := st.claims.filter (fun c => !gone c) } ((st.claims.filter gone).map Claim.page)

/-- Drops a holder's claims that are not in use; a claim in use is dropped when its use ends (R15, R76). -/
def Store.dropHolder (st : Store) (h : Holder) : Store := st.dropClaims (fun c => decide (c.holder = h) && !c.inUse)

/-- A holder takes a claim on every slot of a document as it stands (R14). -/
def Store.claimDocument (st : Store) (h : Holder) (d : Fin 64) : Store :=
  match fetch st.docs d with
  | none => st
  | some x => { st with claims := st.claims ++ (x.slots.zipIdx.map (fun e => ⟨h, d, e.2, e.1, false, false⟩)) }

/-- The claim of a holder on a slot of its document; a withdrawn claim names a slot that is gone (R8, R13). -/
def Claim.standsAt (c : Claim) (h : Holder) (slot : Nat) : Bool :=
  decide (c.holder = h) && decide (c.slot = slot) && !c.withdrawn

/-- The in-use flag of a holder's claim on a slot is set (R13). -/
def Store.useClaim (st : Store) (h : Holder) (slot : Nat) : Store :=
  { st with claims := st.claims.map (fun c => if c.standsAt h slot then { c with inUse := true } else c) }

/-- The claim of a holder that is in use. -/
def Store.usedClaim (st : Store) (h : Holder) : Option Claim :=
  st.claims.find? (fun c => decide (c.holder = h) && c.inUse)

/-- The page that maps a slot of a document. -/
def Store.slotPage (st : Store) (d : Fin 64) (slot : Nat) : Option (Fin 256) :=
  match fetch st.docs d with
  | none => none
  | some x => x.slots[slot]?

/-- What becomes of a claim when its use ends (R13, R15, R16, R20): `drops` says that an end with success drops the
holder's claim, `gone` that the holder is final or finished. -/
def Store.claimAfterUse (st : Store) (c : Claim) (success drops gone : Bool) : Option Claim :=
  if c.withdrawn || gone then none
  else if success && drops then none
  else if (fetch st.pages c.page).state = .void then
    match st.slotPage c.doc c.slot with
    | some p => some { c with page := p, inUse := false }
    | none => none
  else some { c with inUse := false }

/-- Whether the end of a use with success sets OLD-VERSION (R20): the page was made VOID by a replacement. -/
def Store.deliveredOld (st : Store) (h : Holder) : Bool :=
  match st.usedClaim h with
  | some c => !c.withdrawn && decide ((fetch st.pages c.page).state = .void)
  | none => false

/-- A holder's use of a page ends (R13, R20), and the page is looked at (R17). -/
def Store.endUse (st : Store) (h : Holder) (success drops gone : Bool) : Store :=
  match st.usedClaim h with
  | none => st
  | some c =>
    Store.settle { st with claims := st.claims.flatMap (fun x =>
      if x = c then (st.claimAfterUse c success drops gone).toList else [x]) } c.page

/-! ### Documents (R10, R11) -/

/-- The document's slots are unmapped and its record is free (R11). -/
def Store.freeDocument (st : Store) (d : Fin 64) : Store :=
  match fetch st.docs d with
  | none => st
  | some x =>
    let pages := x.slots.foldl (fun t p => change t p (fun g => { g with mapped := false, place := none })) st.pages
    Store.settleAll { st with pages := pages, docs := Machine.store st.docs d none } x.slots

/-- A document both released and without a job is freed (R11). -/
def Store.freeIfDone (st : Store) (d : Fin 64) : Store :=
  match fetch st.docs d with
  | none => st
  | some x => if x.released ∧ x.jobCount = 0 then st.freeDocument d else st

/-- A document record changed in place, where it is in use. -/
def Store.changeDoc (st : Store) (d : Fin 64) (f : Document → Document) : Store :=
  { st with docs := change st.docs d (Option.map f) }

/-- The job count of a document rises (R11). -/
def addJob (d : Fin 64) (s : State) : State :=
  { s with store := s.store.changeDoc d (fun x => { x with jobCount := x.jobCount + 1 }) }

/-- The job count of a document falls, and the document may be freed (R11). -/
def dropJob (d : Fin 64) (s : State) : State :=
  withStore (fun st => (st.changeDoc d (fun x => { x with jobCount := x.jobCount - 1 })).freeIfDone d) s

/-- A document is released, and may be freed (R11). -/
def releaseDoc (d : Fin 64) (s : State) : State :=
  withStore (fun st => (st.changeDoc d (fun x => { x with released := true })).freeIfDone d) s

/-! ### Taking, mapping, sealing and discarding a page (R5, R7, R8, R9, R19) -/

/-- A record becomes FILLING with a width and a resolution, empty and of version `v` (R5, R19). -/
def Page.taken (w : Nat) (r : Resolution) (d : Fin 64) (slot : Nat) (mapped : Bool) (v : Nat) : Page :=
  { Page.blank with state := .filling, place := some (d, slot), mapped := mapped, width := w, resolution := r, version := v }

/-- A taken record is mapped at the end of its document, and claims are taken on it by `hs` (R5, R14). -/
def Store.mapPage (st : Store) (p : Fin 256) (w : Nat) (r : Resolution) (d : Fin 64) (hs : List Holder) : Store :=
  match fetch st.docs d with
  | none => st
  | some x =>
    { st with pages := Machine.store st.pages p (.taken w r d x.slots.length true 0),
              docs := Machine.store st.docs d (some { x with slots := x.slots ++ [p] }),
              claims := st.claims ++ hs.map (fun h => ⟨h, d, x.slots.length, p, false, false⟩) }

/-- A taken record is to replace a slot: not mapped, one version on from the page mapping the slot (R19). -/
def Store.takeReplacement (st : Store) (p : Fin 256) (w : Nat) (r : Resolution) (d : Fin 64) (slot : Nat) : Store :=
  let v := match st.slotPage d slot with
    | some q => ((fetch st.pages q).version + 1) % 256
    | none => 0
  st.setPage p (.taken w r d slot false v)

/-- A page becomes SEALED with its flags (R7). -/
def Store.sealPage (st : Store) (p : Fin 256) (truncated damaged : Bool) : Store :=
  { st with pages := change st.pages p (fun x =>
      { x with state := .sealed, truncated := x.truncated || truncated, damaged := x.damaged || damaged }) }

/-- The seal of a replacement page, which is not mapped (R19): the slot is remapped, the old page becomes VOID, claims not in use
move. -/
def Store.remap (st : Store) (p : Fin 256) (d : Fin 64) (slot : Nat) : Store :=
  match fetch st.docs d, st.slotPage d slot, (fetch st.pages p).mapped with
  | some x, some old, false =>
    let pages := change (change st.pages old (fun g => { g with state := .void, mapped := false, place := none }))
      p (fun g => { g with mapped := true })
    Store.settle { st with pages := pages, docs := Machine.store st.docs d (some { x with slots := x.slots.set slot p }),
                           claims := st.claims.map (fun c => if c.page = old ∧ c.inUse = false then { c with page := p } else c) } old
  | _, _, _ => st

/-- A FILLING page is discarded (R8): its chain is returned, its slot, the last of its document, is unmapped, its claims are
dropped or withdrawn. -/
def Store.discard (st : Store) (p : Fin 256) : Store :=
  let x := fetch st.pages p
  let docs := match x.mapped, x.place with
    | true, some (d, _) => change st.docs d (Option.map (fun g => { g with slots := g.slots.erase p }))
    | _, _ => st.docs
  Store.settle { st with
    freeList := st.freeList ++ x.chain,
    docs := docs,
    pages := Machine.store st.pages p { x with state := .void, place := none, mapped := false, chain := [] },
    claims := (st.claims.filter (fun c => !decide (c.page = p) || c.inUse)).map
      (fun c => if c.page = p then { c with withdrawn := true } else c) } p

/-- A FILLING received page is emptied for the resent one (R9). -/
def Store.refill (st : Store) (p : Fin 256) : Store :=
  let x := fetch st.pages p
  { st with freeList := st.freeList ++ x.chain,
            pages := Machine.store st.pages p
              { x with chain := [], lines := 0, length := 0, substituted := 0, damaged := false } }

end Sys2Proof.Machine
end

