-- ==== Sys2Proof/Machine/JobOps.lean ====
section
/-! DEFINITION. Shared operations of the Job Table (chapter 4): destination records, the end of an attempt, the finish of a
job with its JOB-DONE report, and print jobs owed. -/

namespace Sys2Proof.Machine

/-! ### Slots and destinations -/

/-- The lowest-numbered free job slot (R65). -/
def freeJobSlot (s : State) : Option (Fin 32) := (indices 32).find? (fun j => (s.job j).isNone)

/-- The send job in a slot. -/
def State.sendJob (s : State) (j : Fin 32) : Option SendJob :=
  match s.job j with
  | some ⟨_, .send b, _⟩ => some b
  | _ => none

/-- The print job in a slot. -/
def State.printJob (s : State) (j : Fin 32) : Option PrintJob :=
  match s.job j with
  | some ⟨_, .print b, _⟩ => some b
  | _ => none

/-- A job is ACTIVE until its JOB-DONE report is made (R64, R85). -/
def Job.active (j : Job) : Bool := j.waiting.isNone

/-- A destination record. -/
def State.dest (s : State) (j : Fin 32) (d : Nat) : Option Dest :=
  match s.sendJob j with
  | some b => b.dests[d]?
  | none => none

def changeSend (j : Fin 32) (f : SendJob → SendJob) (s : State) : State :=
  match s.job j with
  | some ⟨doc, .send b, w⟩ => s.setJob j (some ⟨doc, .send (f b), w⟩)
  | _ => s

def changePrint (j : Fin 32) (f : PrintJob → PrintJob) (s : State) : State :=
  match s.job j with
  | some ⟨doc, .print b, w⟩ => s.setJob j (some ⟨doc, .print (f b), w⟩)
  | _ => s

def changeReceive (j : Fin 32) (f : ReceiveJob → ReceiveJob) (s : State) : State :=
  match s.job j with
  | some ⟨doc, .receive b, w⟩ => s.setJob j (some ⟨doc, .receive (f b), w⟩)
  | _ => s

/-- A destination record changed in place. -/
def changeDest (j : Fin 32) (d : Nat) (f : Dest → Dest) (s : State) : State :=
  changeSend j (fun b => { b with dests := b.dests.modify d f }) s

/-- The holders that have an unfinished use for a document (R14): the unfinished destinations of ACTIVE send jobs and the
ACTIVE print jobs that name it. -/
def docHolders (d : Fin 64) (s : State) : List Holder :=
  (indices 32).flatMap (fun j =>
    match s.job j with
    | some ⟨doc, .send b, none⟩ =>
      if doc = d then
        (b.dests.zipIdx.filter (fun e => !e.1.state.isFinal)).map (fun e => .dest j e.2)
      else []
    | some ⟨doc, .print _, none⟩ => if doc = d then [.print j] else []
    | _ => [])

/-! ### Print jobs (R81, R82, R83, R159) -/

/-- A print job as it joins the queue: copy 1, slot 0 (R159). -/
def PrintJob.fresh (copies priority : Nat) (auto : Bool) : PrintJob := ⟨copies, priority, auto, false, 1, 0, 0, false⟩

/-- A job created in a slot joins the tail of the submission list (R65). -/
def createJob (j : Fin 32) (job : Job) (s : State) : State :=
  { s with jobs := { s.jobs with slots := Machine.store s.jobs.slots j (some job),
                                 order := s.jobs.order.filter (fun k => decide (k ≠ j)) ++ [j] } }

/-- A print job is created in a slot with its claims, and the document's job count rises (R81, R82). -/
def createPrint (j : Fin 32) (d : Fin 64) (b : PrintJob) (s : State) : State :=
  let s := addJob d (createJob j ⟨d, .print b, none⟩ s)
  { s with store := s.store.claimDocument (.print j) d }

/-- The print job that a line's settings give for a received document (R82). -/
def LineSettings.printJob (x : LineSettings) : PrintJob := .fresh x.copies x.priority x.autoRelease

/-- A RECEIVE job with print owed takes a free slot for its print job (R83). The count that a finished RECEIVE job still
holds on the document falls in the same step (log 20). A RECEIVE job that is already DONE and waits with its JOB-DONE is served
here too: R83 does not say which of its two events comes to such a job, and this is a DESIGN CHOICE (log 51). -/
def serveOwedAt (s : State) (r : Fin 32) : State :=
  match s.job r, freeJobSlot s with
  | some ⟨d, .receive b, w⟩, some j =>
    if b.owed then
      let x := (s.line b.line).settings
      let s := s.setJob r (some ⟨d, .receive { b with owed := false }, w⟩)
      let s := if x.copies = 0 then s else createPrint j d x.printJob s
      if w.isSome then dropJob d s else s
    else s
  | _, _ => s

/-- Owed print jobs take the free slots, the lowest-numbered RECEIVE job first (R83). -/
def serveOwed (s : State) : State := (indices 32).foldl serveOwedAt s

/-- A slot becomes free and leaves the submission list (R85); an owed print job takes it before any order can (R83). -/
def freeJob (j : Fin 32) (s : State) : State :=
  serveOwed { s with jobs := { s.jobs with slots := Machine.store s.jobs.slots j none,
                                           order := s.jobs.order.filter (fun k => decide (k ≠ j)) } }

/-! ### The finish of a job (R65, R84, R85) -/

/-- The JOB-DONE report of a job (R84, R85). -/
def jobDoneReport (j : Fin 32) (job : Job) (s : State) : Report :=
  match job.body with
  | .send b =>
    .sendDone j job.doc b.account (b.dests.countP (fun d => decide (d.state = .delivered)))
      (b.dests.countP (fun d => decide (d.state = .failed))) (b.dests.countP (fun d => decide (d.state = .cut)))
      (b.dests.countP (fun d => decide (d.state = .cancelled)))
  | .print b => .printDone j job.doc b.completed b.cancelled
  | .receive b =>
    match s.doc job.doc with
    | some x =>
      .receiveDone b.line (b.result.getD .restart) job.doc x.remoteName
        (x.slots.countP (fun p => decide ((s.page p).state = .sealed)))
    | none => .receiveDone b.line (b.result.getD .restart) job.doc [] 0

/-- The finished RECEIVE job's slot becomes the owed print job in one step (R83). -/
def becomeOwed (j : Fin 32) (d : Fin 64) (b : ReceiveJob) (s : State) : State :=
  let x := (s.line b.line).settings
  if x.copies = 0 then freeJob j (dropJob d s) else dropJob d (createPrint j d x.printJob s)

/-- The waiting JOB-DONE of a slot is offered: queued when there is room, and the slot is freed or becomes the owed print
job (R85). -/
def offerDone (j : Fin 32) (s : State) : State :=
  match s.job j with
  | some ⟨d, body, some r⟩ =>
    if s.link.reports.length < 64 then
      match body with
      | .receive b => if b.owed then becomeOwed j d b (report r s) else freeJob j (report r s)
      | _ => freeJob j (report r s)
    else s
  | _ => s

/-- A job finishes (R65): DONE, its document's job count falls except where the slot is to become the owed print job, and
its JOB-DONE is offered. -/
def finishJob (j : Fin 32) (s : State) : State :=
  match s.job j with
  | some ⟨d, body, none⟩ =>
    let s' := s.setJob j (some ⟨d, body, some (jobDoneReport j ⟨d, body, none⟩ s)⟩)
    match body with
    | .receive b => offerDone j (if b.owed then s' else dropJob d s')
    | _ => offerDone j (dropJob d s')
  | _ => s

/-- A send job whose destinations are all final finishes (R76). -/
def finishIfFinal (j : Fin 32) (s : State) : State :=
  match s.sendJob j with
  | some b => if b.dests.all (fun d => d.state.isFinal) then finishJob j s else s
  | none => s

/-! ### Destinations that become final, and the end of an attempt (R74, R76, R78) -/

/-- The DEST-RESULT of a destination as it now stands (R78). -/
def reportDest (j : Fin 32) (d : Nat) (atEnd : Option (LineNo × Nat)) (s : State) : State :=
  match s.sendJob j, s.dest j d with
  | some b, some x =>
    report (.destResult j d x.number x.state (x.reason.getD .cancelled) x.attempts b.attempts x.next x.oldVersion atEnd
      (if x.state = .queued then x.eligible else none)) s
  | _, _ => s

/-- A destination becomes final with a reason: its tie to a line ends and its claims are dropped (R69, R76). -/
def finalDest (j : Fin 32) (d : Nat) (st : DestState) (why : Reason) (s : State) : State :=
  withStore (fun t => t.dropHolder (.dest j d))
    (changeDest j d (fun x => { x with state := st, reason := some why, line := none, eligible := none }) s)

/-- A destination becomes final without an attempt's end (R76). -/
def cancelDest (j : Fin 32) (d : Nat) (st : DestState) (why : Reason) (s : State) : State :=
  reportDest j d none (finalDest j d st why s)

/-- The final state that ends an attempt for good (R74). -/
def endState : Reason → DestState
  | .delivered => .delivered
  | .cutCredit => .cut
  | _ => .failed

/-- The end of an attempt (R74): the line is released with a reason and the pages delivered. A destination already final,
or no longer tied to this line, is left as it is. -/
def attemptEnd (j : Fin 32) (d : Nat) (l : LineNo) (why : Reason) (delivered : Nat) (s : State) : State :=
  match s.sendJob j, s.dest j d with
  | some b, some x =>
    if x.state = .onLine ∧ x.line = some l then
      if why.retryable = true ∧ x.attempts < b.attempts then
        reportDest j d (some (l, delivered)) (changeDest j d (fun x =>
          { x with state := .queued, line := none, reason := some why,
                   eligible := some (s.clock.elapsed + BitVec.ofNat 32 b.delay),
                   next := if b.policy = .whole then 0 else x.next }) s)
      else finishIfFinal j (reportDest j d (some (l, delivered)) (finalDest j d (endState why) why s))
    else s
  | _, _ => s

/-! ### Destinations that become READY (R71, R75) -/

/-- A destination becomes READY now. -/
def readyDest (j : Fin 32) (d : Nat) (s : State) : State :=
  changeDest j d (fun x => { x with state := .ready, ready := s.clock.elapsed, eligible := none }) s

/-- The destinations of the ACTIVE send jobs that `pick` chooses, by job slot, then destination index. -/
def pickDests (pick : SendJob → Dest → Bool) (s : State) : List (Fin 32 × Nat) :=
  (indices 32).flatMap (fun j =>
    match s.job j with
    | some ⟨_, .send b, none⟩ => (b.dests.zipIdx.filter (fun e => pick b e.1)).map (fun e => (j, e.2))
    | _ => [])

/-- A QUEUED destination whose eligible time has been reached (R71). -/
def Dest.due (elapsed : BitVec 32) (x : Dest) : Bool :=
  decide (x.state = .queued) && (match x.eligible with | some e => reached elapsed e | none => false)

/-- The Job Table takes a second event (R71): the arbiter is told once. -/
def jobsSecond (s : State) : State :=
  match pickDests (fun _ x => x.due s.clock.elapsed) s with
  | [] => s
  | ds => trigger (ds.foldl (fun s e => readyDest e.1 e.2 s) s)

/-- An account has left OVER and BLOCKED (R75, R98): its HELD destinations become READY and the arbiter is told. -/
def accountLeft (a : Fin 64) (s : State) : State :=
  trigger ((pickDests (fun b x => decide (b.account = a ∧ x.state = .held)) s).foldl (fun s e => readyDest e.1 e.2 s) s)

/-- Every unfinished destination not ON-LINE of the send jobs that name a SCANNED document CLOSED with no slots becomes
CANCELLED (R77), by job slot and then by index (log 44). -/
def cancelWaiting (d : Fin 64) (s : State) : State :=
  (indices 32).foldl (fun s j =>
    match s.job j with
    | some ⟨doc, .send b, none⟩ =>
      if doc = d then
        finishIfFinal j ((List.range b.dests.length).foldl (fun s k =>
          match s.dest j k with
          | some x => if x.state.isFinal || decide (x.state = .onLine) then s else cancelDest j k .cancelled .cancelled s
          | none => s) s)
      else s
    | _ => s) s

end Sys2Proof.Machine
end

