-- ==== Sys2Proof/Machine/MeterOps.lean ====
section
/-! DEFINITION. Shared operations of the meters, accounts and charge records (chapters 10 and 11). -/

namespace Sys2Proof.Machine

/-! ### Accounts (R191 to R193, R195) -/

/-- An account after a posting of k units (R191). -/
def Account.posted (a : Account) (k : Nat) : Account :=
  { a with total := min maxTotal (a.total + k), isOver := a.isOver || overOf (min maxTotal (a.total + k)) a.limit }

/-- The ACCOUNT-OVER report of an account as it stands (R191). -/
def overReport (n : Fin 64) (a : Account) : Report := .accountOver n a.total a.limit a.policy a.blocked a.active

/-- The Account Table takes an account's new contents, and reports its entry into OVER (R191, R195). -/
def putAccount (n : Fin 64) (a : Account) (s : State) : State :=
  if a.isOver && !(s.account n).isOver then report (overReport n a) (s.setAccount n a) else s.setAccount n a

/-- A posting of k units, 1 or more (R191). -/
def postAccount (n : Fin 64) (k : Nat) (s : State) : State := putAccount n ((s.account n).posted k) s

/-! ### Meters (R183 to R187) -/

/-- A meter posts k units; a posting of 0 is not made (R184, R186). Its units this call are 32 bits wide and go from 4,294,967,295 to
0, a DESIGN CHOICE (log 47). -/
def meterPost (l : LineNo) (k : Nat) (s : State) : State :=
  if k = 0 then s
  else
    let m := s.meter l
    postAccount m.account k (s.setMeter l { m with units := m.units + BitVec.ofNat 32 k })

/-- A meter reloads from a cell (R184, R185): UNTIMED where the whole is 0, and otherwise a period with its dither. -/
def Meter.reload (m : Meter) (c : Cell) : Meter :=
  if c.whole = 0 then { m with timed := false, remaining := 0 }
  else if 16 ≤ m.dither + c.fraction then { m with timed := true, dither := m.dither + c.fraction - 16, remaining := c.whole + 1 }
  else { m with timed := true, dither := m.dither + c.fraction, remaining := c.whole }

/-- The cell of the active table for the band in effect and a zone (R180). -/
def State.cell (s : State) (zone : Fin 8) : Cell := fetch s.clock.active (cellIndex s.clock.band zone)

/-- A meter starts (R184). -/
def meterStart (l : LineNo) (zone : Fin 8) (account : Fin 64) (s : State) : State :=
  let c := s.cell zone
  let m : Meter := ⟨true, false, 0, 0, 0, 0, zone, account, s.clock.day, s.clock.second⟩
  meterPost l (if c.whole = 0 then c.setup else c.setup + 1) (s.setMeter l (m.reload c))

/-- A unit boundary (R185): one unit is posted and the meter reloads from the cell in effect. -/
def meterBoundary (l : LineNo) (s : State) : State :=
  let s := meterPost l 1 s
  s.setMeter l ((s.meter l).reload (s.cell (s.meter l).zone))

/-- A meter takes a second event (R185). Its seconds this call wrap as its units do (log 47). -/
def meterSecond (l : LineNo) (s : State) : State :=
  let m := s.meter l
  if m.running then
    if m.timed then
      let s' := s.setMeter l { m with seconds := m.seconds + 1, remaining := m.remaining - 1 }
      if m.remaining - 1 = 0 then meterBoundary l s' else s'
    else s.setMeter l { m with seconds := m.seconds + 1 }
  else s

/-! ### Charge places (R197 to R201) -/

/-- A place is reserved for a call (R198). -/
def ChargeQueue.reserve (q : ChargeQueue) (l : LineNo) (j : Fin 32) (d : Nat) : ChargeQueue :=
  { q with reserved := q.reserved ++ [⟨l, j, d⟩] }

/-- The place of a line's call becomes free (R198). -/
def ChargeQueue.unreserve (q : ChargeQueue) (l : LineNo) : ChargeQueue :=
  { q with reserved := q.reserved.filter (fun r => decide (r.line ≠ l)) }

/-- The charge record of a call (R199). -/
def chargeRecord (l : LineNo) (a : Admission) (m : Meter) (why : Reason) (delivered : Nat) (name : Name) : ChargeRecord :=
  ⟨a.account, a.job, a.dest, a.number, a.entry, a.zone, l, m.answerDay, m.answerSecond, m.seconds, m.units, why, delivered, name⟩

/-- The reserved place of a line's call is filled (R199), with a RECORDS-WAITING report where the list was empty (R201). -/
def fillCharge (l : LineNo) (r : ChargeRecord) (s : State) : State :=
  let q := s.charges.unreserve l
  let s' := { s with charges := { q with filled := q.filled ++ [r] } }
  if s.charges.filled = [] then report (.recordsWaiting 1 q.reserved.length) s' else s'

/-- A metered call's place is filled and its meter stops (R187, R199). -/
def chargeAnswered (l : LineNo) (a : Admission) (why : Reason) (delivered : Nat) (name : Name) (s : State) : State :=
  let m := s.meter l
  fillCharge l (chargeRecord l a m why delivered name) (s.setMeter l { m with running := false })

/-- An unanswered call's place is unreserved (R198). -/
def chargeUnanswered (l : LineNo) (s : State) : State := { s with charges := s.charges.unreserve l }

end Sys2Proof.Machine
end

