-- ==== Sys2Proof/Machine/LineOps.lean ====
section
/-! DEFINITION. Shared operations of the Line Controller (chapter 6): the cadence generator and dialling, the end of a
line's use, and the line's part of a release. -/

namespace Sys2Proof.Machine

/-! ### Dial phases (R111, R112) -/

/-- The duration of a phase in units, from the profile (R109, R111). -/
def Profile.duration (p : Profile) : DialPhase → Nat
  | .none => 0
  | .seizePause => p.seizePause
  | .breakOn => p.breakTime
  | .makeOn => p.makeTime
  | .toneOn => p.toneOn
  | .toneOff => p.toneOff
  | .interdigit => p.interdigit
  | .accessPause => p.accessPause
  | .comma => p.commaPause

/-- The frames of a profile's cadence unit (R111). -/
def Profile.unitFrames (p : Profile) : Nat := p.unit * 8

/-- A line at the start of a phase: the unit is read and the counters are loaded (R111); each MAKE opens a blanking window
(R113). -/
def Line.enterPhase (x : Line) (p : Profile) (ph : DialPhase) : Line :=
  let d := p.duration ph
  { x with cadence := ⟨ph, d % 256, d / 256, 0, p.unitFrames⟩, blanking := if ph = .makeOn then p.blanking * 8 else x.blanking }

/-- What follows in dialling: a phase to start on a line, or the end of dialling. -/
inductive DialStep where
  | phase (x : Line) (ph : DialPhase) | complete
  deriving DecidableEq, Repr

/-- The breaks of a pulse digit (R112): the digit's value, or 10 for the digit 0. -/
def pulseBreaks (d : Fin 10) : Nat := if d = 0 then 10 else d.val

/-- The first phase of a symbol (R112); the method is read at the start of the symbol. -/
def symbolStep (x : Line) (p : Profile) (sym : Symbol) : DialStep :=
  match sym with
  | .digit d => if p.method = .pulse then .phase { x with breaks := pulseBreaks d } .breakOn else .phase x .toneOn
  | .star => .phase x .toneOn
  | .hash => .phase x .toneOn
  | .pause => .phase x .comma

/-- The symbol of the number at the cursor, or the end of dialling. -/
def numberStep (a : Admission) (p : Profile) (x : Line) : DialStep :=
  match a.number[x.position]? with
  | some sym => symbolStep x p sym
  | none => .complete

/-- The symbol at the dial cursor, the access pause after the access digits, or the end of dialling (R112). R112 does not say
what the cursor shows in ACCESS-PAUSE: part ACCESS with the number of access digits as the position is a DESIGN CHOICE (log 37). -/
def cursorStep (a : Admission) (p : Profile) (x : Line) : DialStep :=
  match x.part with
  | .access =>
    match a.access[x.position]? with
    | some sym => symbolStep x p sym
    | none =>
      if a.access = [] then numberStep a p { x with part := .number, position := 0 } else .phase x .accessPause
  | .number => numberStep a p x

/-- What follows the phase in progress (R108, R112). -/
def afterPhase (a : Admission) (p : Profile) (x : Line) : DialStep :=
  match x.cadence.phase with
  | .none => .phase x .none
  | .seizePause => cursorStep a p { x with state := .dialing, part := .access, position := 0 }
  | .breakOn => .phase x .makeOn
  | .makeOn => if x.breaks ≤ 1 then .phase { x with breaks := 0 } .interdigit else .phase { x with breaks := x.breaks - 1 } .breakOn
  | .toneOn => .phase x .toneOff
  | .toneOff => cursorStep a p { x with position := x.position + 1 }
  | .interdigit => cursorStep a p { x with position := x.position + 1 }
  | .comma => cursorStep a p { x with position := x.position + 1 }
  | .accessPause => cursorStep a p { x with part := .number, position := 0 }

/-- Starts the phase of a step; a phase of 0 units ends in the step that starts it (R111). `fuel` bounds the chain. -/
def runDial (a : Admission) (p : Profile) : Nat → DialStep → DialStep
  | 0, st => st
  | _, .complete => .complete
  | fuel + 1, .phase x ph =>
    let x := x.enterPhase p ph
    if p.duration ph = 0 ∧ ph ≠ .none then runDial a p fuel (afterPhase a p x) else .phase x ph

/-- A bound on the phases of 0 units that can follow one another: every symbol brings at most two phases. -/
def dialFuel (a : Admission) : Nat := 2 * (a.access.length + a.number.length) + 4

/-- The line CONNECTED as OUTGOING at the end of dialling: the cursor is cleared and the generator stops (R111, R112). -/
def Line.dialled (x : Line) : Line :=
  { x with state := .connected, part := .access, position := 0, breaks := 0, cadence := .stopped }

/-- The engine begins as caller (R130): WAIT-ABILITY under the ANSWER class, its cursor at the next page index. -/
def beginCaller (l : LineNo) (next : Nat) (s : State) : State :=
  let s := s.setProc l { Proc.idle with phase := .waitAbility, slot := next, sup := .enter .answer }
  s.setSlot l { s.slot l with command := .receive, rate := 0 }

/-- The outcome of dialling reaches the line (R111, R112). -/
def dialOn (l : LineNo) (a : Admission) (st : DialStep) (s : State) : State :=
  match runDial a (s.profile a.profile) (dialFuel a) st with
  | .phase x _ => s.setLine l x
  | .complete =>
    beginCaller l (match s.dest a.job a.dest with | some d => d.next | none => 0) (s.setLine l (s.line l).dialled)

/-- A claim is granted: the line is seized for the admission record (R108). -/
def Line.seized (x : Line) (a : Admission) (p : Profile) : Line :=
  { x with state := .seized, direction := some .outgoing, admission := some a, answered := false, part := .access,
           position := 0, breaks := 0, absence := 0, blanking := p.blanking * 8 }

/-- The line is seized and its SEIZE-PAUSE starts (R108). -/
def seizeLine (l : LineNo) (a : Admission) (s : State) : State :=
  let x := (s.line l).seized a (s.profile a.profile)
  dialOn l a (.phase x .seizePause) (s.setLine l x)

/-! ### The end of a line's use (R116, R120) -/

/-- A line whose use ends becomes RETIRED where RETIRING is set, clearing it, and IDLE otherwise. -/
def Line.ended (x : Line) : Line :=
  { x with state := if x.retiring then .retired else .idle, retiring := false, onCount := 0, gapCount := 0, rings := 0,
           refused := false, guard := 0 }

/-- A line's use ends; IDLE is a trigger (R98). -/
def endUseOfLine (l : LineNo) (s : State) : State :=
  let x := s.line l
  let s' := s.setLine l x.ended
  if x.retiring then s' else trigger s'

/-! ### Release (R119) -/

/-- The states in which a release is taken (R119). -/
def Line.releasable (x : Line) : Bool :=
  match x.state with
  | .seized => true
  | .dialing => true
  | .answering => true
  | .connected => true
  | _ => false

/-- The line context after a release (R119): on-hook, nothing held, guard remaining loaded (R120). R119 does not name the dial
cursor of a line released while SEIZED or DIALING: the model clears it, a DESIGN CHOICE (log 37). -/
def Line.released (x : Line) (why : Reason) (guardTime : Nat) : Line :=
  { x with state := .releasing, direction := none, admission := none, receive := none, answered := false, part := .access,
           position := 0, breaks := 0, cadence := .stopped, absence := 0, blanking := 0, guard := guardTime * 8000,
           lastReason := some why }

/-- The slot of a released line: nothing in hand and the resting command (R119). -/
def Slot.resting (x : Slot) : Slot := { x with out := [], handed := false, dataByte := none, command := .rest, rate := 0, closing := none }

/-- A count falls by 1 and never below 0 (R104, R193). -/
def lowerCounts (a : Admission) (s : State) : State :=
  let x := s.account a.account
  { (s.setAccount a.account { x with active := x.active - 1 }) with
      routes := { s.routes with active := change s.routes.active a.entry (fun n => n - 1) } }

/-- The charges of an admitted call at its release (R119 step 3). -/
def settleCharge (l : LineNo) (a : Admission) (answered : Bool) (why : Reason) (delivered : Nat) (name : Name) (s : State) : State :=
  if answered then chargeAnswered l a why delivered name s else chargeUnanswered l s

/-- A release but for what the Job Table is handed (R119): charge place, counts, line context and slot. -/
def releaseContext (l : LineNo) (why : Reason) (delivered : Nat) (name : Name) (s : State) : State :=
  let x := s.line l
  let s := (s.setLine l (x.released why s.cfg.guardTime)).setSlot l (s.slot l).resting
  match x.admission with
  | none => s
  | some a => lowerCounts a (settleCharge l a x.answered why delivered name s)

/-- The line's part of a release (R119); the Job Table is handed the end of the attempt and the arbiter is told. -/
def releaseLine (l : LineNo) (why : Reason) (delivered : Nat) (name : Name) (s : State) : State :=
  let x := s.line l
  if x.releasable then
    let s := releaseContext l why delivered name s
    match x.admission with
    | none => s
    | some a => trigger (attemptEnd a.job a.dest l why delivered s)
  else s

/-- A release at RESTART (R124a): the Job Table and the arbiter take nothing (R89, R105). -/
def releaseAtRestart (l : LineNo) (delivered : Nat) (name : Name) (s : State) : State :=
  if (s.line l).releasable then releaseContext l .restart delivered name s else s

end Sys2Proof.Machine
end

