-- ==== Sys2Proof/Machine/Operands.lean ====
section
/-! DEFINITION. The operand forms of the orders: the parameter bytes of each order read into its fields (R206, R212; log 12),
before the owner checks the values. Symbols stay as the four-bit values they arrive in. -/

namespace Sys2Proof.Machine

/-- An enumerated field of `n` values: any other value does not fit the order's form (R206). -/
def readEnum (n : Nat) : Reader Nat := do
  let k ← readUint 1
  if k < n then pure k else fun _ => none

/-- No parameters. -/
def readNothing : Reader Unit := pure ()

/-! ### CONFIGURE (R207) -/

/-- The value of a CONFIGURE item. -/
inductive ConfigValue where
  | count (n : Nat) | symbols (ns : List Nat) | yesNo (b : Bool) | name (t : Name) | signed (c : Int)
  deriving DecidableEq, Repr

/-- The correction, in two's complement in two bytes (R212). -/
def readInt16 : Reader Int := do
  let n ← readUint 2
  pure (BitVec.ofNat 16 n).toInt

/-- The value that an identifier is followed by; an identifier of 0 or above 20 does not fit (R207). -/
def readConfigValue (id : Nat) : Reader ConfigValue :=
  match id with
  | 1 => .count <$> readUint 2
  | 2 => .count <$> readUint 1
  | 3 => .symbols <$> readNibbles
  | 4 => .count <$> readUint 1
  | 5 => .count <$> readUint 2
  | 6 => .count <$> readUint 1
  | 7 => .count <$> readUint 2
  | 8 => .yesNo <$> readFlag
  | 9 => .yesNo <$> readFlag
  | 10 => .count <$> readUint 1
  | 11 => .name <$> readText
  | 12 => .count <$> readUint 1
  | 13 => .count <$> readUint 1
  | 14 => .count <$> readUint 2
  | 15 => .count <$> readUint 2
  | 16 => .count <$> readUint 2
  | 17 => .count <$> readUint 2
  | 18 => .count <$> readUint 2
  | 19 => .count <$> readUint 2
  | 20 => .signed <$> readInt16
  | _ => fun _ => none

/-- An identifier with its value. -/
def readConfigItem : Reader (Nat × ConfigValue) := do
  let id ← readUint 1
  let v ← readConfigValue id
  pure (id, v)

/-! ### Routes and dial profiles (R91, R110) -/

/-- The fields of LOAD-ROUTE; those after the flag stand behind presence bytes. -/
structure RouteParams where
  index : Nat
  digits : List Nat
  barred : Bool
  zone : Option Nat
  profile : Option Nat
  access : Option (List Nat)
  lines : Option (List Nat)
  mode : Option Nat
  limit : Option Nat
  deriving DecidableEq, Repr

def readRoute : Reader RouteParams := do
  let index ← readUint 1
  let digits ← readNibbles
  let barred ← readFlag
  let zone ← readOptional (readUint 1)
  let profile ← readOptional (readUint 1)
  let access ← readOptional readNibbles
  let lines ← readOptional (readList (readUint 1))
  let mode ← readOptional (readUint 1)
  let limit ← readOptional (readUint 1)
  pure ⟨index, digits, barred, zone, profile, access, lines, mode, limit⟩

/-- LOAD-DIAL-PROFILE: the profile's number and its fields in the order of R109. -/
def readProfile : Reader (Nat × Profile) := do
  let index ← readUint 1
  let method ← readEnum 2
  let unit ← readUint 1
  let toneOn ← readUint 1
  let toneOff ← readUint 1
  let breakTime ← readUint 1
  let makeTime ← readUint 1
  let interdigit ← readUint 2
  let seizePause ← readUint 2
  let accessPause ← readUint 2
  let commaPause ← readUint 2
  let bridge ← readUint 2
  let blanking ← readUint 2
  pure (index, ⟨if method = 0 then .tone else .pulse, unit, toneOn, toneOff, breakTime, makeTime, interdigit, seizePause,
    accessPause, commaPause, bridge, blanking⟩)

/-! ### Groups and sends (R87, R66) -/

/-- LOAD-GROUP: the group and its numbers. -/
def readGroup : Reader (Nat × List (List Nat)) := do
  let g ← readUint 1
  let ns ← readList readNibbles
  pure (g, ns)

/-- The fields of SUBMIT-SEND. -/
structure SendParams where
  doc : Nat
  account : Nat
  priority : Nat
  attempts : Nat
  delay : Nat
  policy : Nat
  numbers : List (List Nat)
  group : Option Nat
  deriving DecidableEq, Repr

def readSend : Reader SendParams := do
  let doc ← readUint 1
  let account ← readUint 1
  let priority ← readUint 1
  let attempts ← readUint 1
  let delay ← readUint 2
  let policy ← readEnum 2
  let numbers ← readList readNibbles
  let group ← readOptional (readUint 1)
  pure ⟨doc, account, priority, attempts, delay, policy, numbers, group⟩

/-- SUBMIT-PRINT: document, copies, priority. -/
def readPrint : Reader (Nat × Nat × Nat) := do
  let doc ← readUint 1
  let copies ← readUint 1
  let priority ← readUint 1
  pure (doc, copies, priority)

/-- Two one-byte fields: REPLACE-PAGE, READ-DOCUMENT, READ-JOB. -/
def readPair : Reader (Nat × Nat) := do
  let a ← readUint 1
  let b ← readUint 1
  pure (a, b)

/-! ### Tariff, time, bands (R176, R179, R181) -/

/-- A cell entry of STAGE-TARIFF: band, zone and the cell. -/
structure TariffEntry where
  band : Nat
  zone : Nat
  cell : Cell
  deriving DecidableEq, Repr

def readTariffEntry : Reader TariffEntry := do
  let band ← readUint 1
  let zone ← readUint 1
  let whole ← readUint 2
  let fraction ← readUint 1
  let setup ← readUint 1
  pure ⟨band, zone, ⟨whole, fraction, setup⟩⟩

/-- A switch point: its second of day and its band. -/
def readPoint : Reader (Nat × Nat) := do
  let second ← readUint 3
  let band ← readUint 1
  pure (second, band)

/-- LOAD-BANDS: class, start band, points. -/
def readBands : Reader (Nat × Nat × List (Nat × Nat)) := do
  let c ← readUint 1
  let start ← readUint 1
  let points ← readList readPoint
  pure (c, start, points)

/-- SET-TIME: second of day and day of week. -/
def readClock : Reader (Nat × Nat) := do
  let second ← readUint 3
  let day ← readUint 1
  pure (second, day)

/-! ### Accounts and lines (R195, R196, R123) -/

/-- The fields of SET-ACCOUNT: account, limit, policy, BLOCKED. -/
structure AccountParams where
  account : Nat
  limit : Nat
  policy : Nat
  blocked : Bool
  deriving DecidableEq, Repr

def readAccountParams : Reader AccountParams := do
  let account ← readUint 1
  let limit ← readUint 3
  let policy ← readEnum 2
  let blocked ← readFlag
  pure ⟨account, limit, policy, blocked⟩

/-- READ-ACCOUNT: the account and the zero option. -/
def readZeroing : Reader (Nat × Bool) := do
  let account ← readUint 1
  let zero ← readFlag
  pure (account, zero)

/-- SET-LINE: the line and its four settings. -/
def readSettings : Reader (Nat × LineSettings) := do
  let line ← readUint 1
  let answerAfter ← readUint 1
  let copies ← readUint 1
  let autoRelease ← readFlag
  let priority ← readUint 1
  pure (line, ⟨answerAfter, copies, autoRelease, priority⟩)

/-! ### Values -/

/-- A value brought to the nearer end of its range (R206). -/
def clamp (lo hi n : Nat) : Nat := max lo (min hi n)

/-- The same for the correction. -/
def clampInt (lo hi c : Int) : Int := max lo (min hi c)

/-- A dialled number of 1 to 24 symbols of the twelve allowed (R66), or none. -/
def dialledNumber (ns : List Nat) : Option Number :=
  if ns.length = 0 ∨ 24 < ns.length then none else numberOf ns

/-- The page widths (R3). -/
def isWidth (w : Nat) : Bool := decide (w = 1024 ∨ w = 1536 ∨ w = 2048)

end Sys2Proof.Machine
end

