-- ==== Sys2Proof/Machine/OrderOps.lean ====
section
/-! DEFINITION. An order's arrival, its form and its answer (R205, R206). Its owners stand in the files of the commands, and the
parser that takes it to them in Parser.lean. -/

namespace Sys2Proof.Machine

/-- What an owner does with an order's parameter bytes: the state it leaves and its answer. -/
abbrev Owner := List Byte → State → State × Answer

/-- The form of an order checked before its owner takes it (R206). -/
def checked {α : Type} (r : Reader α) (own : α → State → State × Answer) : Owner := fun bs s =>
  match readAll r bs with
  | none => (s, .refused .malformed)
  | some a => own a s

/-- A refusal, which changes nothing (R206). -/
def refuse (why : RefuseReason) (s : State) : State × Answer := (s, .refused why)

/-- DONE with reply data. -/
def done (data : List Byte) (s : State) : State × Answer := (s, .done data)

/-- The order in an ORDER payload, where it holds a tag and a code (R205, R212). -/
def orderOf (payload : List Byte) : Option Order :=
  match payload with
  | a :: b :: c :: params => some ⟨BitVec.ofNat 16 (256 * a.toNat + b.toNat), c, params⟩
  | _ => none

def OrderEntry.tag : OrderEntry → Tag
  | .order o => o.tag
  | .again t _ => t

/-- An ORDER reaches the order parser (R205). A repeat that waits with its copy answers for its tag like an order in the
queue (log 11). -/
def Link.intake (k : Link) (o : Order) : Link :=
  if k.inHand.any (fun h => decide (h.tag = o.tag)) || k.orders.any (fun e => decide (e.tag = o.tag)) then k
  else
    let queued : Link := if k.orders.length < 4 then { k with orders := k.orders ++ [.order o] } else k
    match k.last with
    | some (t, r) =>
      if t = o.tag then
        if k.replies.length < 4 then { k with replies := k.replies ++ [r] }
        else if k.orders.length < 4 then { k with orders := k.orders ++ [.again o.tag r] }
        else k
      else queued
    | none => queued

def orderIntake (o : Order) (s : State) : State := { s with link := s.link.intake o }

/-- The reply joins the reply queue and is recorded as the last answered; no order is in hand (R205). -/
def answerOrder (o : Order) (r : State × Answer) : State :=
  let reply : Reply := ⟨o.tag, o.code, r.2⟩
  { r.1 with link := { r.1.link with inHand := none, replies := r.1.link.replies ++ [reply], last := some (o.tag, reply) } }

end Sys2Proof.Machine
end

