-- ==== Sys2Proof/Machine/PrintOps.lean ====
section
/-! DEFINITION. The Print Channel (chapter 9): the print queue, the choice of the next page, its lines and its end. -/

namespace Sys2Proof.Machine

/-- An ACTIVE print job of a priority in a slot. -/
def printsAt (s : State) (pr : Nat) (j : Fin 32) : Bool :=
  match s.job j with
  | some ⟨_, .print b, none⟩ => decide (b.priority = pr)
  | _ => false

/-- The print queue (R159): the ACTIVE print jobs, priority 3 first, then by their places in the submission list. -/
def printQueue (s : State) : List (Fin 32) := [3, 2, 1, 0].flatMap (fun pr => s.jobs.order.filter (printsAt s pr))

def setPrinter (x : PrintChannel) (s : State) : State := { s with printer := x }

/-- A frame joins those in hand for the printer (log 19). -/
def PrintChannel.hand (x : PrintChannel) (f : PrinterFrame) : PrintChannel := { x with frames := x.frames ++ [f] }

/-- The channel without a page (R160). That substituted and sent hold 0 then is a DESIGN CHOICE (log 38). -/
def PrintChannel.leftPage (x : PrintChannel) : PrintChannel :=
  { x with phase := .idle, job := none, page := none, decoder := .start 0, ready := none, substituted := 0, sent := 0,
           stopping := false, sup := .off }

/-- The print job in hand with its slot and document. -/
def State.printing (s : State) : Option (Fin 32 × Fin 64 × PrintJob) :=
  match s.printer.job with
  | none => none
  | some j =>
    match s.job j with
    | some ⟨d, .print b, _⟩ => some (j, d, b)
    | _ => none

/-! ### The lines of a page (R164) -/

/-- A line is ready: it goes out where a credit is held and no frame is in hand; without a credit the PRINT wait is
entered, unless the channel is PAUSED or already waits. -/
def PrintChannel.offer (x : PrintChannel) : PrintChannel :=
  match x.ready with
  | none => x
  | some (n, r) =>
    if x.credits = 0 then
      if x.paused ∨ x.sup.cls = some .print then x else { x with sup := .enter .print }
    else if x.frames.isEmpty then
      { x with frames := [.printLine n r], credits := x.credits - 1, ready := none, sent := x.sent + 1, sup := .off }
    else x

/-- A decoded line becomes the line ready; a bad one counts as substituted. -/
def PrintChannel.take (x : PrintChannel) (d : Decoder) (l : DecodedLine) : PrintChannel :=
  { x with decoder := d, ready := some (l.index, l.raster), substituted := if l.good then x.substituted else x.substituted + 1 }

/-- The use of a print job's page ends (R13, R15, R20). -/
def endPrintUse (j : Fin 32) (success last : Bool) (s : State) : State :=
  withStore (fun st => st.endUse (.print j) success last (match s.job j with | some x => !x.active | none => true)) s

/-- The page is printed (R165): PAGE-FINISH COMPLETE, the claim's use ends with success and the cursor moves on. -/
def finishPage (s : State) : State :=
  match s.printing with
  | some (j, _, b) =>
    let x := s.printer
    let s := setPrinter (x.leftPage.hand (.pageFinish j b.slot b.copy x.sent x.substituted .complete)) s
    changePrint j (fun b => { b with slot := b.slot + 1 }) (endPrintUse j true (decide (b.copies ≤ b.copy)) s)
  | none => s

/-- The next line is decoded (R164): it becomes the line ready, or the page ends, or the channel waits for the page. -/
def decodePrint (s : State) : State :=
  match s.printer.page with
  | none => s
  | some p =>
    match s.store.nextLine p s.printer.decoder with
    | (d, .line l) => setPrinter (s.printer.take d l).offer s
    | (_, .finished) => finishPage s
    | (d, .waiting) => setPrinter { s.printer with decoder := d } s

/-- A page begins in one step (R163) with its first line decoded. -/
def beginPrint (j : Fin 32) (d : Fin 64) (b : PrintJob) (p : Fin 256) (s : State) : State :=
  let g := s.page p
  let x := { s.printer with phase := .printing, job := some j, page := some p, decoder := .start g.width, ready := none,
                            substituted := 0, sent := 0, sup := .off }
  let s := setPrinter (x.hand (.pageStart j d b.slot b.copy g.version g.width g.resolution b.lost)) s
  let s := changePrint j (fun b => { b with lost := false }) { s with store := s.store.useClaim (.print j) b.slot }
  decodePrint s

/-! ### The end of a job and the choice of the next page (R162, R170, R171) -/

/-- A print job has stopped or is complete: its claims are dropped and it finishes (R15, R65). -/
def endPrintJob (j : Fin 32) (s : State) : State := finishJob j (withStore (fun st => st.dropHolder (.print j)) s)

/-- A job is complete (R171), and with auto-release its document is released (R86). -/
def completePrint (j : Fin 32) (d : Fin 64) (b : PrintJob) (s : State) : State :=
  endPrintJob j (if b.autoRelease then releaseDoc d s else s)

/-- The channel waits for the head's page (R162). -/
def waitPage (j : Fin 32) (s : State) : State := setPrinter { s.printer with phase := .waitPage, job := some j } s

/-- A copy ends (R162 case 5). -/
def PrintJob.nextCopy (b : PrintJob) : PrintJob :=
  if b.completed + 1 < b.copies then { b with completed := b.completed + 1, copy := b.copy + 1, slot := 0 }
  else { b with completed := b.completed + 1 }

/-- The channel looks at the head's cursor (R162). `fuel` bounds the copies and pages of no lines that end in one look. -/
def lookAtHead : Nat → State → State
  | 0, s => s
  | fuel + 1, s =>
    if s.printer.phase = .printing then s
    else match (printQueue s).head? with
      | none => setPrinter { s.printer with phase := .idle, job := none } s
      | some j =>
        match s.job j with
        | some ⟨d, .print b, _⟩ =>
          match s.doc d with
          | none => waitPage j s
          | some x =>
            match x.slots[b.slot]? with
            | some p =>
              if (s.page p).state = .filling ∧ (match x.kind with | .received _ => true | .scanned _ => false) = true then waitPage j s
              else if s.printer.paperOut then waitPage j s
              else lookAtHead fuel (beginPrint j d b p s)
            | none =>
              if x.isOpen then waitPage j s
              else if b.completed + 1 < b.copies then lookAtHead fuel (changePrint j (fun b => b.nextCopy) s)
              else lookAtHead fuel (completePrint j d b (changePrint j (fun b => b.nextCopy) s))
        | _ => s

/-- A bound on the pages and copies that one look can pass: 64 print jobs of 8 copies of 130 places. -/
def lookFuel : Nat := 66560

/-- The Print Channel takes what has changed: in PRINTING the next line, and otherwise the head (R162, R164). -/
def printerLook (s : State) : State :=
  if s.printer.phase = .printing then
    if s.printer.stopping then s
    else match s.printer.ready with
      | some _ => setPrinter s.printer.offer s
      | none => if s.printer.frames.isEmpty then lookAtHead lookFuel (decodePrint s) else s
  else lookAtHead lookFuel s

/-! ### Pages stopped short (R166, R169, R170) -/

/-- The page in hand stops with PAGE-FINISH and an ending, and the claim's use ends without success. -/
def stopPage (e : Ending) (s : State) : State :=
  match s.printing with
  | some (j, _, b) =>
    let x := s.printer
    endPrintUse j false false (setPrinter (x.leftPage.hand (.pageFinish j b.slot b.copy x.sent x.substituted e)) s)
  | none => s

/-- A job stopped after cancel leaves the queue (R170). -/
def stopCancelled (s : State) : State :=
  match s.printer.job with
  | some j => endPrintJob j (stopPage .cancelled s)
  | none => s

/-- Whether a PRINT-LINE frame is in hand. -/
def PrintChannel.lineInHand (x : PrintChannel) : Bool :=
  x.frames.any (fun f => match f with | .printLine .. => true | _ => false)

/-- A print job is cancelled (R80, R170): the job in PRINTING stops after the PRINT-LINE frame in hand (log 19). -/
def cancelPrint (j : Fin 32) (s : State) : State :=
  let s := changePrint j (fun b => { b with cancelled := true }) s
  let x := s.printer
  if x.phase = .printing ∧ x.job = some j then
    let s := setPrinter { x with ready := none, sup := .off, paused := false, stopping := true } s
    if x.lineInHand then s else stopCancelled s
  else endPrintJob j s

/-- The page in hand was discarded (R169): PAGE-FINISH WITHDRAWN; a cancel that waits is then complete. -/
def printWithdrawn (p : Fin 256) (s : State) : State :=
  if s.printer.phase = .printing ∧ s.printer.page = some p then
    match s.printer.stopping, s.printer.job with
    | true, some j => endPrintJob j (stopPage .withdrawn s)
    | _, _ => stopPage .withdrawn s
  else s

/-- The place of a page by its print cursor: copy and slot. -/
def State.printPlace (s : State) : Option (Nat × Nat) :=
  match s.printing with
  | some (_, _, b) => some (b.copy, b.slot)
  | none => none

/-- PAPER-OUT while paper is READY (R166). The frames in hand for the printer stay and go out, those of the lost page too: R166 does
not speak of them, and this is a DESIGN CHOICE (log 53). -/
def takePaperOut (s : State) : State :=
  let x := s.printer
  if x.paperOut then s
  else if x.phase = .printing then
    let s' := report (.printState true .paperOut x.job s.printPlace none) s
    match x.job with
    | none => s'
    | some j =>
      let s' := setPrinter { x.leftPage with phase := .waitPage, job := some j, paperOut := true, credits := 0, paused := false } s'
      let s' := changePrint j (fun b => { b with lost := true }) (endPrintUse j false false s')
      printerLook (if x.stopping then endPrintJob j s' else s')
  else
    report (.printState true .paperOut x.job none none)
      (setPrinter { x with paperOut := true, credits := 0, paused := false, sup := .off } s)

/-- PAPER-READY while paper is OUT (R167). -/
def takePaperReady (s : State) : State :=
  let x := s.printer
  if x.paperOut then
    printerLook (report (.printState false .paperOut (printQueue s).head? none none) (setPrinter { x with paperOut := false } s))
  else s

/-- The line index of the line ready. -/
def PrintChannel.readyIndex (x : PrintChannel) : Option Nat := x.ready.map (fun r => r.1)

/-- A grant of credits (R161, R168). -/
def takePrinterCredit (n : Nat) (s : State) : State :=
  let x := { s.printer with credits := min 16 (s.printer.credits + n) }
  if n = 0 then setPrinter x s
  else
    let s' := setPrinter { x with paused := false, sup := .off } s
    let s' := if x.paused then report (.printState false .silent x.job s.printPlace x.readyIndex) s' else s'
    printerLook s'

/-- The PRINT wait times out (R158, R168). -/
def printSilent (s : State) : State :=
  let x := s.printer
  report (.printState true .silent x.job s.printPlace x.readyIndex) (setPrinter { x with paused := true, sup := .off } s)

/-- The frame in hand has left the link (R164). -/
def printerFrameGone (s : State) : State :=
  let x := s.printer
  if x.started then
    let s := setPrinter { x with frames := x.frames.tail, started := false } s
    if x.stopping then
      if s.printer.lineInHand then s else printerLook (stopCancelled s)
    else printerLook s
  else s

/-- The channel at RESTART (R172). -/
def restartPrinter (s : State) : State :=
  let x := s.printer
  match x.phase, s.printing with
  | .printing, some (j, _, b) =>
    setPrinter { x.leftPage.hand (.pageFinish j b.slot b.copy x.sent x.substituted .cancelled) with paused := false } s
  | _, _ => setPrinter { x.leftPage with paused := false } s

end Sys2Proof.Machine
end

