-- ==== Sys2Proof/Machine/CallOps.lean ====
section
/-! DEFINITION. The Call Procedure Engine as caller (chapter 7, R125 to R141) with its transmit recoder (R41 to R46): what it
hands to the module, the end of its procedure, choices, pages, PAGE-END and the news of the document. -/

namespace Sys2Proof.Machine

/-! ### What is handed to the module (R127, R214) -/

/-- A message joins what the module is to take, and is kept as the last message (R129). -/
def say (l : LineNo) (m : Message) (s : State) : State :=
  let x := s.slot l
  (s.setSlot l { x with out := x.out ++ m.bytes.map .byte ++ [.endMessage] }).setProc l { s.proc l with lastMessage := some m }

/-- A TRIAL burst at a rate joins it. -/
def sayTrial (l : LineNo) (rate : Nat) (s : State) : State :=
  s.setSlot l { s.slot l with out := (s.slot l).out ++ [.trial rate] }

/-- A CHOICE with its TRIAL (R133), or again (R129). -/
def sayChoice (l : LineNo) (s : State) : State :=
  let c := (s.proc l).settings
  sayTrial l c.rate (say l (.choice c s.cfg.stationName) s)

/-- The command the module is given from now on. -/
def setCommand (l : LineNo) (c : ModuleCommand) (rate : Nat) (s : State) : State :=
  s.setSlot l { s.slot l with command := c, rate := rate }

/-- The engine enters a phase under a class (R151). -/
def enter (l : LineNo) (ph : Phase) (c : TimeoutClass) (s : State) : State :=
  s.setProc l { s.proc l with phase := ph, sup := .enter c }

/-! ### The call's document and page -/

/-- The document that an outgoing call's job names. -/
def callDoc (a : Admission) (s : State) : Option (Fin 64) := (s.job a.job).map Job.doc

/-- Whether a line still holds the destination of its admission record (R69, R79): a cancelled destination's job slot may
serve another job. -/
def tied (l : LineNo) (a : Admission) (s : State) : Bool :=
  match s.dest a.job a.dest with
  | some x => decide (x.state = .onLine ∧ x.line = some l)
  | none => false

/-- The page that maps the slot at the cursor. -/
def cursorPage (l : LineNo) (s : State) : Option (Fin 256) :=
  match (s.line l).admission with
  | none => none
  | some a =>
    match callDoc a s with
    | none => none
    | some d => s.store.slotPage d (s.proc l).slot

/-- A page that a sender may begin (R132): SEALED, or FILLING in a SCANNED document. -/
def sendable (x : Document) (g : Page) : Bool :=
  match g.state, x.kind with
  | .sealed, _ => true
  | .filling, .scanned _ => true
  | _, _ => false

/-! ### The end of the caller's procedure (R140) -/

/-- What the release is handed. -/
def callerRequest (l : LineNo) (why : Reason) (s : State) : ReleaseRequest :=
  let x := s.proc l
  ⟨why, x.delivered, match x.remote with | some a => a.name | none => []⟩

/-- Whether a destination is final, or gone with its job. -/
def destGone (j : Fin 32) (d : Nat) (s : State) : Bool :=
  match s.dest j d with
  | some x => x.state.isFinal
  | none => true

/-- The use of a page for a destination ends (R13): under RESUME an end with success drops the claim (R15), under WHOLE it
is kept (R16). -/
def endSendUse (a : Admission) (success : Bool) (s : State) : State :=
  let drops := match s.sendJob a.job with | some b => decide (b.policy = .resume) | none => true
  withStore (fun st => st.endUse (.dest a.job a.dest) success drops (destGone a.job a.dest s)) s

/-- The engine ends its procedure (R140): the recoder stops, a claim use in hand ends, the context becomes IDLE. -/
def quitCaller (l : LineNo) (why : Reason) (s : State) : State :=
  let s := match (s.line l).admission with
    | some a => endSendUse a false s
    | none => s
  s.setProc l { Proc.idle with endReason := some why }

/-- A release with what follows it at the printer, whose queue may have gained an owed print job. -/
def release (l : LineNo) (r : ReleaseRequest) (s : State) : State := printerLook (releaseLine l r.reason r.delivered r.name s)

/-- The caller ends the call without a CLOSE and asks for the release. -/
def dropCall (l : LineNo) (why : Reason) (s : State) : State := release l (callerRequest l why s) (quitCaller l why s)

/-- The caller ends the call with a CLOSE; the release is asked for once it has been handed over (R140, log 27). -/
def closeCall (l : LineNo) (why : Reason) (s : State) : State :=
  let r := callerRequest l why s
  let s := quitCaller l why (say l (.close (byteOf why.code)) s)
  s.setSlot l { s.slot l with closing := some r }

/-! ### The transmit recoder (R41 to R46) -/

/-- The recoder mode for a page (R133), with whether DELTA is allowed in the lines it codes. -/
def modeFor (a : Abilities) (q : Resolution) : RecodeMode × Bool :=
  if q = .fine ∧ a.fine = false then (.halve, a.delta)
  else if a.delta = false then (.plainOnly, false)
  else (.pass, true)

/-- The resolution a page is sent in (R133). -/
def sentResolution (a : Abilities) (q : Resolution) : Resolution := if q = .fine ∧ a.fine = false then .standard else q

/-- An idle recoder with the mode fixed for a page (R133). -/
def Recoder.chosen (a : Abilities) (g : Page) : Recoder :=
  { Recoder.idle with mode := (modeFor a g.resolution).1, delta := (modeFor a g.resolution).2 }

/-- A recoder at the start of a page, in the mode it was given (R41). -/
def Recoder.begin (r : Recoder) (p : Fin 256) (g : Page) : Recoder :=
  { Recoder.idle with active := true, mode := r.mode, delta := r.delta, page := p, decoder := .start g.width }

/-- The bytes of the line that goes out for a stored line (R42, R43, R44), before its pad. -/
def Recoder.lineBytes (r : Recoder) (l : DecodedLine) : List Byte :=
  match r.mode with
  | .pass => if l.good then l.bytes else codeLine r.anchor r.sendReference false l.raster
  | .plainOnly => codeLine r.anchor r.sendReference false l.raster
  | .halve => codeLine r.anchor r.sendReference r.delta l.raster

/-- The recoder with a sent line in hand (R41, R46). The line is coded here, with the anchor interval of this moment, and the send
anchor moves on here and not when the line has gone: R45 does not fix the moment, and this one is a DESIGN CHOICE (log 42). -/
def Recoder.loaded (r : Recoder) (c : Settings) (interval : Nat) (l : DecodedLine) : Recoder :=
  { r with buffer := padded c.rate c.lineTime (r.lineBytes l), sendReference := some l.raster, sent := r.sent + 1,
           anchor := nextAnchor r.anchor interval, waiting := false }

/-- The next line, the page-end mark, or the wait for the page (R45). In HALVE an odd line is decoded and not sent, so two
stored lines are read at most. -/
def Recoder.prepare (st : Store) (c : Settings) (interval : Nat) : Nat → Recoder → Recoder
  | 0, r => r
  | fuel + 1, r =>
    match st.nextLine r.page r.decoder with
    | (d, .line l) =>
      if r.mode = .halve ∧ l.index % 2 = 1 then Recoder.prepare st c interval fuel { r with decoder := d }
      else { r with decoder := d }.loaded c interval l
    | (d, .finished) => { r with decoder := d, buffer := [pageEndMark], atEnd := true, waiting := false }
    | (d, .waiting) => { r with decoder := d, waiting := true }

/-- The recoder is asked for what goes out next, in the step that begins the page and in the step that hands over the last byte in
hand (log 42); where it waits the caller is under the PAGE class afresh (R135). -/
def refill (l : LineNo) (s : State) : State :=
  let x := s.proc l
  let r := x.recoder.prepare s.store x.settings s.cfg.anchorInterval 2
  s.setProc l { x with recoder := r, sup := if r.waiting then .enter .page else .off }

/-! ### Choices and pages (R132 to R135) -/

/-- The caller sends CHOICE and TRIAL for a page (R133), its recoder mode fixed with the CHOICE, or ends the call WIDTH. -/
def sendChoice (l : LineNo) (p : Fin 256) (s : State) : State :=
  let x := s.proc l
  match x.remote with
  | none => s
  | some a =>
    let g := s.page p
    if a.maxWidth < g.width then closeCall l .width s
    else
      let rate := if x.settings.rate = 0 then min s.cfg.maxRate a.maxRate else x.settings.rate
      let c : Settings := ⟨g.width, sentResolution a g.resolution, a.delta, rate, a.lineTime⟩
      sayChoice l (s.setProc l { x with phase := .waitTrial, settings := c, page := some p, recoder := .chosen a g, sup := .enter .message })

/-- A page begins (R135), or begins again with its send count kept (R134, R138), in the mode that the recoder was given. -/
def beginPage (l : LineNo) (s : State) : State :=
  let x := s.proc l
  match (s.line l).admission, cursorPage l s with
  | some a, some p =>
    let s := { s with store := s.store.useClaim (.dest a.job a.dest) x.slot }
    let x := { x with phase := .sending, page := some p, sends := max 1 x.sends, recoder := x.recoder.begin p (s.page p), sup := .off }
    refill l (setCommand l .sendData x.settings.rate (s.setProc l x))
  | _, _ => s

/-- A page begins with no CHOICE of its own (R137, R138): the mode is fixed for it afresh by R133. -/
def beginUnasked (l : LineNo) (p : Fin 256) (s : State) : State :=
  let x := s.proc l
  match x.remote with
  | some a => beginPage l (s.setProc l { x with recoder := .chosen a (s.page p) })
  | none => s

/-- Whether a page can go out under the settings in force (R137, R138; log 18). -/
def sameSettings (x : Proc) (g : Page) : Bool :=
  match x.remote with
  | some a => decide (x.settings.width = g.width ∧ x.settings.resolution = sentResolution a g.resolution)
  | none => false

/-- The job's document CLOSED with no slots (R141): the destination becomes CANCELLED, and the call ends CANCELLED. -/
def closedEmpty (l : LineNo) (s : State) : State :=
  match (s.line l).admission with
  | none => s
  | some a =>
    let s := if tied l a s then cancelDest a.job a.dest .cancelled .cancelled s else s
    let s :=
      if (s.slot l).closing.isSome then s
      else if (s.line l).answered then closeCall l .cancelled s
      else dropCall l .cancelled s
    finishIfFinal a.job s

/-- The caller looks for its first page (R132), or for the next page where none stood (log 17). -/
def lookFirst (l : LineNo) (s : State) : State :=
  let x := s.proc l
  match (s.line l).admission with
  | none => s
  | some a =>
    match callDoc a s with
    | none => s
    | some d =>
      match s.doc d with
      | none => s
      | some doc =>
        let wait := if x.phase = .waitFirst then s else enter l .waitFirst .page s
        match doc.slots[x.slot]? with
        | some p => if sendable doc (s.page p) then sendChoice l p s else wait
        | none =>
          if doc.isOpen then wait
          else if doc.slots = [] then closedEmpty l s
          else closeCall l .delivered s

/-! ### PAGE-END (R136) -/

/-- PAGE-END is sent and the verdict awaited. -/
def sendPageEnd (l : LineNo) (k : PageEndKind) (s : State) : State :=
  let s := say l (.pageEnd k) s
  s.setProc l { s.proc l with phase := .waitVerdict, pageEnd := some k, sup := .enter .message }

/-- The kind of PAGE-END for a document and the slot of the page just sent, or none while the next page is not known. -/
def pageEndKind (s : State) (doc : Document) (slot : Nat) (g : Page) : Option PageEndKind :=
  if doc.isOpen = false ∧ doc.slots.length ≤ slot + 1 then some .last
  else match doc.slots[slot + 1]? with
    | none => none
    | some q =>
      let n := s.page q
      if n.state = .sealed then (if n.width = g.width ∧ n.resolution = g.resolution then some .next else some .new)
      else none

/-- At the end of the page data the caller sends PAGE-END or holds (R136). While it holds, nothing but the events of R136 touches
its wait: a line appended to the next page, still FILLING, leaves the age of a caller in HOLDING as it is. R156 can be read
otherwise, and this is a DESIGN CHOICE (log 46). -/
def pageEndChoice (l : LineNo) (s : State) : State :=
  let x := s.proc l
  match (s.line l).admission, x.page with
  | some a, some p =>
    match callDoc a s with
    | none => s
    | some d =>
      match s.doc d with
      | none => s
      | some doc =>
        match pageEndKind s doc x.slot (s.page p) with
        | some k => sendPageEnd l k s
        | none => if x.phase = .holding then s else enter l .holding .page s
  | _, _ => s

/-! ### News of the document (R45, R132, R136, R141) -/

/-- Whether a document is CLOSED with no slots. -/
def docEmpty (d : Fin 64) (s : State) : Bool :=
  match s.doc d with
  | some x => !x.isOpen && x.slots.isEmpty
  | none => false

/-- In WAIT-TRIAL the page at the cursor is the one that maps the slot, a replacement sealed meanwhile included (R19, R141). -/
def followPage (l : LineNo) (s : State) : State :=
  match cursorPage l s with
  | some p => s.setProc l { s.proc l with page := some p }
  | none => s

/-- One line's caller takes the news that its document changed. A caller in HOLDING looks at R136's events alone (log 46). -/
def callerNews (d : Fin 64) (s : State) (l : LineNo) : State :=
  match (s.line l).admission with
  | none => s
  | some a =>
    if callDoc a s = some d ∧ tied l a s = true then
      if docEmpty d s then closedEmpty l s
      else match (s.proc l).phase with
        | .waitFirst => lookFirst l s
        | .waitTrial => followPage l s
        | .holding => pageEndChoice l s
        | .sending => if (s.proc l).recoder.waiting then refill l s else s
        | _ => s
    else s

/-- A document has changed: the senders of its pages and the Print Channel are told (R7, R8, R22, R162). -/
def documentNews (d : Fin 64) (s : State) : State := printerLook (allLines.foldl (callerNews d) s)

/-- The page a caller has at its cursor was discarded (R141): the call ends PAGE-REFUSED. -/
def callerPageGone (p : Fin 256) (s : State) (l : LineNo) : State :=
  let x := s.proc l
  if x.page = some p ∧ x.role = .caller then
    match x.phase with
    | .waitTrial => closeCall l .pageRefused s
    | .sending => closeCall l .pageRefused s
    | .holding => closeCall l .pageRefused s
    | .waitVerdict => closeCall l .pageRefused s
    | _ => s
  else s

/-- A FILLING page of a SCANNED document is discarded: the callers that have it at their cursor are told (R8, R141). -/
def callersPageGone (p : Fin 256) (s : State) : State := allLines.foldl (callerPageGone p) s

/-! ### Verdicts (R137 to R139) -/

/-- Whether the account of a call is to cut (R139). -/
def cutFound (l : LineNo) (s : State) : Bool :=
  match (s.line l).admission with
  | some a => (s.account a.account).cuts
  | none => false

/-- The next page after a GOOD verdict (R137). -/
def nextPage (l : LineNo) (k : PageEndKind) (s : State) : State :=
  match cursorPage l s, (s.line l).admission with
  | some p, some a =>
    match (callDoc a s).bind s.doc with
    | some doc =>
      if sendable doc (s.page p) then
        if k = .next ∧ sameSettings (s.proc l) (s.page p) = true then beginUnasked l p s else sendChoice l p s
      else lookFirst l s
    | none => s
  | _, _ => lookFirst l s

/-- The verdict's own effect (R137): the claim, the next page index and the delivered count. -/
def goodVerdict (l : LineNo) (a : Admission) (s : State) : State :=
  let old := s.store.deliveredOld (.dest a.job a.dest)
  let gone := destGone a.job a.dest s
  let s := endSendUse a true s
  let s := if gone then s else changeDest a.job a.dest (fun x => { x with next := x.next + 1, oldVersion := x.oldVersion || old }) s
  let x := s.proc l
  s.setProc l { x with delivered := x.delivered + 1, slot := x.slot + 1, page := none, sends := 0, recoder := .idle, sup := .off }

/-- VERDICT GOOD in WAIT-VERDICT (R137). -/
def takeGood (l : LineNo) (s : State) : State :=
  match (s.line l).admission with
  | none => s
  | some a =>
    let k := ((s.proc l).pageEnd).getD .last
    let s := goodVerdict l a s
    printerLook
      (if k = .last then closeCall l .delivered s
       else if cutFound l s then closeCall l .cutCredit s
       else nextPage l k s)

/-- The page is sent again (R138). -/
def sendAgain (l : LineNo) (s : State) : State :=
  let x := s.proc l
  match cursorPage l s with
  | none => s
  | some p =>
    if 1 < x.settings.rate then
      sendChoice l p (s.setProc l { x with settings := { x.settings with rate := x.settings.rate - 1 } })
    else if sameSettings x (s.page p) then beginUnasked l p s
    else sendChoice l p s

/-- VERDICT RESEND in WAIT-VERDICT (R138). -/
def takeResend (l : LineNo) (s : State) : State :=
  match (s.line l).admission with
  | none => s
  | some a =>
    let s := endSendUse a false s
    let x := s.proc l
    let s := s.setProc l { x with sends := x.sends + 1, recoder := .idle, sup := .off }
    if 1 + s.cfg.resendLimit < x.sends + 1 then closeCall l .pageRefused s
    else if cutFound l s then closeCall l .cutCredit s
    else sendAgain l s

/-! ### ABILITY and the trial (R131, R134) -/

/-- An ABILITY whose values R131 accepts. -/
def Abilities.valid (a : Abilities) : Bool := isWidth a.maxWidth && decide (1 ≤ a.maxRate ∧ a.maxRate ≤ 6 ∧ a.lineTime ≤ 4)

/-- An ABILITY taken in WAIT-ABILITY (R131): answered is set, the meter starts and the first page is looked for. -/
def takeAbility (l : LineNo) (a : Abilities) (s : State) : State :=
  match (s.line l).admission with
  | none => s
  | some adm =>
    if a.valid then
      let s := s.setProc l { s.proc l with remote := some a, sup := .off }
      let s := s.setLine l { s.line l with answered := true }
      lookFirst l (meterStart l adm.zone adm.account s)
    else s

/-- TRIAL-BAD in WAIT-TRIAL (R134). -/
def takeTrialBad (l : LineNo) (s : State) : State :=
  let x := s.proc l
  if 1 < x.settings.rate then
    sayChoice l (s.setProc l { x with settings := { x.settings with rate := x.settings.rate - 1 }, sup := .enter .message })
  else closeCall l .noRate s

end Sys2Proof.Machine
end

