-- ==== Sys2Proof/Machine/ReceiveOps.lean ====
section
/-! DEFINITION. The Call Procedure Engine as called station (R142 to R149) with its receive checker (R40), and the messages
both sides take (R128, R129). -/

namespace Sys2Proof.Machine

/-! ### The answer (R12, R82, R118, R142) -/

/-- The own ABILITY (R142). -/
def ownAbility (s : State) : Message :=
  .ability ⟨s.cfg.maxWidth, s.cfg.fine, s.cfg.delta, s.cfg.maxRate, 0, s.cfg.stationName⟩

/-- The engine begins as called station (R142). -/
def beginCalled (l : LineNo) (s : State) : State :=
  let s := s.setProc l { Proc.idle with phase := .waitChoice, role := .called, sup := .enter .message }
  say l (ownAbility s) (setCommand l .receive 0 s)

/-- A RECEIVED document for an answering line (R12). -/
def receivedDocument (l : LineNo) (p : Fin 256) : Document := ⟨.received l, true, false, [], [], some p, false, 0⟩

/-- The RECEIVE job and the document of an answered call (R12, R82), with the print job or print owed. -/
def createReception (l : LineNo) (j : Fin 32) (d : Fin 64) (p : Fin 256) (s : State) : State :=
  let x := (s.line l).settings
  let s := s.setDoc d (some (receivedDocument l p))
  let s := addJob d (createJob j ⟨d, .receive ⟨l, false, none⟩, none⟩ s)
  if x.copies = 0 then s
  else match freeJobSlot s with
    | some k => createPrint k d x.printJob s
    | none => changeReceive j (fun b => { b with owed := true }) s

/-- The line answers (R118). -/
def answerLine (l : LineNo) (j : Fin 32) (d : Fin 64) (p : Fin 256) (s : State) : State :=
  let x := s.line l
  let s := createReception l j d p s
  let blanking := (s.profile 0).blanking * 8
  let s := s.setLine l { s.line l with state := if blanking = 0 then .connected else .answering, direction := some .incoming,
                                       receive := some (j, d), answered := false, onCount := 0, gapCount := 0, rings := 0,
                                       refused := false, absence := 0, blanking := blanking }
  let s := report (.callIn l x.rings j d) s
  printerLook (if blanking = 0 then beginCalled l s else s)

/-- The first condition of R117 that fails, or what the answer takes. -/
def answerCheck (l : LineNo) (s : State) : RingCause ⊕ (Fin 32 × Fin 64 × Fin 256) :=
  if (s.line l).retiring then .inl .retiring
  else if s.store.freeCount ≤ s.cfg.reserve then .inl .store
  else match freeJobSlot s, s.store.freeDoc, s.store.freePage with
    | none, _, _ => .inl .noJob
    | _, none, _ => .inl .noDocument
    | _, _, none => .inl .noPage
    | some j, some d, some p => .inr (j, d, p)

/-- The answer check at a counted ring (R117). -/
def considerAnswer (l : LineNo) (s : State) : State :=
  let x := s.line l
  if 0 < x.settings.answerAfter ∧ x.settings.answerAfter ≤ x.rings then
    match answerCheck l s with
    | .inr (j, d, p) => answerLine l j d p s
    | .inl why =>
      if x.refused then s else report (.ringRefused l x.rings why) (s.setLine l { x with refused := true })
  else s

/-! ### The end of a reception (R84, R148, R149) -/

/-- The document of a line's reception. -/
def receptionDoc (l : LineNo) (s : State) : Option (Fin 64) := (s.line l).receive.map (fun r => r.2)

/-- A RECEIVED document becomes CLOSED; with no slots it is released (R11, R12). -/
def closeReceived (d : Fin 64) (s : State) : State :=
  let s := { s with store := s.store.changeDoc d (fun x => { x with isOpen := false, held := none }) }
  match s.doc d with
  | some x => if x.slots = [] then releaseDoc d s else s
  | none => s

/-- The RECEIVE job finishes with its result (R84); where the document has no slots no print is owed any more (R83). -/
def finishReception (j : Fin 32) (d : Fin 64) (why : Reason) (s : State) : State :=
  finishJob j (changeReceive j (fun b => { b with result := some why, owed := b.owed && !docEmpty d s }) s)

/-- A page at the cursor that is still FILLING is discarded (R8, R149). -/
def discardReceived (l : LineNo) (s : State) : State :=
  match (s.proc l).page with
  | some p => if (s.page p).state = .filling then withStore (fun st => st.discard p) s else s
  | none => s

/-- The reception ends (R149): the checker stops, the page in hand is discarded, the document closes and the job
finishes. -/
def quitCalled (l : LineNo) (why : Reason) (s : State) : State :=
  let s := discardReceived l s
  let s := s.setProc l { Proc.idle with endReason := some why }
  match (s.line l).receive with
  | none => s
  | some (j, d) =>
    let s := documentNews d (closeReceived d s)
    printerLook (finishReception j d why s)

/-- The engine ends the reception after a CLOSE; the release follows once it has been handed over. -/
def closeReception (l : LineNo) (why : Reason) (s : State) : State :=
  let s := quitCalled l why (say l (.close (byteOf why.code)) s)
  s.setSlot l { s.slot l with closing := some ⟨why, 0, []⟩ }

/-- The engine ends the reception without a CLOSE and asks for the release at once. -/
def dropReception (l : LineNo) (why : Reason) (s : State) : State := release l ⟨why, 0, []⟩ (quitCalled l why s)

/-! ### The receive checker (R40, R145) -/

/-- The receive checker at the start of a page of the settings' width. -/
def Checker.start (c : Settings) : Checker := ⟨.start c.width, 0⟩

/-- The bytes that are stored for a received line (R40): a good line's mark and run codes with the bits after the last code 0,
a bad one as its substitute. -/
def Checker.stored (k : Checker) (l : DecodedLine) : List Byte :=
  match l.good, l.kind with
  | true, some kind => codedLine kind l.runs
  | _, _ => codeLine k.anchor (some l.raster) false l.raster

/-- A received line is stored (R40); the call ends STORE-FULL where its append is refused (R148). -/
def storeLine (l : LineNo) (dec : DecodedLine) (s : State) : State :=
  let x := s.proc l
  match x.page with
  | none => s
  | some p =>
    if 4095 ≤ dec.index then s.setProc l { x with bad := x.bad + 1, sup := x.sup.progress .data }
    else
      let x' := { x with bad := if dec.good then x.bad else x.bad + 1, sup := x.sup.progress .data,
                         checker := { x.checker with anchor := nextAnchor x.checker.anchor s.cfg.anchorInterval } }
      match s.store.append s.cfg.reserve .receive p (x.checker.stored dec) (if dec.good then .line else .substitute) with
      | some st => ({ s with store := st }).setProc l x'
      | none => closeReception l .storeFull (s.setProc l { x' with checker := x.checker })

/-- A byte of page data reaches the decoder (R36, R145). -/
def feedByte (l : LineNo) (b : Byte) (s : State) : State :=
  let x := s.proc l
  let e := x.checker.decoder.feed b
  let s := s.setProc l { x with checker := { x.checker with decoder := e.1 } }
  match e.2 with
  | .line dec => storeLine l dec s
  | _ => s

/-- The page a reception stores into: the one at the cursor, or a record taken for a later page (R145). Where the document has 128
slots and no page record is free either, the slots are looked at first and the reception ends DOC-FULL: R5, R145 and R148 give no
order, and this one is a DESIGN CHOICE (log 45). -/
def takeReceivedPage (l : LineNo) (s : State) : State :=
  let x := s.proc l
  match x.page, receptionDoc l s with
  | none, some d =>
    match s.doc d with
    | none => s
    | some doc =>
      if 128 ≤ doc.slots.length then closeReception l .docFull s
      else match s.store.freePage with
        | none => closeReception l .storeFull s
        | some p =>
          let s := { s with store := s.store.mapPage p x.settings.width x.settings.resolution d (docHolders d s) }
          documentNews d (s.setProc l { x with page := some p })
  | _, _ => s

/-- The first byte of page data begins the page (R145). -/
def beginReceived (l : LineNo) (s : State) : State :=
  let s := takeReceivedPage l s
  let x := s.proc l
  if x.phase = .idle then s
  else s.setProc l { x with phase := .receiving, checker := .start x.settings, sup := .enter .data }

/-- A byte received with page data set (R145). -/
def takeDataByte (l : LineNo) (b : Byte) (s : State) : State :=
  match (s.proc l).phase with
  | .waitData =>
    let s := beginReceived l s
    if (s.proc l).phase = .receiving then feedByte l b s else s
  | .receiving => feedByte l b s
  | _ => s

/-- A line cut off by the end of the page data is bad (R37). -/
def cutOffLine (l : LineNo) (s : State) : State :=
  let x := s.proc l
  let e := x.checker.decoder.endData
  let s := s.setProc l { x with checker := { x.checker with decoder := e.1 } }
  match e.2 with
  | .line dec => storeLine l dec s
  | _ => s

/-- The page-end mark is appended and the station waits for PAGE-END (R40, R145). -/
def endReceivedPage (l : LineNo) (s : State) : State :=
  let x := s.proc l
  if x.phase = .receiving then
    match x.page with
    | none => s
    | some p =>
      match s.store.append s.cfg.reserve .receive p [pageEndMark] .mark with
      | some st => enter l .waitPageEnd .message { s with store := st }
      | none => closeReception l .storeFull s
  else s

/-- The page data ends (R39, R145). -/
def takeDataEnd (l : LineNo) (s : State) : State :=
  if (s.proc l).phase = .receiving then endReceivedPage l (cutOffLine l s) else s

/-! ### Verdicts (R146, R147) -/

/-- A verdict is sent and recorded (R146). -/
def sayVerdict (l : LineNo) (v : Verdict) (s : State) : State :=
  let s := say l (.verdict v) s
  s.setProc l { s.proc l with lastVerdict := some v }

/-- What follows a GOOD verdict (R147). -/
def afterGood (l : LineNo) (k : PageEndKind) (s : State) : State :=
  let x := s.proc l
  let x := { x with delivered := x.delivered + 1, resends := 0, bad := 0 }
  match k with
  | .next => s.setProc l { x with slot := x.slot + 1, page := none, phase := .waitData, sup := .enter .data }
  | .new => s.setProc l { x with slot := x.slot + 1, page := none, phase := .waitChoice, sup := .enter .message }
  | .last => s.setProc l { x with phase := .waitClose, sup := .enter .message }

/-- The page is judged GOOD, sealed (R7, R146) and looked at (R17); for LAST the document becomes CLOSED. -/
def judgeGood (l : LineNo) (k : PageEndKind) (p : Fin 256) (damaged : Bool) (s : State) : State :=
  let s := withStore (fun st => (st.sealPage p false damaged).settle p) s
  let s := afterGood l k (sayVerdict l .good s)
  match receptionDoc l s with
  | none => s
  | some d => documentNews d (if k = .last then closeReceived d s else s)

/-- The page is judged RESEND, and refilled (R9, R146). -/
def judgeResend (l : LineNo) (p : Fin 256) (s : State) : State :=
  let s := sayVerdict l .resend (withStore (fun st => st.refill p) s)
  let x := s.proc l
  s.setProc l { x with resends := x.resends + 1, bad := 0, checker := .start x.settings, phase := .waitData, sup := .enter .data }

/-- The station judges the page at the cursor (R146). -/
def judgePage (l : LineNo) (k : PageEndKind) (s : State) : State :=
  let x := { s.proc l with pageEnd := some k }
  let s := s.setProc l x
  match x.page with
  | none => s
  | some p =>
    if x.bad ≤ s.cfg.acceptLimit then judgeGood l k p false s
    else if x.resends < 2 then judgeResend l p s
    else judgeGood l k p true s

/-- A PAGE-END that repeats one already judged (R147). -/
def repeatVerdict (l : LineNo) (s : State) : State :=
  match (s.proc l).lastVerdict with
  | some v => sayVerdict l v s
  | none => s

/-- A PAGE-END message (R145, R146, R147). -/
def takePageEnd (l : LineNo) (k : PageEndKind) (s : State) : State :=
  match (s.proc l).phase with
  | .waitPageEnd => judgePage l k s
  | .receiving =>
    let s := takeDataEnd l s
    if (s.proc l).phase = .waitPageEnd then judgePage l k s else s
  | .waitData => repeatVerdict l s
  | .waitChoice => repeatVerdict l s
  | .waitClose => repeatVerdict l s
  | _ => s

/-! ### CHOICE and trial (R143, R144) -/

/-- Whether a CHOICE is met (R143). -/
def choiceMet (cfg : Configuration) (c : Settings) : Bool :=
  isWidth c.width && decide (c.width ≤ cfg.maxWidth) && (decide (c.resolution = .standard) || cfg.fine) &&
    (!c.delta || cfg.delta) && decide (1 ≤ c.rate ∧ c.rate ≤ 6 ∧ c.rate ≤ cfg.maxRate ∧ c.lineTime ≤ 4)

/-- The call's first CHOICE takes the held page record for slot 0 and records the caller's name (R143). -/
def firstChoice (l : LineNo) (d : Fin 64) (p : Fin 256) (c : Settings) (n : Name) (s : State) : State :=
  let st := s.store.changeDoc d (fun x => { x with remoteName := n, held := none })
  let s := { s with store := st.mapPage p c.width c.resolution d (docHolders d s) }
  documentNews d (s.setProc l { s.proc l with slot := 0, page := some p })

/-- A later CHOICE sets the width and resolution of a page at the cursor that holds no line (R143). -/
def laterChoice (l : LineNo) (c : Settings) (s : State) : State :=
  match (s.proc l).page with
  | none => s
  | some p =>
    let g := s.page p
    if g.state = .filling ∧ g.lines = 0 then
      { s with store := s.store.setPage p { g with width := c.width, resolution := c.resolution } }
    else s

/-- The record held for a reception's first page; a held record stays FREE (R12). -/
def heldPage (l : LineNo) (s : State) : Option (Fin 64 × Fin 256) :=
  match receptionDoc l s with
  | none => none
  | some d =>
    match (s.doc d).bind Document.held with
    | some p => if (s.page p).state = .free then some (d, p) else none
    | none => none

/-- A CHOICE taken by the called station (R143). -/
def takeChoice (l : LineNo) (c : Settings) (n : Name) (s : State) : State :=
  if choiceMet s.cfg c then
    let s := s.setProc l { s.proc l with settings := c }
    let s := match heldPage l s with
      | some (d, p) => firstChoice l d p c n s
      | none => laterChoice l c s
    enter l .judging .message (setCommand l .receive 0 s)
  else say l (ownAbility s) s

/-- The trial quality indication (R144). -/
def takeTrialQuality (l : LineNo) (good : Bool) (s : State) : State :=
  if (s.proc l).phase = .judging then
    if good then enter l .waitData .data (say l .trialGood s) else enter l .waitChoice .message (say l .trialBad s)
  else s

/-! ### Messages taken by either side (R127, R128, R215) -/

/-- A CLOSE from the remote terminal (R140, R149). -/
def takeClose (l : LineNo) (s : State) : State :=
  let x := s.proc l
  match x.role with
  | .caller => dropCall l .remoteClose s
  | .called =>
    dropReception l (if x.lastVerdict = some .good ∧ x.pageEnd = some .last then .delivered else .remoteClose) s

/-- The effect of a message in the phase it finds (R128); one the phase does not expect has none. -/
def messageEffect (l : LineNo) (m : Message) (s : State) : State :=
  match m, (s.proc l).phase with
  | .ability a, .waitAbility => takeAbility l a s
  | .choice c n, .waitChoice => takeChoice l c n s
  | .choice c n, .waitData => takeChoice l c n s
  | .choice c n, .judging => takeChoice l c n s
  | .trialGood, .waitTrial => beginPage l s
  | .trialBad, .waitTrial => takeTrialBad l s
  | .pageEnd k, _ => takePageEnd l k s
  | .verdict .good, .waitVerdict => takeGood l s
  | .verdict .resend, .waitVerdict => takeResend l s
  | .close _, _ => takeClose l s
  | _, _ => s

/-- A message reaches a procedure context in use (R128, R153): the age of a MESSAGE wait is set to 0, then its effect. -/
def messageTaken (l : LineNo) (m : Message) (s : State) : State :=
  let x := s.proc l
  if x.phase = .idle then s
  else printerLook (messageEffect l m (s.setProc l { x with sup := x.sup.progress .message }))

/-- The bytes of a message up to its boundary: discarded where their layout is bad (R215). -/
def takeMessage (l : LineNo) (bytes : List Byte) (s : State) : State :=
  match readMessage bytes with
  | none => s
  | some m => messageTaken l m s

/-! ### Ticks and timeouts (R129, R152 to R156) -/

/-- The last message is sent again in the phases R129 names; a CHOICE with its TRIAL. In a WAIT-CHOICE that a TRIAL-BAD entered
and in which an ABILITY or a VERDICT has been sent since, two sentences of R129 differ: the model goes by the last message and
repeats it, a DESIGN CHOICE (log 40). -/
def repeatMessage (l : LineNo) (s : State) : State :=
  let x := s.proc l
  match x.phase, x.lastMessage with
  | .waitTrial, some (.choice c n) => sayTrial l c.rate (say l (.choice c n) s)
  | .waitVerdict, some (.pageEnd k) => say l (.pageEnd k) s
  | .waitChoice, some (.ability a) => say l (.ability a) s
  | .waitChoice, some (.verdict v) => say l (.verdict v) s
  | .waitClose, _ => repeatVerdict l s
  | _, _ => s

/-- A procedure context's wait was aged (R129, R132, R136). -/
def agedLine (l : LineNo) (c : TimeoutClass) (s : State) : State :=
  match c with
  | .message => repeatMessage l s
  | .page =>
    match (s.proc l).phase with
    | .waitFirst => say l .wait s
    | .holding => say l .wait s
    | _ => s
  | _ => s

/-- A procedure context's wait timed out (R129, R130, R156). -/
def timedOutLine (l : LineNo) (c : TimeoutClass) (s : State) : State :=
  let x := s.proc l
  let s := s.setProc l { x with sup := .off }
  match c with
  | .answer => dropCall l .noAnswer s
  | .page => closeCall l .timeout s
  | .data => closeReception l .timeout s
  | .message =>
    match x.role with
    | .caller => closeCall l .timeout s
    | .called => if x.phase = .waitClose then dropReception l .delivered s else closeReception l .timeout s
  | _ => s

/-! ### Releases the engine did not ask for (R114, R119, R140, R149) -/

/-- The reason with which a reception ends when its line is released (R149). -/
def receptionEnd (x : Proc) (why : Reason) : Reason := if why = .lineLost ∧ x.phase = .waitClose then .delivered else why

/-- The line is released without the engine asking: on a CONNECTED line the engine ends its procedure first. A CLOSE still
in hand leaves the pages delivered and the name it was to hand over (log 27). -/
def releaseUnasked (l : LineNo) (why : Reason) (s : State) : State :=
  let x := s.proc l
  if (s.line l).state = .connected then
    match x.phase, x.role, (s.slot l).closing with
    | .idle, _, some r => release l { r with reason := why } s
    | .idle, _, none => release l ⟨why, 0, []⟩ s
    | _, .caller, _ => dropCall l why s
    | _, .called, _ => release l ⟨why, 0, []⟩ (quitCalled l (receptionEnd x why) s)
  else release l ⟨why, 0, []⟩ s

end Sys2Proof.Machine
end

