-- ==== Sys2Proof/Machine/ScanOps.lean ====
section
/-! DEFINITION. The scan channels (chapter 3) and the coder's turn (R33, R34, R54): sheets, raster lines, stalls, seals, and
the close of a SCANNED document. -/

namespace Sys2Proof.Machine

/-! ### Bindings and documents (R22, R48) -/

/-- The document a station feeds or is to replace a page of. -/
def Binding.doc? : Binding → Option (Fin 64)
  | .unbound => none
  | .bound d => some d
  | .replaceOnly d => some d

/-- The binding after a replacement has ended (R19, R48). -/
def Binding.afterReplacement : Binding → Binding
  | .replaceOnly _ => .unbound
  | b => b

/-- The binding when its document becomes CLOSED (R48). -/
def Channel.closedBinding (x : Channel) : Binding :=
  match x.binding, x.replacement with
  | .bound _, .none => .unbound
  | .bound d, _ => .replaceOnly d
  | b, _ => b

/-- A SCANNED document becomes CLOSED (R22): the binding changes, and its senders and the Print Channel are told. With no
slots its callers end CANCELLED (R141) and the destinations not on a line become CANCELLED (R77). Neither rule orders their
DEST-RESULTs: the model takes the calls by line from 0 to 7 and then the other destinations by job slot and index, a DESIGN CHOICE
(log 44). -/
def closeScanned (c : ChannelNo) (d : Fin 64) (s : State) : State :=
  let s := s.setChannel c { s.channel c with binding := (s.channel c).closedBinding }
  let s := { s with store := s.store.changeDoc d (fun x => { x with isOpen := false, closePending := false }) }
  let s := documentNews d s
  printerLook (if docEmpty d s then cancelWaiting d s else s)

/-- Whether CLOSE-DOCUMENT waits for the sheet in progress (R22). -/
def closeWaits (d : Fin 64) (s : State) : Bool :=
  match s.doc d with
  | some x => x.closePending
  | none => false

/-- At the end of a sheet a pending CLOSE-DOCUMENT is carried out (R22). -/
def closeIfPending (c : ChannelNo) (s : State) : State :=
  match (s.channel c).binding with
  | .bound d => if closeWaits d s then closeScanned c d s else s
  | _ => s

/-! ### SCAN-FAULT (R61) -/

/-- The slot and page record of the sheet in progress. -/
def sheetPlace (c : ChannelNo) (s : State) : Option (Nat × Fin 256) :=
  let p := (s.channel c).page
  (s.page p).place.map (fun q => (q.2, p))

/-- Whether the sheet in progress is a replacement sheet. -/
def Channel.replacing (x : Channel) : Bool :=
  match x.replacement with
  | .filling .. => true
  | _ => false

/-- SCAN-FAULT for a sheet that has a page. -/
def sheetFault (c : ChannelNo) (cause : ScanFault) (s : State) : State :=
  let x := s.channel c
  report (.scanFault c x.number cause x.binding.doc? (sheetPlace c s) x.replacing) s

/-- SCAN-FAULT for a START that never took a page. -/
def startFault (c : ChannelNo) (sheet : Nat) (cause : ScanFault) (replacement : Bool) (s : State) : State :=
  report (.scanFault c sheet cause (s.channel c).binding.doc? none replacement) s

/-! ### START (R49, R50) -/

/-- Whether a replacement is PENDING at a channel. -/
def Channel.pendingReplacement (x : Channel) : Option (Fin 64 × Nat) :=
  match x.replacement with
  | .pending d k => some (d, k)
  | _ => none

/-- What the next sheet of a channel is (R48, R49): a replacement, a page of its document, or nothing it may take. -/
def Channel.target (x : Channel) : Option (Fin 64 × Option Nat) :=
  match x.pendingReplacement, x.binding with
  | _, .unbound => none
  | some (d, k), _ => some (d, some k)
  | none, .bound d => some (d, none)
  | none, .replaceOnly _ => none

/-- A START is refused (R49): SCAN-FAULT, the end of a pending replacement, and a CREDIT frame with the stop indication. -/
def refuseStart (c : ChannelNo) (f : StartFrame) (cause : ScanFault) (s : State) : State :=
  let x := s.channel c
  let s := startFault c f.sheet cause x.pendingReplacement.isSome s
  let x' := match x.replacement with
    | .pending .. => { x with replacement := .none, binding := x.binding.afterReplacement }
    | _ => x
  sendCredit c ⟨f.sheet, 0, 0, true⟩ (s.setChannel c x')

/-- A channel that has taken a START (R49). -/
def Channel.started (x : Channel) (f : StartFrame) (q : Resolution) (p : Fin 256) : Channel :=
  { x with replacement := match x.replacement with | .pending d k => .filling d k p | r => r,
           sheet := .active, number := f.sheet, page := p, width := f.width, resolution := q, expected := 0, limit := 0,
           staging := [], endEntry := none, truncate := false, stalled := false, coder := .empty }

/-- A START takes its page record (R5, R19) and makes the channel ACTIVE with credits and its SCAN wait (R49). -/
def startSheet (c : ChannelNo) (f : StartFrame) (q : Resolution) (d : Fin 64) (slot : Option Nat) (p : Fin 256) (s : State) :
    State :=
  let st := match slot with
    | some k => s.store.takeReplacement p f.width q d k
    | none => s.store.mapPage p f.width q d (docHolders d s)
  let s := { s with store := st }
  let s := grant c (s.setChannel c ((s.channel c).started f q p))
  let s := s.setChannel c { s.channel c with sup := .enter .scan }
  documentNews d s

/-- Whether a document has no slot left for a page. -/
def docFull (d : Fin 64) (s : State) : Bool :=
  match s.doc d with
  | some x => decide (128 ≤ x.slots.length)
  | none => true

/-- An IDLE channel takes a START with the three checks of R49. Where no page record is free and the document has 128 slots as well,
the cause is NO-RECORD: check 3 names both causes and gives no order between them, and this one is a DESIGN CHOICE (log 49). -/
def takeStart (c : ChannelNo) (f : StartFrame) (s : State) : State :=
  match isWidth f.width, Resolution.ofCode f.resolution with
  | true, some q =>
    match (s.channel c).target with
    | none => refuseStart c f .unbound s
    | some (d, slot) =>
      match s.store.freePage with
      | none => refuseStart c f .noRecord s
      | some p => if slot = none ∧ docFull d s = true then refuseStart c f .slotsFull s else startSheet c f q d slot p s
  | _, _ => refuseStart c f .format s

/-- The held START is taken when a sheet has ended (R50). -/
def takeHeld (c : ChannelNo) (s : State) : State :=
  match (s.channel c).heldStart with
  | some f => takeStart c f (s.setChannel c { s.channel c with heldStart := none })
  | none => s

/-- What follows the end of a sheet: a pending close, then the held START (R56, R60). -/
def afterSheet (c : ChannelNo) (s : State) : State := takeHeld c (closeIfPending c s)

/-- The lines a stopped page is to have (R55). -/
def linesToHave (count expected : Nat) : Nat :=
  if count = 0 ∧ expected = 0 then 1 else max expected (min count 4095)

/-- A sheet stops taking lines (R55): the end entry, the credits withdrawn, the SCAN wait ended. -/
def Channel.stopped (x : Channel) (count : Nat) (cut : Bool) : Channel :=
  { x with sheet := .ending, endEntry := some (linesToHave count x.expected - x.expected), limit := x.expected, sup := .off,
           truncate := x.truncate || cut || decide (4095 < count) }

/-- A START is kept while a sheet is in progress (R50): one already held is SUPERSEDED. Its SCAN-FAULT shows no replacement sheet,
also where a replacement is PENDING: R61 does not say what a START never taken shows, and this is a DESIGN CHOICE (log 43). -/
def holdStart (c : ChannelNo) (f : StartFrame) (s : State) : State :=
  let s := match (s.channel c).heldStart with
    | some old => startFault c old.sheet .superseded false s
    | none => s
  s.setChannel c { s.channel c with heldStart := some f }

/-- A START arrives at a channel (R49, R50). -/
def arriveStart (c : ChannelNo) (f : StartFrame) (s : State) : State :=
  let x := s.channel c
  match x.sheet with
  | .idle => takeStart c f s
  | .active =>
    if f.sheet = x.number then s
    else holdStart c f (sheetFault c .noEnd (s.setChannel c (x.stopped x.expected true)))
  | .ending => holdStart c f s

/-! ### END, ABORT, RASTER (R53, R55, R56) -/

/-- An END arrives (R55). -/
def arriveEnd (c : ChannelNo) (sheet count : Nat) (s : State) : State :=
  let x := s.channel c
  if x.sheet = .active ∧ sheet = x.number then s.setChannel c (x.stopped count false) else s

/-- The channel of an aborted sheet (R56). -/
def Channel.aborted (x : Channel) : Channel :=
  { x with staging := [], endEntry := none, limit := x.expected, stalled := false, sup := .off, coder := .empty, sheet := .idle,
           replacement := if x.replacing then .none else x.replacement,
           binding := if x.replacing then x.binding.afterReplacement else x.binding }

/-- The coder's work on a line of a channel is discarded (R33): it becomes idle. -/
def dropCoderWork (c : ChannelNo) (s : State) : State :=
  match s.scan.coder with
  | .busy e _ => if e = c then { s with scan := { s.scan with coder := .idle } } else s
  | .idle => s

/-- The sheet in progress is aborted (R56): the coder's work on it and its page are discarded. The Print Channel is told first
(R169), then a pending close is carried out, then the callers that send the page are told (R141 lets the close come before the
discard). SCAN-FAULT is offered first of all, before the discard and what it makes others report: R56 names it last among the parts
of its one step, and this place is a DESIGN CHOICE (log 50). -/
def abortSheet (c : ChannelNo) (s : State) : State :=
  let x := s.channel c
  let d := x.binding.doc?
  let s := sheetFault c .aborted (dropCoderWork c s)
  let s := withStore (fun st => st.discard x.page) (s.setChannel c x.aborted)
  let s := callersPageGone x.page (closeIfPending c (printWithdrawn x.page s))
  let s := match d with
    | some d => documentNews d s
    | none => s
  takeHeld c s

/-- An ABORT arrives (R56). A number that names both the ENDING sheet in progress and a held START aborts the sheet in progress,
and the held START is then taken: R56 gives no precedence, and this one is a DESIGN CHOICE (log 41). The SCAN-FAULT of a held
START shows no replacement sheet, a DESIGN CHOICE too (log 43). -/
def arriveAbort (c : ChannelNo) (sheet : Nat) (s : State) : State :=
  let x := s.channel c
  if x.inProgress ∧ sheet = x.number then abortSheet c s
  else match x.heldStart with
    | some f =>
      if f.sheet = sheet then startFault c f.sheet .aborted false (s.setChannel c { x with heldStart := none }) else s
    | none => s

/-- A RASTER frame reaches its channel (R53). -/
def arriveRaster (c : ChannelNo) (sheet line : Nat) (bits : List Byte) (s : State) : State :=
  let x := s.channel c
  if ¬(x.sheet = .active) ∨ sheet ≠ x.number then s
  else if 4095 ≤ line then s.setChannel c { x with truncate := true }
  else if line < x.expected ∨ x.limit ≤ line ∨ bits.length * 8 ≠ x.width then s
  else
    grant c (s.setChannel c { x with staging := x.staging ++ [⟨line, readPixels bits, line - x.expected⟩], expected := line + 1,
                                     sup := x.sup.progress .scan })

/-! ### The coder's turn (R33, R34, R54, R57) and its outcomes (R58, R60) -/

/-- The channels in the order the arbiter looks at them (R57). -/
def arbiterOrder (last : ChannelNo) : List ChannelNo := [last + 1, last + 2, last + 3, last]

/-- The channel the arbiter serves next (R57). -/
def nextChannel (s : State) : Option ChannelNo := (arbiterOrder s.scan.lastServed).find? (fun c => (s.channel c).waiting)

/-- A piece of work (R54): a substitute, the head entry's line, or the page-end mark. -/
inductive Piece where
  | substitute | line (r : Raster) | mark
  deriving DecidableEq, Repr

/-- The piece a waiting channel hands over (R54). -/
def Channel.piece (x : Channel) : Piece :=
  match x.staging with
  | e :: _ => if 0 < e.missing then .substitute else .line e.raster
  | [] => match x.endEntry with
    | some (_ + 1) => .substitute
    | _ => .mark

/-- The raster of a line or substitute (R35). -/
def Channel.pieceRaster (x : Channel) : Raster :=
  match x.piece with
  | .line r => r
  | _ => substituteRaster x.width x.coder.reference

/-- The bytes of a piece under the coder context (R31, R34). -/
def Channel.pieceBytes (x : Channel) : List Byte :=
  match x.piece with
  | .mark => [pageEndMark]
  | _ => codeLine x.coder.anchor x.coder.reference true x.pieceRaster

/-- What the piece's append adds (R6). -/
def Channel.pieceKind (x : Channel) : AppendKind :=
  match x.piece with
  | .substitute => .substitute
  | .line _ => .line
  | .mark => .mark

/-- The channel after a granted line or substitute (R32, R54). -/
def Channel.coded (x : Channel) (interval : Nat) : Channel :=
  let coder := x.coder.advance interval x.pieceRaster
  match x.staging with
  | e :: rest =>
    if 0 < e.missing then { x with coder := coder, staging := { e with missing := e.missing - 1 } :: rest }
    else { x with coder := coder, staging := rest }
  | [] => { x with coder := coder, endEntry := x.endEntry.map (fun n => n - 1) }

/-- A refused append stalls the channel (R58). -/
def stall (c : ChannelNo) (s : State) : State :=
  let x := s.channel c
  let s := s.setChannel c { x with stalled := true, sup := if x.sheet = .active then { x.sup with suspended := true } else x.sup }
  let s := report (.storeLow c s.store.freeCount s.cfg.reserve) s
  if s.cfg.reserve < s.store.freeCount then endStall c s else s

/-- The PAGE-SEALED report of a sealed page (R60). -/
def sealedReport (c : ChannelNo) (x : Channel) (d : Fin 64) (slot : Nat) (replaced : Option (Fin 256)) (s : State) : Report :=
  let g := s.page x.page
  .pageSealed c x.number d slot x.page g.version g.width g.resolution g.lines g.substituted g.length g.truncated replaced

/-- The channel of a sealed sheet (R34, R60). -/
def Channel.sealed (x : Channel) : Channel :=
  { x with sheet := .idle, truncate := false, staging := [], endEntry := none, coder := .empty,
           replacement := if x.replacing then .none else x.replacement,
           binding := if x.replacing then x.binding.afterReplacement else x.binding }

/-- The page of a channel's sheet is sealed (R7, R19, R60) and looked at (R17), and its readers are told. -/
def sealSheet (c : ChannelNo) (s : State) : State :=
  let x := s.channel c
  match (s.page x.page).place with
  | none => s
  | some (d, slot) =>
    let old := if x.replacing then s.store.slotPage d slot else none
    let s := { s with store := s.store.sealPage x.page x.truncate false }
    let s := report (sealedReport c x d slot old s) s
    let s := withStore (fun st => (if x.replacing then st.remap x.page d slot else st).settle x.page) s
    afterSheet c (documentNews d (s.setChannel c x.sealed))

/-- A granted piece (R33, R34): the page-end mark seals, a line advances the context and may free a staging place. -/
def pieceGranted (c : ChannelNo) (s : State) : State :=
  let x := s.channel c
  match x.piece with
  | .mark => sealSheet c s
  | _ =>
    let s := grant c (s.setChannel c (x.coded s.cfg.anchorInterval))
    match (s.page x.page).place with
    | some (d, _) => documentNews d s
    | none => s

def setCoder (x : CoderState) (s : State) : State := { s with scan := { s.scan with coder := x } }

/-- A channel's turn at the coder (R33, R54, R57): the coder is busy with the piece while the append is asked for, and idle when
the channel is told its outcome (log 10). -/
def serveChannel (c : ChannelNo) (s : State) : State :=
  let x := s.channel c
  let s := setCoder (.busy c x.coder.index) { s with scan := { s.scan with lastServed := c } }
  match s.store.append s.cfg.reserve .scan x.page x.pieceBytes x.pieceKind with
  | some st => pieceGranted c (setCoder .idle { s with store := st })
  | none => stall c (setCoder .idle s)

/-! ### Silence (R59, R157) -/

/-- An aged SCAN wait repeats the grant (R59). -/
def agedChannel (c : ChannelNo) (s : State) : State :=
  let x := s.channel c
  sendCredit c ⟨x.number, x.limit, x.expected, false⟩ s

/-- The SCAN wait times out (R59). -/
def scanSilent (c : ChannelNo) (s : State) : State :=
  let x := s.channel c
  let s := sheetFault c .scanTimeout (s.setChannel c (x.stopped x.expected true))
  sendCredit c ⟨x.number, x.expected, x.expected, true⟩ s

/-- What a channel sends its station at RESTART (R62). R62 has one CREDIT frame "for that sheet": where a sheet is in progress and
a START is held as well, the model sends it for the sheet in progress only, a DESIGN CHOICE (log 41). -/
def restartCredit (s : State) (c : ChannelNo) : State :=
  let x := s.channel c
  if x.inProgress then sendCredit c ⟨x.number, x.expected, x.expected, true⟩ s
  else match x.heldStart with
    | some f => sendCredit c ⟨f.sheet, 0, 0, true⟩ s
    | none => s

end Sys2Proof.Machine
end

