-- ==== Sys2Proof/Machine/TariffCommands.lean ====
section
/-! DEFINITION. The owners of the Tariff Clock's orders and the second event (chapter 10), with the postings of the meters and what the
Job Table and the callers do at a second event. -/

namespace Sys2Proof.Machine

def setClock (x : Clock) (s : State) : State := { s with clock := x }

/-! ### STAGE-TARIFF, APPLY-TARIFF (R181, R182) -/

/-- Whether a list names a band and zone twice. -/
def sameCellTwice : List TariffEntry → Bool
  | [] => false
  | e :: rest => rest.any (fun f => decide (f.band = e.band ∧ f.zone = e.zone)) || sameCellTwice rest

/-- An entry within its ranges (R181). -/
def TariffEntry.inRange (e : TariffEntry) : Bool :=
  decide (e.band ≤ 3 ∧ e.zone ≤ 7 ∧ e.cell.whole ≤ 1023 ∧ e.cell.fraction ≤ 15 ∧ e.cell.setup ≤ 15)

/-- An entry as a reply carries it. -/
def TariffEntry.bytes (e : TariffEntry) : List Byte :=
  uint 1 e.band ++ uint 1 e.zone ++ uint 2 e.cell.whole ++ uint 1 e.cell.fraction ++ uint 1 e.cell.setup

/-- One cell of the staged table written. -/
def stageCell (t : Table Cell 32) (e : TariffEntry) : Table Cell 32 :=
  match index? 32 (e.band * 8 + e.zone) with
  | some i => store t i e.cell
  | none => t

def stageTariff (es : List TariffEntry) (s : State) : State × Answer :=
  if es = [] ∨ sameCellTwice es = true then refuse .malformed s
  else if 8 < es.length ∨ es.all TariffEntry.inRange = false then refuse .outOfRange s
  else done (listOf TariffEntry.bytes es) (setClock { s.clock with staged := es.foldl stageCell s.clock.staged } s)

/-- How many cells the copy changes (R182). -/
def changedCells (c : Clock) : Nat := (indices 32).countP (fun i => decide (fetch c.active i ≠ fetch c.staged i))

def applyTariff (_ : Unit) (s : State) : State × Answer :=
  done (uint 1 (changedCells s.clock)) (setClock { s.clock with active := s.clock.staged } s)

/-! ### LOAD-BANDS, LOAD-DAY-MAP (R179) -/

/-- A switch point with its band, where both are in range. -/
def switchPoint (p : Nat × Nat) : Option (Nat × Fin 4) :=
  if p.1 ≤ 86399 then (index? 4 p.2).map (fun b => (p.1, b)) else none

/-- Strictly ascending seconds. -/
def ascending : List (Nat × Fin 4) → Bool
  | [] => true
  | [_] => true
  | a :: b :: rest => decide (a.1 < b.1) && ascending (b :: rest)

def Schedule.bytes (x : Schedule) : List Byte := uint 1 x.start.val ++ listOf (fun p => uint 3 p.1 ++ uint 1 p.2.val) x.points

def loadBands (p : Nat × Nat × List (Nat × Nat)) (s : State) : State × Answer :=
  match index? 2 p.1, index? 4 p.2.1, p.2.2.mapM switchPoint with
  | some c, some b, some points =>
    if 6 < points.length then refuse .outOfRange s
    else if ascending points then
      done (Schedule.bytes ⟨b, points⟩) (setClock { s.clock with schedules := store s.clock.schedules c ⟨b, points⟩ } s)
    else refuse .malformed s
  | _, _, _ => refuse .outOfRange s

/-- LOAD-DAY-MAP carries seven entries. -/
def readDays : Reader (List Nat) := readTimes (readUint 1) 7

/-- A day map of seven entries, where each is 0 or 1. -/
def dayMapOf (ds : List Nat) : Option (Table (Fin 2) 7) :=
  match ds.mapM (index? 2) with
  | some [a, b, c, d, e, f, g] => some #v[a, b, c, d, e, f, g]
  | _ => none

def loadDayMap (ds : List Nat) (s : State) : State × Answer :=
  match dayMapOf ds with
  | some m => done (m.toList.flatMap (fun c => uint 1 c.val)) (setClock { s.clock with dayMap := m } s)
  | none => refuse .outOfRange s

/-! ### SET-TIME, READ-TIME (R176, R177) -/

def setTime (p : Nat × Nat) (s : State) : State × Answer :=
  match index? 7 p.2 with
  | some d =>
    if p.1 ≤ 86399 then done (uint 3 p.1 ++ uint 1 d.val) (setClock { s.clock with second := p.1, day := d } s)
    else refuse .outOfRange s
  | none => refuse .outOfRange s

def readTime (_ : Unit) (s : State) : State × Answer :=
  let c := s.clock
  done (uint 3 c.second ++ uint 1 c.day.val ++ uint 4 c.elapsed.toNat ++ int16 s.cfg.correction ++ uint 1 c.accumulator ++
    uint 2 c.frame ++ uint 2 c.length ++ uint 1 c.dayClass.val ++ uint 1 c.band.val) s

/-! ### The second event (R173 to R175, R185, R71, R139) -/

/-- The accumulator and the length of the next second (R174). -/
def nextLength (correction : Int) (accumulator : Nat) : Nat × Nat :=
  let total := accumulator + correction.natAbs
  let frames := total / 125
  (total % 125, if correction < 0 then 8000 - frames else 8000 + frames)

/-- The clock takes a second event (R173, R175). -/
def Clock.tick (c : Clock) (correction : Int) : Clock :=
  let n := nextLength correction c.accumulator
  let midnight := 86399 ≤ c.second
  { c with frame := 0, accumulator := n.1, length := n.2, second := if midnight then 0 else c.second + 1,
           day := if midnight then c.day + 1 else c.day, elapsed := c.elapsed + 1 }

/-- A caller that holds looks for a cut (R139). -/
def holdingCut (s : State) (l : LineNo) : State :=
  if (s.proc l).phase = .holding ∧ cutFound l s = true then sendPageEnd l .next s else s

/-- The second event (R173): the clock, the meters, the Job Table and the callers that hold. -/
def secondEvent (s : State) : State :=
  let s := setClock (s.clock.tick s.cfg.correction) s
  let s := allLines.foldl (fun s l => meterSecond l s) s
  allLines.foldl holdingCut (jobsSecond s)

/-- A timed meter reaches a unit boundary (R185, log 8). -/
def unitBoundary (l : LineNo) (s : State) : State :=
  if (s.meter l).running ∧ (s.meter l).timed then meterBoundary l s else s

/-! ### The commands -/

/-- SECOND_EVENT (R173). -/
def execSecondEvent (s : State) : Host.Outcome State Fault Refusal := .next (secondEvent s)

/-- UNIT_BOUNDARY (R185). -/
def execUnitBoundary (line : LineNo) (s : State) : Host.Outcome State Fault Refusal := .next (unitBoundary line s)

end Sys2Proof.Machine
end

