-- ==== Sys2Proof/Machine/AccountCommands.lean ====
section
/-! DEFINITION. The owners of the orders on accounts and charge records (chapter 11). -/

namespace Sys2Proof.Machine

/-! ### SET-ACCOUNT, READ-ACCOUNT (R192, R195, R196) -/

/-- An account after an order: OVER is worked out afresh (R195). -/
def Account.judged (a : Account) : Account := { a with isOver := overOf a.total a.limit }

/-- The Account Table takes an order's new contents (R192, R195): ACCOUNT-OVER at an entry into OVER, and the news that the
account has left OVER and BLOCKED. -/
def orderAccount (n : Fin 64) (a : Account) (s : State) : State :=
  let left := !(s.account n).isOpen && a.isOpen
  let s := putAccount n a s
  if left then accountLeft n s else s

/-- The fields of an account in the order of R190. -/
def Account.bytes (a : Account) : List Byte :=
  uint 3 a.total ++ uint 3 a.limit ++ flag a.isOver ++ flag a.blocked ++ uint 1 a.policy.code ++ uint 1 a.active

def policyOf (k : Nat) : AccountPolicy := if k = 0 then .finish else .cut

def setAccount (p : AccountParams) (s : State) : State × Answer :=
  match index? 64 p.account with
  | none => refuse .outOfRange s
  | some n =>
    if maxTotal < p.limit then refuse .outOfRange s
    else
      let a := Account.judged { s.account n with limit := p.limit, policy := policyOf p.policy, blocked := p.blocked }
      done a.bytes (orderAccount n a s)

def readAccount (p : Nat × Bool) (s : State) : State × Answer :=
  match index? 64 p.1 with
  | none => refuse .outOfRange s
  | some n =>
    let a := s.account n
    done (a.bytes ++ flag p.2) (if p.2 then orderAccount n (Account.judged { a with total := 0 }) s else s)

/-! ### TAKE-RECORDS (R200) -/

/-- A charge record in the order of R199. -/
def ChargeRecord.bytes (r : ChargeRecord) : List Byte :=
  uint 1 r.account.val ++ uint 1 r.job.val ++ uint 1 r.dest ++ symbols r.number ++ uint 1 r.entry.val ++ uint 1 r.zone.val ++
    uint 1 r.line.val ++ uint 1 r.answerDay.val ++ uint 3 r.answerSecond ++ uint 4 r.duration.toNat ++ uint 4 r.units.toNat ++
    uint 1 r.reason.code ++ uint 1 r.delivered ++ text r.name

/-- TAKE-RECORDS (R200). Its reply has the fields of R200 alone and shows no clamped count, though R206 has a DONE reply show a
clamped value as stored: a count that is stored nowhere has no such value, a DESIGN CHOICE (log 13). -/
def takeRecords (n : Nat) (s : State) : State × Answer :=
  let n := clamp 1 4 n
  let q := s.charges
  let left := q.filled.drop n
  let s' := { s with charges := { q with filled := left } }
  done (listOf ChargeRecord.bytes (q.filled.take n) ++ uint 1 left.length ++ uint 1 q.reserved.length)
    (if q.filled = [] then s' else trigger s')

end Sys2Proof.Machine
end

