-- ==== Sys2Proof/Machine/RouteCommands.lean ====
section
/-! DEFINITION. The Route Table and the admission arbiter (chapter 5): the owners of the orders on routes, the match of a
number, the choice of a line, and a pass. -/

namespace Sys2Proof.Machine

/-! ### LOAD-ROUTE, CLEAR-ROUTE (R91, R92) -/

/-- A symbol that a prefix may hold. -/
def isPrefixSymbol (k : Nat) : Bool := decide (k < 10)

/-- A symbol that access digits may hold. -/
def isAccessSymbol (k : Nat) : Bool := decide (k < 12)

/-- The entry of a BARRED LOAD-ROUTE (R90). -/
def barredRoute (digits : Number) : Route := { Route.invalid with valid := true, digits := digits, barred := true }

/-- The checks of R91 for an entry that is not BARRED, its fields being there. -/
def openRoute (digits : List Nat) (zone profile : Nat) (access lines : List Nat) (mode limit : Nat) : RefuseReason ⊕ Route :=
  if digits.all isPrefixSymbol = false ∨ access.all isAccessSymbol = false ∨ ¬lines.Nodup ∨ 1 < mode ∨ lines = [] then
    .inl .malformed
  else if 8 < digits.length ∨ 4 < access.length ∨ 8 < lines.length ∨ limit = 0 ∨ 8 < limit then .inl .outOfRange
  else match index? 8 zone, index? 8 profile, lines.mapM (index? 8), numberOf digits, numberOf access with
    | some z, some p, some ls, some ds, some as =>
      .inr ⟨true, ds, false, z, p, as, ls, if mode = 0 then .inOrder else .spread, limit⟩
    | _, _, _, _, _ => .inl .outOfRange

/-- The entry that LOAD-ROUTE loads, or the reason it is refused for; the index is checked with the second list of R91. An
entry not BARRED that leaves out one of its six fields is MALFORMED ahead of R91's checks (DEDUCED, log 12). -/
def routeOf (p : RouteParams) : RefuseReason ⊕ Route :=
  if p.barred then
    if p.digits.all isPrefixSymbol = false then .inl .malformed
    else if 8 < p.digits.length then .inl .outOfRange
    else match numberOf p.digits with
      | some ds => .inr (barredRoute ds)
      | none => .inl .malformed
  else match p.zone, p.profile, p.access, p.lines, p.mode, p.limit with
    | some z, some q, some as, some ls, some m, some k => openRoute p.digits z q as ls m k
    | _, _, _, _, _, _ => .inl .malformed

def setRoutes (x : RouteTable) (s : State) : State := { s with routes := x }

/-- The reply to LOAD-ROUTE and CLEAR-ROUTE. -/
def routeReply (i : Fin 48) (s : State) : List Byte := uint 1 i.val ++ uint 1 (fetch s.routes.active i)

def putRoute (i : Fin 48) (r : Route) (s : State) : State :=
  trigger (setRoutes { s.routes with entries := store s.routes.entries i r } s)

def loadRoute (p : RouteParams) (s : State) : State × Answer :=
  match routeOf p, index? 48 p.index with
  | .inl why, _ => refuse why s
  | .inr _, none => refuse .outOfRange s
  | .inr r, some i => done (routeReply i s) (putRoute i r s)

def clearRoute (n : Nat) (s : State) : State × Answer :=
  match index? 48 n with
  | none => refuse .outOfRange s
  | some i => done (routeReply i s) (putRoute i .invalid s)

/-! ### The match of a number (R93) -/

/-- Whether an entry matches a number. -/
def Route.matches (r : Route) (n : Number) : Bool := r.valid && r.digits.isPrefixOf n

/-- The better of the match so far and the next entry: the longer prefix, and the lower index among equals. -/
def betterMatch (es : Table Route 48) (n : Number) (best : Option (Fin 48)) (i : Fin 48) : Option (Fin 48) :=
  if (fetch es i).matches n then
    match best with
    | some b => if (fetch es b).digits.length < (fetch es i).digits.length then some i else some b
    | none => some i
  else best

/-- The matching entry of a number, if there is one. -/
def matchEntry (es : Table Route 48) (n : Number) : Option (Fin 48) := (indices 48).foldl (betterMatch es n) none

/-- The result of a match (R93). -/
inductive RouteMatch where
  | noRoute | barred | entry (i : Fin 48)
  deriving DecidableEq, Repr

def matchNumber (n : Number) (s : State) : RouteMatch :=
  match matchEntry s.routes.entries n with
  | none => .noRoute
  | some i => if (fetch s.routes.entries i).barred then .barred else .entry i

/-! ### The choice of a line (R96, R97) -/

/-- The value of the last digit of a number, or 0. -/
def lastDigit (n : Number) : Nat :=
  match n.reverse.findSome? (fun x => match x with | .digit d => some d.val | _ => none) with
  | some d => d
  | none => 0

/-- The lines of a route in search order. -/
def Route.searchOrder (r : Route) (n : Number) : List LineNo :=
  match r.mode with
  | .inOrder => r.lines
  | .spread => r.lines.drop (lastDigit n % r.lines.length) ++ r.lines.take (lastDigit n % r.lines.length)

/-- The line that the Line Controller grants (R97): the first in search order that is IDLE. -/
def chosenLine (r : Route) (n : Number) (s : State) : Option LineNo :=
  (r.searchOrder n).find? (fun l => decide ((s.line l).state = .idle))

/-! ### A pass (R99 to R102) -/

/-- A destination placed on a line in one step (R101, R102, R108). -/
def place (j : Fin 32) (d : Nat) (x : Dest) (b : SendJob) (i : Fin 48) (l : LineNo) (s : State) : State :=
  let r := fetch s.routes.entries i
  let a : Admission := ⟨j, d, x.number, b.account, i, r.zone, r.profile, r.access⟩
  let s := { s with charges := s.charges.reserve l j d }
  let s := setRoutes { s.routes with active := change s.routes.active i (fun n => n + 1) } s
  let s := s.setAccount b.account { s.account b.account with active := (s.account b.account).active + 1 }
  let s := changeDest j d (fun x => { x with state := .onLine, attempts := x.attempts + 1, line := some l }) s
  seizeLine l a s

/-- A destination that its re-match fails becomes final (R72). -/
def failDest (j : Fin 32) (d : Nat) (why : Reason) (s : State) : State := finishIfFinal j (cancelDest j d .failed why s)

/-- The checks of R100 for one READY destination. -/
def admitDest (j : Fin 32) (d : Nat) (x : Dest) (b : SendJob) (s : State) : State :=
  match matchNumber x.number s with
  | .noRoute => failDest j d .noRoute s
  | .barred => failDest j d .barred s
  | .entry i =>
    let r := fetch s.routes.entries i
    if (s.account b.account).isOpen = false then changeDest j d (fun x => { x with state := .held }) s
    else if r.limit ≤ fetch s.routes.active i then s
    else if 32 ≤ s.charges.used then s
    else match chosenLine r x.number s with
      | none => s
      | some l => place j d x b i l s

/-- A candidate's turn: one no longer READY is passed over (R99). -/
def takeCandidate (s : State) (c : Fin 32 × Nat) : State :=
  match s.job c.1, s.dest c.1 c.2 with
  | some ⟨_, .send b, none⟩, some x => if x.state = .ready then admitDest c.1 c.2 x b s else s
  | _, _ => s

/-- The end of a pass (R98): with rerun set another pass starts at once, with candidates of its own (R99). -/
def endPass (s : State) : State :=
  if s.routes.rerun then startPass (setRoutes { s.routes with rerun := false } s)
  else setRoutes { s.routes with passing := false, candidates := [] } s

/-- The candidates of the pass in hand are looked at in their order, and the pass ends (R99; log 23). -/
def admissionPass (s : State) : State :=
  if s.routes.passing then endPass (printerLook (s.routes.candidates.foldl takeCandidate s)) else s

/-! ### The commands -/

/-- ADMISSION_PASS (R99). -/
def execAdmissionPass (s : State) : Host.Outcome State Fault Refusal := .next (admissionPass s)

end Sys2Proof.Machine
end

