-- ==== Sys2Proof/Machine/DocumentCommands.lean ====
section
/-! DEFINITION. The owners of the orders on documents and the store (R18, R21 to R25). -/

namespace Sys2Proof.Machine

/-- The station of a SCANNED document as its channel. -/
def Document.channel (x : Document) : Option ChannelNo :=
  match x.kind with
  | .scanned c => some c
  | .received _ => none

/-- A free SCANNED document for a channel (R21). -/
def scannedDocument (c : ChannelNo) : Document := ⟨.scanned c, true, false, [], [], none, false, 0⟩

/-- OPEN-DOCUMENT (R21). -/
def openDocument (station : Nat) (s : State) : State × Answer :=
  match channelOf station with
  | none => refuse .outOfRange s
  | some c =>
    if (s.channel c).binding ≠ .unbound then refuse .wrongState s
    else match s.store.freeDoc with
      | none => refuse .noRoom s
      | some d =>
        done (uint 1 d.val) ((s.setDoc d (some (scannedDocument c))).setChannel c { s.channel c with binding := .bound d })

/-- CLOSE-DOCUMENT (R22). -/
def closeDocument (n : Nat) (s : State) : State × Answer :=
  match index? 64 n with
  | none => refuse .outOfRange s
  | some d =>
    match s.doc d with
    | none => refuse .noSuch s
    | some x =>
      match x.channel with
      | none => refuse .wrongState s
      | some c =>
        if x.isOpen = false ∨ x.closePending = true then done [] s
        else if (s.channel c).inProgress then done [] (s.setDoc d (some { x with closePending := true }))
        else done [] (closeScanned c d s)

/-- Whether REPLACE-PAGE finds the station or the page in the wrong state (R18). -/
def replaceBarred (x : Document) (d : Fin 64) (c : Channel) (g : Page) : Bool :=
  x.released || decide (g.state = .filling) || decide (c.replacement ≠ .none) ||
    (match c.binding.doc? with | some e => decide (e ≠ d) | none => false)

/-- REPLACE-PAGE (R18). -/
def replacePage (p : Nat × Nat) (s : State) : State × Answer :=
  match index? 64 p.1 with
  | none => refuse .outOfRange s
  | some d =>
    if 127 < p.2 then refuse .outOfRange s
    else match s.doc d with
      | none => refuse .noSuch s
      | some x =>
        match x.slots[p.2]?, x.channel with
        | none, _ => refuse .noSuch s
        | some _, none => refuse .wrongState s
        | some q, some c =>
          let ch := s.channel c
          if replaceBarred x d ch (s.page q) then refuse .wrongState s
          else done [] (s.setChannel c { ch with replacement := .pending d p.2,
                                                 binding := if ch.binding = .unbound then .replaceOnly d else ch.binding })

/-- Whether a replacement is pending or filling for a document. -/
def replacing (d : Fin 64) (s : State) : Bool :=
  allChannels.any (fun c =>
    match (s.channel c).replacement with
    | .none => false
    | .pending e _ => decide (e = d)
    | .filling e _ _ => decide (e = d))

/-- RELEASE-DOCUMENT (R23). -/
def releaseDocument (n : Nat) (s : State) : State × Answer :=
  match index? 64 n with
  | none => refuse .outOfRange s
  | some d =>
    match s.doc d with
    | none => refuse .noSuch s
    | some x =>
      if x.isOpen = true ∨ x.closePending = true ∨ replacing d s = true then refuse .wrongState s
      else if x.released then done [] s
      else done [] (releaseDoc d s)

/-! ### Reading (R24, R25) -/

def PageState.code : PageState → Nat
  | .free => 0
  | .filling => 1
  | .sealed => 2
  | .void => 3

/-- A slot summary (R24). -/
def slotSummary (s : State) (e : Fin 256 × Nat) : List Byte :=
  let g := s.page e.1
  uint 1 e.2 ++ uint 1 e.1.val ++ uint 1 g.state.code ++ uint 1 g.version ++ uint 2 g.width ++ uint 1 g.resolution.code ++
    uint 2 g.lines ++ uint 3 g.length ++ uint 2 g.substituted ++ flag g.truncated ++ flag g.damaged ++
    uint 2 (s.store.claimCount e.1)

/-- The replacement of a document: its slot, and its page record once it has one. -/
def replacementOf (d : Fin 64) (s : State) : Option (Nat × Option (Fin 256)) :=
  allChannels.findSome? (fun c =>
    match (s.channel c).replacement with
    | .none => none
    | .pending e k => if e = d then some (k, none) else none
    | .filling e k p => if e = d then some (k, some p) else none)

/-- The line of a RECEIVED document. -/
def Document.line (x : Document) : Option LineNo :=
  match x.kind with
  | .scanned _ => none
  | .received l => some l

/-- The fields of a document in a READ-DOCUMENT reply (R24). R10 gives close pending and the station to a SCANNED document only,
and the line and the remote station name to a RECEIVED one only: each stands behind its presence byte (R212; DEDUCED, log 13). -/
def documentBytes (d : Fin 64) (x : Document) (s : State) : List Byte :=
  let r := replacementOf d s
  uint 1 (match x.kind with | .scanned _ => 0 | .received _ => 1) ++ flag (!x.isOpen) ++
    fieldIf x.channel.isSome (flag x.closePending) ++ flag x.released ++ uint 1 x.jobCount ++
    present (fun c => uint 1 (stationOf c)) x.channel ++ present (fun l => uint 1 l.val) x.line ++
    fieldIf x.line.isSome (text x.remoteName) ++ uint 1 x.slots.length ++ present (fun q => uint 1 q.1) r ++ present (fun q => uint 1 q.val) (r.bind (fun q => q.2))

/-- READ-DOCUMENT (R24). -/
def readDocument (p : Nat × Nat) (s : State) : State × Answer :=
  match index? 64 p.1 with
  | none => refuse .outOfRange s
  | some d =>
    if 127 < p.2 then refuse .outOfRange s
    else match s.doc d with
      | none => refuse .noSuch s
      | some x => done (documentBytes d x s ++ listOf (slotSummary s) ((x.slots.zipIdx.drop p.2).take 14)) s

/-- The number of page records in a state. -/
def countPages (s : State) (st : PageState) : Nat := (indices 256).countP (fun p => decide ((s.page p).state = st))

/-- READ-STORE (R25). -/
def readStore (_ : Unit) (s : State) : State × Answer :=
  done (uint 2 s.store.blocks ++ uint 2 s.store.freeCount ++ uint 2 s.cfg.reserve ++ uint 2 (countPages s .free) ++
    uint 2 (countPages s .filling) ++ uint 2 (countPages s .sealed) ++ uint 2 (countPages s .void) ++
    uint 2 ((indices 256).countP (fun p => s.store.isHeld p)) ++
    uint 1 ((indices 64).countP (fun d => (s.doc d).isNone))) s

end Sys2Proof.Machine
end

