-- ==== Sys2Proof/Machine/JobCommands.lean ====
section
/-! DEFINITION. The owners of the orders on jobs and groups (R66 to R68, R79 to R81, R87, R88), and a destination's
eligible time (R71). -/

namespace Sys2Proof.Machine

/-! ### LOAD-GROUP (R87) -/

def loadGroup (p : Nat × List (List Nat)) (s : State) : State × Answer :=
  match index? 8 p.1 with
  | none => refuse .outOfRange s
  | some g =>
    if 16 < p.2.length then refuse .outOfRange s
    else match p.2.mapM dialledNumber with
      | none => refuse .malformed s
      | some ns => done [] { s with jobs := { s.jobs with groups := store s.jobs.groups g ns } }

/-! ### SUBMIT-SEND (R66 to R68) -/

/-- Only the first of equal numbers is kept (R67). -/
def keepFirst (ns : List Number) : List Number := ns.foldl (fun acc n => if n ∈ acc then acc else acc ++ [n]) []

/-- The destination list (R67): explicit numbers, then the group's, the own number dropped, firsts kept. -/
def destinationList (own : Number) (explicit group : List Number) : List Number :=
  keepFirst ((explicit ++ group).filter (fun n => decide (n ≠ own)))

/-- A destination as SUBMIT-SEND creates it (R68). The ready time of one made FAILED is a free value (log 7). -/
def newDest (s : State) (e : Number × Nat) : Dest :=
  match matchNumber e.1 s with
  | .noRoute => ⟨e.1, .failed, 0, none, Config.neverReadyTime (s.freeCount + e.2), none, 0, some .noRoute, false⟩
  | .barred => ⟨e.1, .failed, 0, none, Config.neverReadyTime (s.freeCount + e.2), none, 0, some .barred, false⟩
  | .entry _ => ⟨e.1, .ready, 0, none, s.clock.elapsed, none, 0, none, false⟩

/-- The reply to SUBMIT-SEND: the job slot, and each destination's number and state (R68); then the attempts and the delay as
stored, which R206 has it show (log 13). -/
def sendReply (j : Fin 32) (b : SendJob) : List Byte :=
  uint 1 j.val ++ listOf (fun x => symbols x.number ++ uint 1 x.state.code) b.dests ++ uint 1 b.attempts ++ uint 2 b.delay

/-- A DEST-RESULT for a destination made FAILED at submission (R68). -/
def reportFailed (j : Fin 32) (s : State) (e : Dest × Nat) : State := if e.1.state = .failed then reportDest j e.2 none s else s

/-- A READY destination takes its claims (R14). -/
def claimReady (j : Fin 32) (d : Fin 64) (st : Store) (e : Dest × Nat) : Store :=
  if e.1.state = .ready then st.claimDocument (.dest j e.2) d else st

/-- A job slot used again names no candidate of the pass in hand: its destinations became READY after that pass started (R99). -/
def dropCandidates (j : Fin 32) (s : State) : State :=
  { s with routes := { s.routes with candidates := s.routes.candidates.filter (fun c => decide (c.1 ≠ j)) } }

/-- A send job is created (R65, R68). -/
def createSend (j : Fin 32) (d : Fin 64) (b : SendJob) (s : State) : State :=
  let es := b.dests.zipIdx
  let s := addJob d (createJob j ⟨d, .send b, none⟩ (dropCandidates j s))
  let s := { s with store := es.foldl (claimReady j d) s.store, freeCount := s.freeCount + b.dests.length }
  let s := finishIfFinal j (es.foldl (reportFailed j) s)
  if b.dests.any (fun x => decide (x.state = .ready)) then trigger s else s

/-- The job that SUBMIT-SEND asks for: attempts and delay are clamped (R66). -/
def sendJobOf (p : SendParams) (account : Fin 64) (ds : List Dest) : SendJob :=
  ⟨account, p.priority, clamp 1 8 p.attempts, clamp 10 3600 p.delay, if p.policy = 0 then .resume else .whole, ds⟩

/-- The numbers of the group a SUBMIT-SEND names; none where its index is out of range. -/
def groupOf (g : Option Nat) (s : State) : Option (List Number) :=
  match g with
  | none => some []
  | some n => (index? 8 n).map (fun i => fetch s.jobs.groups i)

/-- The checks of R66 from the fifth on, and the creation. -/
def submitChecked (p : SendParams) (d : Fin 64) (account : Fin 64) (ns : List Number) (s : State) : State × Answer :=
  match freeJobSlot s with
  | none => refuse .noRoom s
  | some j =>
    if 16 < ns.length then refuse .outOfRange s
    else if ns = [] then refuse .malformed s
    else
      let b := sendJobOf p account (ns.zipIdx.map (newDest s))
      done (sendReply j b) (printerLook (createSend j d b s))

def submitSend (p : SendParams) (s : State) : State × Answer :=
  match p.numbers.mapM dialledNumber with
  | none => refuse .malformed s
  | some explicit =>
    match index? 64 p.doc, index? 64 p.account, groupOf p.group s with
    | some d, some account, some group =>
      if 3 < p.priority ∨ 16 < p.numbers.length then refuse .outOfRange s
      else match s.doc d with
        | none => refuse .noSuch s
        | some x =>
          if x.released = true ∨ (x.isOpen = false ∧ x.slots = []) then refuse .wrongState s
          else submitChecked p d account (destinationList s.cfg.ownNumber explicit group) s
    | _, _, _ => refuse .outOfRange s

/-! ### SUBMIT-PRINT (R81) -/

/-- The reply to SUBMIT-PRINT: the job slot (R81), then the copies as stored, which R206 has it show (log 13). -/
def printReply (j : Fin 32) (b : PrintJob) : List Byte := uint 1 j.val ++ uint 1 b.copies

def submitPrint (p : Nat × Nat × Nat) (s : State) : State × Answer :=
  match index? 64 p.1 with
  | none => refuse .outOfRange s
  | some d =>
    if 3 < p.2.2 then refuse .outOfRange s
    else match s.doc d with
      | none => refuse .noSuch s
      | some x =>
        if x.released = true ∨ (x.isOpen = false ∧ x.slots = []) then refuse .wrongState s
        else match freeJobSlot s with
          | none => refuse .noRoom s
          | some j =>
            let b := PrintJob.fresh (clamp 1 8 p.2.1) p.2.2 false
            done (printReply j b) (printerLook (createPrint j d b s))

/-! ### CANCEL-JOB (R79, R80) -/

/-- The engine has said its CLOSE already and the release waits for it to be handed over: CLOSE CANCELLED follows, and the
release, with its charge record, takes the reason CANCELLED and keeps the pages delivered (R79; log 27). -/
def closeAgain (l : LineNo) (r : ReleaseRequest) (s : State) : State :=
  let s := say l (.close (byteOf Reason.cancelled.code)) s
  let s := s.setProc l { Proc.idle with endReason := some .cancelled }
  s.setSlot l { s.slot l with closing := some { r with reason := .cancelled } }

/-- The call of a destination just cancelled: closed by the engine after ABILITY, released at once before. -/
def cancelCall (l : LineNo) (s : State) : State :=
  if (s.line l).answered then
    match (s.slot l).closing with
    | some r => closeAgain l r s
    | none => closeCall l .cancelled s
  else releaseUnasked l .cancelled s

/-- One unfinished destination is cancelled (R79). -/
def cancelOne (j : Fin 32) (s : State) (k : Nat) : State :=
  match s.dest j k with
  | none => s
  | some x =>
    if x.state.isFinal then s
    else
      let s := cancelDest j k .cancelled .cancelled s
      match x.state, x.line with
      | .onLine, some l => cancelCall l s
      | _, _ => s

def cancelJob (n : Nat) (s : State) : State × Answer :=
  match index? 32 n with
  | none => refuse .outOfRange s
  | some j =>
    match s.job j with
    | none => refuse .noSuch s
    | some ⟨_, .receive _, _⟩ => refuse .wrongState s
    | some ⟨_, _, some _⟩ => done [] s
    | some ⟨_, .print b, none⟩ => if b.cancelled then done [] s else done [] (printerLook (cancelPrint j s))
    | some ⟨_, .send b, none⟩ => done [] (printerLook (finishIfFinal j ((List.range b.dests.length).foldl (cancelOne j) s)))

/-! ### READ-JOB (R88, R159) -/

/-- A destination record (R69), its eligible time only while QUEUED and its line only while ON-LINE. -/
def Dest.bytes (x : Dest) : List Byte :=
  symbols x.number ++ uint 1 x.state.code ++ uint 1 x.attempts ++
    present (fun t => uint 4 t.toNat) (if x.state = .queued then x.eligible else none) ++ uint 4 x.ready.toNat ++
    present (fun l => uint 1 l.val) (if x.state = .onLine then x.line else none) ++ uint 1 x.next ++
    present (fun r => uint 1 r.code) x.reason ++ flag x.oldVersion

def JobBody.kindCode : JobBody → Nat
  | .send _ => 0
  | .print _ => 1
  | .receive _ => 2

def JobBody.asSend : JobBody → Option SendJob
  | .send b => some b
  | _ => none

def JobBody.asPrint : JobBody → Option PrintJob
  | .print b => some b
  | _ => none

def JobBody.asReceive : JobBody → Option ReceiveJob
  | .receive b => some b
  | _ => none

/-- The priority of the kinds that have one (R64). -/
def JobBody.priority? : JobBody → Option Nat
  | .send b => some b.priority
  | .print b => some b.priority
  | .receive _ => none

/-- The fields of a job's kind in the order of R64, each behind a presence byte since only some kinds carry it (R212, log 13). -/
def JobBody.fields (x : JobBody) : List Byte :=
  present (fun b => uint 1 b.account.val) x.asSend ++ present (uint 1) x.priority? ++
    present (fun b => uint 1 b.attempts) x.asSend ++ present (fun b => uint 2 b.delay) x.asSend ++
    present (fun b => uint 1 (match b.policy with | .resume => 0 | .whole => 1)) x.asSend ++
    present (fun b => uint 1 b.copies) x.asPrint ++ present (fun b => flag b.autoRelease) x.asPrint ++
    present (fun b => flag b.cancelled) x.asPrint ++ present (fun b => uint 1 b.line.val) x.asReceive ++
    present (fun b => flag b.owed) x.asReceive ++ present (fun r => uint 1 r.code) (x.asReceive.bind ReceiveJob.result)

/-- What follows the place in the submission list: up to 8 destination records of a SEND job, and the print cursor of a PRINT job
(R88, R159), each field behind its presence byte (log 13). -/
def jobTail (j : Fin 32) (first : Nat) (x : JobBody) (s : State) : List Byte :=
  let now := decide (s.printer.phase = .printing ∧ s.printer.job = some j)
  present (fun b => listOf Dest.bytes ((b.dests.drop first).take 8)) x.asSend ++
    present (fun b => uint 1 b.copy) x.asPrint ++ present (fun b => uint 1 b.slot) x.asPrint ++
    present (fun b => uint 1 b.completed) x.asPrint ++ present (fun b => flag b.lost) x.asPrint ++
    present (fun _ => flag now) x.asPrint ++ fieldIf (x.asPrint.isSome && now) (flag s.printer.paused)

def readJob (p : Nat × Nat) (s : State) : State × Answer :=
  match index? 32 p.1 with
  | none => refuse .outOfRange s
  | some j =>
    if 15 < p.2 then refuse .outOfRange s
    else match s.job j with
      | none => refuse .noSuch s
      | some x =>
        done (uint 1 x.body.kindCode ++ flag x.waiting.isSome ++ uint 1 x.doc.val ++ x.body.fields ++
          uint 1 (s.jobs.order.idxOf j) ++ jobTail j p.2 x.body s) s

/-! ### An eligible time reached (R71, log 8) -/

def destinationEligible (j : Fin 32) (d : Nat) (s : State) : State :=
  match s.job j, s.dest j d with
  | some ⟨_, _, none⟩, some x => if x.state = .queued then trigger (readyDest j d s) else s
  | _, _ => s

/-! ### The commands -/

/-- DESTINATION_ELIGIBLE (R71). -/
def execDestinationEligible (job : Fin 32) (dest : Fin 16) (s : State) : Host.Outcome State Fault Refusal :=
  .next (destinationEligible job dest.val s)

end Sys2Proof.Machine
end

