-- ==== Sys2Proof/Machine/LineCommands.lean ====
section
/-! DEFINITION. The owners of the Line Controller's orders, and its events (chapter 6). -/

namespace Sys2Proof.Machine

/-! ### LOAD-DIAL-PROFILE (R110) -/

/-- A profile with its tuning values clamped (R109, R110). -/
def Profile.clamped (p : Profile) : Profile :=
  { p with toneOn := clamp 1 255 p.toneOn, toneOff := clamp 1 255 p.toneOff, breakTime := clamp 1 255 p.breakTime,
           makeTime := clamp 1 255 p.makeTime, bridge := clamp 10 1000 p.bridge, blanking := clamp 0 500 p.blanking }

/-- A profile in the order of R109. -/
def Profile.bytes (p : Profile) : List Byte :=
  uint 1 (match p.method with | .tone => 0 | .pulse => 1) ++ uint 1 p.unit ++ uint 1 p.toneOn ++ uint 1 p.toneOff ++
    uint 1 p.breakTime ++ uint 1 p.makeTime ++ uint 2 p.interdigit ++ uint 2 p.seizePause ++ uint 2 p.accessPause ++
    uint 2 p.commaPause ++ uint 2 p.bridge ++ uint 2 p.blanking

def loadDialProfile (p : Nat × Profile) (s : State) : State × Answer :=
  match index? 8 p.1 with
  | none => refuse .outOfRange s
  | some i =>
    if p.2.unit = 1 ∨ p.2.unit = 2 ∨ p.2.unit = 5 ∨ p.2.unit = 10 then
      done p.2.clamped.bytes { s with profiles := store s.profiles i p.2.clamped }
    else refuse .outOfRange s

/-! ### SET-LINE, RETIRE-LINE, RETURN-LINE, READ-LINE (R121 to R124) -/

def LineSettings.bytes (x : LineSettings) : List Byte :=
  uint 1 x.answerAfter ++ uint 1 x.copies ++ flag x.autoRelease ++ uint 1 x.priority

def setLineSettings (p : Nat × LineSettings) (s : State) : State × Answer :=
  match index? 8 p.1 with
  | none => refuse .outOfRange s
  | some l =>
    if 3 < p.2.priority then refuse .outOfRange s
    else
      let x := { p.2 with answerAfter := clamp 0 15 p.2.answerAfter, copies := clamp 0 3 p.2.copies }
      done x.bytes (s.setLine l { s.line l with settings := x })

def LineState.code : LineState → Nat
  | .idle => 0
  | .seized => 1
  | .dialing => 2
  | .connected => 3
  | .ringing => 4
  | .answering => 5
  | .releasing => 6
  | .retired => 7

/-- The state and RETIRING that RETIRE-LINE and RETURN-LINE reply. -/
def Line.retireBytes (x : Line) : List Byte := uint 1 x.state.code ++ flag x.retiring

/-- A line after RETIRE-LINE (R121). -/
def Line.retire (x : Line) : Line :=
  match x.state with
  | .idle => { x with state := .retired }
  | .retired => x
  | _ => { x with retiring := true }

def retireLine (n : Nat) (s : State) : State × Answer :=
  match index? 8 n with
  | none => refuse .outOfRange s
  | some l => done (s.line l).retire.retireBytes (s.setLine l (s.line l).retire)

/-- A line after RETURN-LINE (R122). -/
def Line.return (x : Line) : Line :=
  match x.state with
  | .retired => { x with state := .idle }
  | _ => { x with retiring := false }

/-- Whether RETURN-LINE finds something to undo, which is a trigger (R98, R122). -/
def Line.returns (x : Line) : Bool := decide (x.state = .retired) || x.retiring

def returnLine (n : Nat) (s : State) : State × Answer :=
  match index? 8 n with
  | none => refuse .outOfRange s
  | some l =>
    let x := s.line l
    let s' := s.setLine l x.return
    done x.return.retireBytes (if x.returns then trigger s' else s')

/-- What READ-LINE carries of an outgoing call. -/
def Line.outgoingBytes (x : Line) : List Byte :=
  let a := x.admission
  present (fun a => uint 1 a.job.val) a ++ present (fun a => uint 1 a.dest) a ++ present (fun a => symbols a.number) a ++
    present (fun a => uint 1 a.entry.val) a ++ present (fun a => uint 1 a.zone.val) a ++
    present (fun a => uint 1 a.profile.val) a ++ fieldIf a.isSome (flag x.answered)

def DialPart.code : DialPart → Nat
  | .access => 0
  | .number => 1

/-- What READ-LINE carries in DIALING, in RINGING and in RELEASING. -/
def Line.stateBytes (x : Line) : List Byte :=
  let dialing := decide (x.state = .dialing)
  let ringing := decide (x.state = .ringing)
  fieldIf dialing (uint 1 x.part.code) ++ fieldIf dialing (uint 1 x.position) ++ fieldIf ringing (uint 1 x.rings) ++
    fieldIf ringing (flag x.refused) ++ fieldIf (decide (x.state = .releasing)) (uint 1 ((x.guard + 7999) / 8000))

/-- The reply to READ-LINE (R124). -/
def Line.bytes (x : Line) : List Byte :=
  x.retireBytes ++ present (fun d => uint 1 (match d with | .outgoing => 0 | .incoming => 1)) x.direction ++ x.settings.bytes ++
    present (fun r => uint 1 r.code) x.lastReason ++ x.outgoingBytes ++ present (fun r => uint 1 r.1.val) x.receive ++
    present (fun r => uint 1 r.2.val) x.receive ++ x.stateBytes

def readLine (n : Nat) (s : State) : State × Answer :=
  match index? 8 n with
  | none => refuse .outOfRange s
  | some l => done (s.line l).bytes s

/-! ### Dialling, loop and busy (R111, R113 to R115) -/

/-- A dial phase has ended (R111). -/
def phaseEnd (l : LineNo) (s : State) : State :=
  let x := s.line l
  match x.admission with
  | none => s
  | some a =>
    if (x.state = .seized ∨ x.state = .dialing) ∧ x.cadence.phase ≠ .none then dialOn l a (afterPhase a (s.profile a.profile) x) s
    else s

/-- The states in which a line can be found lost: ANSWERING is blanked throughout (R107, R113). -/
def Line.canBeLost (x : Line) : Bool := decide (x.state = .seized ∨ x.state = .dialing ∨ x.state = .connected)

/-- A line is lost (R114). -/
def lineLost (l : LineNo) (s : State) : State := if (s.line l).canBeLost then releaseUnasked l .lineLost s else s

/-- Whether the busy indication is taken (R107, R115). -/
def Line.takesBusy (x : Line) : Bool :=
  decide (x.state = .seized ∨ x.state = .dialing) ||
    (decide (x.state = .connected ∧ x.direction = some .outgoing) && !x.answered)

/-- A frame with busy set (R115). -/
def busyHeard (l : LineNo) (s : State) : State := if (s.line l).takesBusy then releaseUnasked l .busy s else s

/-- The states whose loop current is watched (R113). -/
def Line.watchesLoop (x : Line) : Bool :=
  decide (x.state = .seized ∨ x.state = .dialing ∨ x.state = .answering ∨ x.state = .connected)

/-- The loop current indication changes (R113): its return sets a watched line's absence count to 0. -/
def loopCurrent (l : LineNo) (present : Bool) (s : State) : State :=
  let s := s.setSlot l { s.slot l with loopPresent := present }
  let x := s.line l
  if present ∧ x.watchesLoop then s.setLine l { x with absence := 0 } else s

/-! ### Guard time, rings and answer (R116 to R120) -/

/-- The guard time has ended (R120). -/
def guardEnd (l : LineNo) (s : State) : State := if (s.line l).state = .releasing then endUseOfLine l s else s

/-- A line in a frame with ring present (R116). -/
def Line.ringFrame (x : Line) : Line :=
  match x.state with
  | .idle => { x with state := .ringing, rings := 0, refused := false, onCount := 1, gapCount := 0 }
  | .ringing => { x with onCount := x.onCount + 1, gapCount := 0 }
  | _ => x

/-- A frame with ring present (R116). -/
def ringFrame (l : LineNo) (s : State) : State :=
  (s.setSlot l { s.slot l with ringPresent := true }).setLine l (s.line l).ringFrame

/-- A ring-present interval has ended (R116): one long enough is a ring, at which the answer check is considered. -/
def ringEnd (l : LineNo) (frames : Nat) (s : State) : State :=
  let s := s.setSlot l { s.slot l with ringPresent := false }
  let x := s.line l
  if x.state = .ringing ∧ 0 < x.onCount then
    let x' := { x with onCount := 0, gapCount := 1 }
    if s.cfg.ringOnMinimum * 8 ≤ x.onCount + frames then
      considerAnswer l (s.setLine l { x' with rings := min 255 (x.rings + 1) })
    else s.setLine l x'
  else s

/-- The ringing episode ends (R116). -/
def episodeEnd (l : LineNo) (s : State) : State := if (s.line l).state = .ringing then endUseOfLine l s else s

/-- The answer blanking window closes (R118). -/
def blankingEnd (l : LineNo) (s : State) : State :=
  let x := s.line l
  if x.state = .answering then beginCalled l (s.setLine l { x with state := .connected, blanking := 0 }) else s

/-! ### The commands -/

/-- CADENCE_PHASE_END (R111). -/
def execCadencePhaseEnd (line : LineNo) (s : State) : Host.Outcome State Fault Refusal := .next (phaseEnd line s)

/-- LINE_LOST (R114). -/
def execLineLost (line : LineNo) (s : State) : Host.Outcome State Fault Refusal := .next (lineLost line s)

/-- BUSY (R115). -/
def execBusy (line : LineNo) (s : State) : Host.Outcome State Fault Refusal := .next (busyHeard line s)

/-- GUARD_TIME_END (R120). -/
def execGuardTimeEnd (line : LineNo) (s : State) : Host.Outcome State Fault Refusal := .next (guardEnd line s)

/-- RING_PRESENT (R116). -/
def execRingPresent (line : LineNo) (s : State) : Host.Outcome State Fault Refusal := .next (ringFrame line s)

/-- RING_INTERVAL_START (R116): a frame with ring present after a gap. -/
def execRingIntervalStart (line : LineNo) (s : State) : Host.Outcome State Fault Refusal := .next (ringFrame line s)

/-- RING_END (R116). -/
def execRingEnd (line : LineNo) (frames : Nat) (s : State) : Host.Outcome State Fault Refusal := .next (ringEnd line frames s)

/-- RINGING_EPISODE_END (R116). -/
def execRingingEpisodeEnd (line : LineNo) (s : State) : Host.Outcome State Fault Refusal := .next (episodeEnd line s)

/-- ANSWER_BLANKING_END (R118). -/
def execAnswerBlankingEnd (line : LineNo) (s : State) : Host.Outcome State Fault Refusal := .next (blankingEnd line s)

/-- LOOP_CURRENT_CHANGE (R113). -/
def execLoopCurrentChange (line : LineNo) (present : Bool) (s : State) : Host.Outcome State Fault Refusal :=
  .next (loopCurrent line present s)

end Sys2Proof.Machine
end

