-- ==== Sys2Proof/Machine/LinkOps.lean ====
section
/-! DEFINITION. The owners of CONFIGURE (R207) and RESTART (R210). -/

namespace Sys2Proof.Machine

/-! ### CONFIGURE (R207) -/

/-- Whether an identifier is named twice. -/
def namedTwice : List (Nat × ConfigValue) → Bool
  | [] => false
  | e :: rest => rest.any (fun f => decide (f.1 = e.1)) || namedTwice rest

/-- A value outside the twelve symbols of R66. -/
def ConfigValue.badSymbol : ConfigValue → Bool
  | .symbols ns => (numberOf ns).isNone
  | _ => false

/-- A structural value outside its range (R207). -/
def outOfRangeItem (e : Nat × ConfigValue) : Bool :=
  match e.2 with
  | .symbols ns => decide (24 < ns.length)
  | .name t => decide (20 < t.length)
  | .count n => decide (e.1 = 7) && !isWidth n
  | _ => false

/-- One named value stored, clamped where its kind says so (R207). -/
def Configuration.with (c : Configuration) (e : Nat × ConfigValue) : Configuration :=
  match e with
  | (1, .count n) => { c with reserve := clamp 0 4095 n }
  | (2, .count n) => { c with anchorInterval := clamp 1 32 n }
  | (3, .symbols ns) => { c with ownNumber := (numberOf ns).getD [] }
  | (4, .count n) => { c with guardTime := clamp 1 15 n }
  | (5, .count n) => { c with ringOnMinimum := clamp 100 1000 n }
  | (6, .count n) => { c with ringGapMaximum := clamp 1 10 n }
  | (7, .count n) => { c with maxWidth := n }
  | (8, .yesNo b) => { c with fine := b }
  | (9, .yesNo b) => { c with delta := b }
  | (10, .count n) => { c with maxRate := clamp 1 6 n }
  | (11, .name t) => { c with stationName := t }
  | (12, .count n) => { c with resendLimit := clamp 0 3 n }
  | (13, .count n) => { c with acceptLimit := clamp 0 255 n }
  | (14, .count n) => { c with periods := store c.periods 0 (clamp 1 65535 n) }
  | (15, .count n) => { c with periods := store c.periods 1 (clamp 1 65535 n) }
  | (16, .count n) => { c with periods := store c.periods 2 (clamp 1 65535 n) }
  | (17, .count n) => { c with periods := store c.periods 3 (clamp 1 65535 n) }
  | (18, .count n) => { c with periods := store c.periods 4 (clamp 1 65535 n) }
  | (19, .count n) => { c with periods := store c.periods 5 (clamp 1 65535 n) }
  | (20, .signed n) => { c with correction := clampInt (-255) 255 n }
  | _ => c

/-- The twenty values as the reply carries them. -/
def Configuration.bytes (c : Configuration) : List Byte :=
  uint 2 c.reserve ++ uint 1 c.anchorInterval ++ symbols c.ownNumber ++ uint 1 c.guardTime ++ uint 2 c.ringOnMinimum ++
    uint 1 c.ringGapMaximum ++ uint 2 c.maxWidth ++ flag c.fine ++ flag c.delta ++ uint 1 c.maxRate ++ text c.stationName ++
    uint 1 c.resendLimit ++ uint 1 c.acceptLimit ++ c.periods.toList.flatMap (uint 2) ++ int16 c.correction

/-- The tick counters after a CONFIGURE: a changed period sets its class's counter to 0 (R150). -/
def restartedTicks (old new : Table Nat 6) (ticks : Table Nat 6) : Table Nat 6 :=
  (indices 6).foldl (fun t i => if fetch old i = fetch new i then t else store t i 0) ticks

/-- The accumulator after a CONFIGURE (R174). -/
def restartedAccumulator (old new : Int) (accumulator : Nat) : Nat :=
  if new ≠ old ∧ (new = 0 ∨ new.sign ≠ old.sign) then 0 else accumulator

/-- The new values stored in one step, with what their owners do at once (R207). -/
def putConfig (c : Configuration) (s : State) : State :=
  let old := s.cfg
  let s := { s with cfg := c, ticks := restartedTicks old.periods c.periods s.ticks,
                    clock := { s.clock with accumulator := restartedAccumulator old.correction c.correction s.clock.accumulator } }
  if s.store.freeCount ≤ old.reserve ∧ c.reserve < s.store.freeCount then endStalls s else s

def configure (es : List (Nat × ConfigValue)) (s : State) : State × Answer :=
  if namedTwice es = true ∨ es.any (fun e => e.2.badSymbol) = true then refuse .malformed s
  else if es.any outOfRangeItem then refuse .outOfRange s
  else
    let c := es.foldl Configuration.with s.cfg
    done c.bytes (putConfig c s)

/-! ### RESTART (R210) -/

/-- The line's part of RESTART (R124a): a call's pages delivered and remote name still reach its charge record. What the
engine's end would do to jobs, documents and claims is discarded by the same order. -/
def restartLine (s : State) (l : LineNo) : State :=
  let r := match (s.slot l).closing with
    | some r => r
    | none => callerRequest l .restart s
  let s := releaseAtRestart l r.delivered r.name (s.setProc l .idle)
  let x := s.line l
  if x.state = .ringing then s.setLine l x.ended else s

/-- The lines that are RETIRED. -/
def retiredLines (s : State) : List LineNo := allLines.filter (fun l => decide ((s.line l).state = .retired))

/-- The store at RESTART (R26). -/
def Store.restarted (st : Store) : Store := { Store.initial st.blocks with mem := st.mem }

/-- The blocks' parts of RESTART (R210), up to the report queue. The lines are released from 0 to 7, which orders the charge records
that their releases fill: R202 gives no order, and this one is a DESIGN CHOICE (log 48). The Print Channel stops its page while
its job still stands (R172). -/
def restartBlocks (s : State) : State :=
  let s := restartPrinter (allLines.foldl restartLine s)
  let s := { s with jobs := { JobTable.initial with groups := s.jobs.groups },
                    routes := { s.routes with passing := false, rerun := false, candidates := [] }, store := s.store.restarted }
  { allChannels.foldl restartCredit s with scan := .initial }

/-- The report queue at RESTART (R202, R210). -/
def restartReports (s : State) : State :=
  let n := s.charges.filled.length
  let s := { s with link := { s.link with reports := [], gap := false } }
  let s := report (.restarted .order s.store.blocks s.store.freeCount (retiredLines s) n) s
  if n = 0 then s else report (.recordsWaiting n 0) s

def restartOrder (_ : Unit) (s : State) : State × Answer := done [] (restartReports (restartBlocks s))

end Sys2Proof.Machine
end

