-- ==== Sys2Proof/Machine/Parser.lean ====
section
/-! DEFINITION. The order parser (R205, R206): the owner each order code goes to, and the orders taken from the head of the order
queue. -/

namespace Sys2Proof.Machine

/-- The owner of an order code, behind the check of the order's form (R206). A code of 0 or above 29 has none and is refused. -/
def ownerOf (code : Byte) : Owner :=
  match code.toNat with
  | 1 => checked (readList readConfigItem) configure
  | 2 => checked readRoute loadRoute
  | 3 => checked (readUint 1) clearRoute
  | 4 => checked readProfile loadDialProfile
  | 5 => checked readGroup loadGroup
  | 6 => checked (readList readTariffEntry) stageTariff
  | 7 => checked readNothing applyTariff
  | 8 => checked readBands loadBands
  | 9 => checked readDays loadDayMap
  | 10 => checked readClock setTime
  | 11 => checked readNothing readTime
  | 12 => checked readAccountParams setAccount
  | 13 => checked readZeroing readAccount
  | 14 => checked (readUint 1) takeRecords
  | 15 => checked readSettings setLineSettings
  | 16 => checked (readUint 1) retireLine
  | 17 => checked (readUint 1) returnLine
  | 18 => checked (readUint 1) readLine
  | 19 => checked (readUint 1) openDocument
  | 20 => checked (readUint 1) closeDocument
  | 21 => checked readPair replacePage
  | 22 => checked (readUint 1) releaseDocument
  | 23 => checked readPair readDocument
  | 24 => checked readSend submitSend
  | 25 => checked readPrint submitPrint
  | 26 => checked (readUint 1) cancelJob
  | 27 => checked readPair readJob
  | 28 => checked readNothing readStore
  | 29 => checked readNothing restartOrder
  | _ => fun _ => refuse .malformed

/-- The head of the order queue is taken: an order is in hand while its owner acts and is answered, and a repeat that waits with
its copy places it (R205). -/
def takeEntry (e : OrderEntry) (s : State) : State :=
  match e with
  | .order o => answerOrder o (ownerOf o.code o.params { s with link := { s.link with inHand := some o } })
  | .again _ r => { s with link := { s.link with replies := s.link.replies ++ [r] } }

/-- The parser takes the head of the order queue again and again, while no order is in hand and the reply queue has room (R205). -/
def runParser : Nat → State → State
  | 0, s => s
  | fuel + 1, s =>
    match s.link.inHand, s.link.orders with
    | none, e :: rest =>
      if s.link.replies.length < 4 then runParser fuel (takeEntry e { s with link := { s.link with orders := rest } }) else s
    | _, _ => s

/-- The parser does all it can: each turn takes one entry of the order queue and no owner adds one (log 11). -/
def parse (s : State) : State := runParser s.link.orders.length s

/-- An order arrives, and the parser takes what it can (R205, log 11). -/
def takeOrder (code : Byte) (tag : Tag) (params : List Byte) (s : State) : State := parse (orderIntake ⟨tag, code, params⟩ s)

end Sys2Proof.Machine
end

