-- ==== Sys2Proof/Machine/FrameOps.lean ====
section
/-! DEFINITION. Frames from the desk link dealt with by station role and payload layout (R203, R213), and the inbound checker
over arriving bytes (R204). -/

namespace Sys2Proof.Machine

/-- The contents of a SHEET frame (R213). -/
inductive Sheet where
  | start (f : StartFrame) | stop (sheet count : Nat) | abort (sheet : Nat)
  deriving DecidableEq, Repr

def readSheetStart : Reader Sheet := do
  let n ← readUint 1
  let w ← readUint 2
  let r ← readUint 1
  pure (.start ⟨n, w, r⟩)

def readSheetEnd : Reader Sheet := do
  let n ← readUint 1
  let c ← readUint 2
  pure (.stop n c)

def readSheetAbort : Reader Sheet := do
  let n ← readUint 1
  pure (.abort n)

/-- A SHEET payload: its kind byte, then the fields of its kind. -/
def readSheet : Reader Sheet := do
  let k ← readUint 1
  match k with
  | 0 => readSheetStart
  | 1 => readSheetEnd
  | 2 => readSheetAbort
  | _ => fun _ => none

/-- A RASTER payload: sheet number, line number, pixel string of any length (R213). -/
def readRaster (payload : List Byte) : Option (Nat × Nat × List Byte) :=
  match payload with
  | a :: b :: c :: bits => some (a.toNat, 256 * b.toNat + c.toNat, bits)
  | _ => none

/-- A SHEET frame reaches its channel. -/
def sheetFrame (c : ChannelNo) (payload : List Byte) (s : State) : State :=
  match readAll readSheet payload with
  | some (.start f) => arriveStart c f s
  | some (.stop n k) => arriveEnd c n k s
  | some (.abort n) => arriveAbort c n s
  | none => s

/-- A RASTER frame reaches its channel. -/
def rasterFrame (c : ChannelNo) (payload : List Byte) (s : State) : State :=
  match readRaster payload with
  | some (n, line, bits) => arriveRaster c n line bits s
  | none => s

/-- A CREDIT frame from the printer. -/
def creditFrame (payload : List Byte) (s : State) : State :=
  match payload with
  | [n] => takePrinterCredit n.toNat s
  | _ => s

/-- A PRINTER-STATUS frame. -/
def statusFrame (payload : List Byte) (s : State) : State :=
  match payload with
  | [v] => if v = 0 then takePaperReady s else if v = 1 then takePaperOut s else s
  | _ => s

/-- An ORDER frame (R205): one without a tag and a code is discarded. -/
def orderFrame (payload : List Byte) (s : State) : State :=
  match orderOf payload with
  | some o => takeOrder o.code o.tag o.params s
  | none => s

/-- The frames the part takes, by the role of their source (R203). -/
inductive Taken where
  | order | raster (c : ChannelNo) | sheet (c : ChannelNo) | credit | status | nothing
  deriving DecidableEq, Repr

/-- What a frame that passed its check is taken as (R203). -/
def frameTaken (f : Frame) : Taken :=
  if f.dst ≠ 0 then .nothing
  else match channelOf f.src.toNat with
    | some c => if f.kind = 1 then .raster c else if f.kind = 2 then .sheet c else .nothing
    | none =>
      if f.src = 1 ∧ f.kind = 8 then .order
      else if f.src = 6 ∧ f.kind = 3 then .credit
      else if f.src = 6 ∧ f.kind = 7 then .status
      else .nothing

/-- A frame that passed its check is dealt with (R203). -/
def dealFrame (f : Frame) (s : State) : State :=
  match frameTaken f with
  | .order => orderFrame f.payload s
  | .raster c => rasterFrame c f.payload s
  | .sheet c => sheetFrame c f.payload s
  | .credit => creditFrame f.payload s
  | .status => statusFrame f.payload s
  | .nothing => s

/-- The checker holds nothing: a whole frame has passed (R204, log 31). -/
def checkerIdle (s : State) : State := { s with link := { s.link with bytes := [] } }

/-- A whole good frame arrives and is dealt with. -/
def goodFrame (src : Byte) (kind : FrameKind) (payload : List Byte) (s : State) : State :=
  dealFrame ⟨0, src, byteOf kind.code, payload⟩ (checkerIdle s)

/-- Bytes arrive on DLRXD (R204): good frames are dealt with in turn, and the checker keeps what is left. -/
def arriveBytes (bytes : List Byte) (s : State) : State :=
  let held := s.link.bytes ++ bytes
  let r := checkBytes held.length held
  let s := r.1.foldl (fun s f => dealFrame f s) s
  { s with link := { s.link with bytes := r.2 } }

end Sys2Proof.Machine
end

