-- ==== Sys2Proof/Machine/OrderCommands.lean ====
section
/-! DEFINITION. The commands that are orders of the host (R205, R206): each arrives with its code, and the parser takes it to its
owner (Parser.lean). -/

namespace Sys2Proof.Machine

/-- CONFIGURE (R207). -/
def execConfigure (tag : Tag) (params : List Byte) (s : State) : Host.Outcome State Fault Refusal :=
  .next (takeOrder 1 tag params s)

/-- LOAD_ROUTE (R91). -/
def execLoadRoute (tag : Tag) (params : List Byte) (s : State) : Host.Outcome State Fault Refusal :=
  .next (takeOrder 2 tag params s)

/-- CLEAR_ROUTE (R92). -/
def execClearRoute (tag : Tag) (params : List Byte) (s : State) : Host.Outcome State Fault Refusal :=
  .next (takeOrder 3 tag params s)

/-- LOAD_DIAL_PROFILE (R110). -/
def execLoadDialProfile (tag : Tag) (params : List Byte) (s : State) : Host.Outcome State Fault Refusal :=
  .next (takeOrder 4 tag params s)

/-- LOAD_GROUP (R87). -/
def execLoadGroup (tag : Tag) (params : List Byte) (s : State) : Host.Outcome State Fault Refusal :=
  .next (takeOrder 5 tag params s)

/-- STAGE_TARIFF (R181). -/
def execStageTariff (tag : Tag) (params : List Byte) (s : State) : Host.Outcome State Fault Refusal :=
  .next (takeOrder 6 tag params s)

/-- APPLY_TARIFF (R182). -/
def execApplyTariff (tag : Tag) (params : List Byte) (s : State) : Host.Outcome State Fault Refusal :=
  .next (takeOrder 7 tag params s)

/-- LOAD_BANDS (R179). -/
def execLoadBands (tag : Tag) (params : List Byte) (s : State) : Host.Outcome State Fault Refusal :=
  .next (takeOrder 8 tag params s)

/-- LOAD_DAY_MAP (R179). -/
def execLoadDayMap (tag : Tag) (params : List Byte) (s : State) : Host.Outcome State Fault Refusal :=
  .next (takeOrder 9 tag params s)

/-- SET_TIME (R176). -/
def execSetTime (tag : Tag) (params : List Byte) (s : State) : Host.Outcome State Fault Refusal :=
  .next (takeOrder 10 tag params s)

/-- READ_TIME (R177). -/
def execReadTime (tag : Tag) (params : List Byte) (s : State) : Host.Outcome State Fault Refusal :=
  .next (takeOrder 11 tag params s)

/-- SET_ACCOUNT (R195). -/
def execSetAccount (tag : Tag) (params : List Byte) (s : State) : Host.Outcome State Fault Refusal :=
  .next (takeOrder 12 tag params s)

/-- READ_ACCOUNT (R196). -/
def execReadAccount (tag : Tag) (params : List Byte) (s : State) : Host.Outcome State Fault Refusal :=
  .next (takeOrder 13 tag params s)

/-- TAKE_RECORDS (R200). -/
def execTakeRecords (tag : Tag) (params : List Byte) (s : State) : Host.Outcome State Fault Refusal :=
  .next (takeOrder 14 tag params s)

/-- SET_LINE (R123). -/
def execSetLine (tag : Tag) (params : List Byte) (s : State) : Host.Outcome State Fault Refusal :=
  .next (takeOrder 15 tag params s)

/-- RETIRE_LINE (R121). -/
def execRetireLine (tag : Tag) (params : List Byte) (s : State) : Host.Outcome State Fault Refusal :=
  .next (takeOrder 16 tag params s)

/-- RETURN_LINE (R122). -/
def execReturnLine (tag : Tag) (params : List Byte) (s : State) : Host.Outcome State Fault Refusal :=
  .next (takeOrder 17 tag params s)

/-- READ_LINE (R124). -/
def execReadLine (tag : Tag) (params : List Byte) (s : State) : Host.Outcome State Fault Refusal :=
  .next (takeOrder 18 tag params s)

/-- OPEN_DOCUMENT (R21). -/
def execOpenDocument (tag : Tag) (params : List Byte) (s : State) : Host.Outcome State Fault Refusal :=
  .next (takeOrder 19 tag params s)

/-- CLOSE_DOCUMENT (R22). -/
def execCloseDocument (tag : Tag) (params : List Byte) (s : State) : Host.Outcome State Fault Refusal :=
  .next (takeOrder 20 tag params s)

/-- REPLACE_PAGE (R18). -/
def execReplacePage (tag : Tag) (params : List Byte) (s : State) : Host.Outcome State Fault Refusal :=
  .next (takeOrder 21 tag params s)

/-- RELEASE_DOCUMENT (R23). -/
def execReleaseDocument (tag : Tag) (params : List Byte) (s : State) : Host.Outcome State Fault Refusal :=
  .next (takeOrder 22 tag params s)

/-- READ_DOCUMENT (R24). -/
def execReadDocument (tag : Tag) (params : List Byte) (s : State) : Host.Outcome State Fault Refusal :=
  .next (takeOrder 23 tag params s)

/-- SUBMIT_SEND (R66). -/
def execSubmitSend (tag : Tag) (params : List Byte) (s : State) : Host.Outcome State Fault Refusal :=
  .next (takeOrder 24 tag params s)

/-- SUBMIT_PRINT (R81). -/
def execSubmitPrint (tag : Tag) (params : List Byte) (s : State) : Host.Outcome State Fault Refusal :=
  .next (takeOrder 25 tag params s)

/-- CANCEL_JOB (R79). -/
def execCancelJob (tag : Tag) (params : List Byte) (s : State) : Host.Outcome State Fault Refusal :=
  .next (takeOrder 26 tag params s)

/-- READ_JOB (R88). -/
def execReadJob (tag : Tag) (params : List Byte) (s : State) : Host.Outcome State Fault Refusal :=
  .next (takeOrder 27 tag params s)

/-- READ_STORE (R25). -/
def execReadStore (tag : Tag) (params : List Byte) (s : State) : Host.Outcome State Fault Refusal :=
  .next (takeOrder 28 tag params s)

/-- RESTART (R210). -/
def execRestart (tag : Tag) (params : List Byte) (s : State) : Host.Outcome State Fault Refusal :=
  .next (takeOrder 29 tag params s)

/-- ORDER_FRAME (R205). -/
def execOrderFrame (src : Byte) (payload : List Byte) (s : State) : Host.Outcome State Fault Refusal :=
  .next (goodFrame src .order payload s)

/-- An order code of 0 or above 29 (R206). -/
def badCode (code : Byte) : Bool := decide (code = 0) || decide (29 < code.toNat)

/-- ORDER_BAD_CODE (R206). -/
def execOrderBadCode (tag : Tag) (code : Byte) (params : List Byte) (s : State) : Host.Outcome State Fault Refusal :=
  .next (if badCode code then takeOrder code tag params s else s)

end Sys2Proof.Machine
end

