-- ==== Sys2Proof/Machine/ScanCommands.lean ====
section
/-! DEFINITION. The commands of the scan path (chapter 3). -/

namespace Sys2Proof.Machine

/-- SHEET_START (R49, R50). -/
def execSheetStart (src : Byte) (fields : List Byte) (s : State) : Host.Outcome State Fault Refusal :=
  .next (goodFrame src .sheet (0 :: fields) s)

/-- SHEET_END (R55). -/
def execSheetEnd (src : Byte) (fields : List Byte) (s : State) : Host.Outcome State Fault Refusal :=
  .next (goodFrame src .sheet (1 :: fields) s)

/-- SHEET_ABORT (R56). -/
def execSheetAbort (src : Byte) (fields : List Byte) (s : State) : Host.Outcome State Fault Refusal :=
  .next (goodFrame src .sheet (2 :: fields) s)

/-- RASTER (R53). -/
def execRaster (src : Byte) (payload : List Byte) (s : State) : Host.Outcome State Fault Refusal :=
  .next (goodFrame src .raster payload s)

/-- The arbiter's turn (R57): the coder stays idle where no channel waits. -/
def coderTurn (s : State) : State :=
  match nextChannel s with
  | some c => printerLook (serveChannel c s)
  | none => s

/-- CODER_TURN (R54, R57). -/
def execCoderTurn (s : State) : Host.Outcome State Fault Refusal := .next (coderTurn s)

/-- The SCAN wait of a channel times out (R59). -/
def scanTimeout (c : ChannelNo) (s : State) : State :=
  if (s.channel c).sup.cls = some .scan ∧ (s.channel c).sup.suspended = false then scanSilent c s else s

/-- SCAN_TIMEOUT (R59). -/
def execScanTimeout (channel : ChannelNo) (s : State) : Host.Outcome State Fault Refusal := .next (scanTimeout channel s)

end Sys2Proof.Machine
end

