-- ==== Sys2Proof/Machine/CallCommands.lean ====
section
/-! DEFINITION. The commands of the call procedure (chapter 7) and of its timeouts (chapter 8). -/

namespace Sys2Proof.Machine

/-! ### Messages from the remote terminal (R127, R128, R215) -/

/-- ABILITY (R131). -/
def execAbility (line : LineNo) (fields : List Byte) (s : State) : Host.Outcome State Fault Refusal :=
  .next (takeMessage line (1 :: fields) s)

/-- CHOICE (R143). -/
def execChoice (line : LineNo) (fields : List Byte) (s : State) : Host.Outcome State Fault Refusal :=
  .next (takeMessage line (2 :: fields) s)

/-- TRIAL_GOOD (R134). -/
def execTrialGood (line : LineNo) (rest : List Byte) (s : State) : Host.Outcome State Fault Refusal :=
  .next (takeMessage line (3 :: rest) s)

/-- TRIAL_BAD (R134). -/
def execTrialBad (line : LineNo) (rest : List Byte) (s : State) : Host.Outcome State Fault Refusal :=
  .next (takeMessage line (4 :: rest) s)

/-- PAGE_END (R146). -/
def execPageEnd (line : LineNo) (fields : List Byte) (s : State) : Host.Outcome State Fault Refusal :=
  .next (takeMessage line (5 :: fields) s)

/-- VERDICT_GOOD (R137). -/
def execVerdictGood (line : LineNo) (rest : List Byte) (s : State) : Host.Outcome State Fault Refusal :=
  .next (takeMessage line (6 :: 0 :: rest) s)

/-- VERDICT_RESEND (R138). -/
def execVerdictResend (line : LineNo) (rest : List Byte) (s : State) : Host.Outcome State Fault Refusal :=
  .next (takeMessage line (6 :: 1 :: rest) s)

/-- WAIT (R128). -/
def execWait (line : LineNo) (rest : List Byte) (s : State) : Host.Outcome State Fault Refusal :=
  .next (takeMessage line (7 :: rest) s)

/-- CLOSE (R140, R149). -/
def execClose (line : LineNo) (fields : List Byte) (s : State) : Host.Outcome State Fault Refusal :=
  .next (takeMessage line (8 :: fields) s)

/-- MESSAGE_CHECK_ERROR (R127): a message with its check error indication is discarded; without it the bytes are dealt with
as a message, and discarded where their layout is bad. -/
def execMessageCheckError (line : LineNo) (checkError : Bool) (bytes : List Byte) (s : State) :
    Host.Outcome State Fault Refusal :=
  .next (if checkError then s else takeMessage line bytes s)

/-- TRIAL_QUALITY (R144). -/
def execTrialQuality (line : LineNo) (good : Bool) (s : State) : Host.Outcome State Fault Refusal :=
  .next (takeTrialQuality line good s)

/-! ### Page data (R135, R145) -/

/-- A byte of page data is handed over under SEND-DATA at the rate in force (R135, R214). -/
def handData (l : LineNo) (b : Byte) (s : State) : State :=
  s.setSlot l { s.slot l with handed := true, dataByte := some b, command := .sendData, rate := (s.proc l).settings.rate }

/-- The next byte of page data (R135): of the line in hand, or fill while the page is awaited. The last byte of a line brings the
next line, that of the page-end mark the PAGE-END. -/
def nextDataByte (l : LineNo) (s : State) : State :=
  let x := s.proc l
  match x.recoder.buffer with
  | [] => handData l 0 s
  | b :: rest =>
    let s := (handData l b s).setProc l { x with recoder := { x.recoder with buffer := rest } }
    if rest = [] then (if x.recoder.atEnd then pageEndChoice l s else refill l s) else s

/-- The module command with nothing of a message in hand: SEND-DATA again while a page is sent (R135), and RECEIVE otherwise
(log 15). -/
def restoreCommand (l : LineNo) (s : State) : State :=
  if (s.line l).state = .connected then
    if (s.proc l).phase = .sending then setCommand l .sendData (s.proc l).settings.rate s else setCommand l .receive 0 s
  else s

/-- The next item of the messages in hand is handed over (R127, R214). -/
def nextItem (l : LineNo) (s : State) : State :=
  let x := s.slot l
  match x.out with
  | .byte b :: rest =>
    s.setSlot l { x with out := rest, handed := true, dataByte := some b, command := .sendMessage, rate := 0 }
  | .endMessage :: rest => s.setSlot l { x with out := rest, handed := true, command := .endMessage, rate := 0 }
  | .trial r :: rest => s.setSlot l { x with out := rest, handed := true, command := .sendTrial, rate := r }
  | [] => restoreCommand l s

/-- The module has space for a byte of page data (R135): a message in hand goes first (log 33). One item goes in a frame (R214). -/
def sendDataByte (l : LineNo) (s : State) : State :=
  if (s.slot l).handed then s
  else if (s.slot l).out ≠ [] then nextItem l s
  else if (s.proc l).phase = .sending then nextDataByte l s
  else s

/-- PAGE_DATA_BYTE_SEND (R135). -/
def execPageDataByteSend (line : LineNo) (s : State) : Host.Outcome State Fault Refusal := .next (sendDataByte line s)

/-- PAGE_DATA_BYTE (R145). -/
def execPageDataByte (line : LineNo) (value : Byte) (s : State) : Host.Outcome State Fault Refusal :=
  .next (takeDataByte line value s)

/-- PAGE_DATA_END (R145). -/
def execPageDataEnd (line : LineNo) (s : State) : Host.Outcome State Fault Refusal := .next (takeDataEnd line s)

/-! ### What goes to the module (R127, R140, R214) -/

/-- The module has space for a byte of a message (R214). One item goes in a frame. -/
def sendMessageByte (l : LineNo) (s : State) : State := if (s.slot l).handed then s else nextItem l s

/-- MESSAGE_BYTE_SEND (R214). -/
def execMessageByteSend (line : LineNo) (s : State) : Host.Outcome State Fault Refusal := .next (sendMessageByte line s)

/-- The engine's CLOSE has been handed over (R140): the line is released as it asked. The command itself says so: given while bytes of
the CLOSE are still in hand it releases at once and they are dropped, a DESIGN CHOICE (log 52). -/
def closeHanded (l : LineNo) (s : State) : State :=
  match (s.slot l).closing with
  | some r => release l r s
  | none => s

/-- CLOSE_HANDED (R140). -/
def execCloseHanded (line : LineNo) (s : State) : Host.Outcome State Fault Refusal := .next (closeHanded line s)

/-! ### Timers (R152, R154 to R156) -/

/-- A line's wait under a class times out now (R152). -/
def lineTimeout (c : TimeoutClass) (l : LineNo) (s : State) : State :=
  if (s.proc l).sup.cls = some c then printerLook (timedOutLine l c s) else s

/-- ANSWER_TIMEOUT (R154). -/
def execAnswerTimeout (line : LineNo) (s : State) : Host.Outcome State Fault Refusal := .next (lineTimeout .answer line s)

/-- MESSAGE_TIMEOUT (R155). -/
def execMessageTimeout (line : LineNo) (s : State) : Host.Outcome State Fault Refusal := .next (lineTimeout .message line s)

/-- DATA_TIMEOUT (R156). -/
def execDataTimeout (line : LineNo) (s : State) : Host.Outcome State Fault Refusal := .next (lineTimeout .data line s)

/-- PAGE_TIMEOUT (R156). -/
def execPageTimeout (line : LineNo) (s : State) : Host.Outcome State Fault Refusal := .next (lineTimeout .page line s)

/-- A tick of a class at one line's context (R152). -/
def tickLine (c : TimeoutClass) (s : State) (l : LineNo) : State :=
  let x := s.proc l
  if x.sup.cls = some c then
    if x.sup.age < 2 then agedLine l c (s.setProc l { x with sup := { x.sup with age := x.sup.age + 1 } }) else timedOutLine l c s
  else s

/-- A tick of the SCAN class at one channel's context; a suspended one is passed by (R152, R157). -/
def tickChannel (s : State) (c : ChannelNo) : State :=
  let x := s.channel c
  if x.sup.cls = some .scan ∧ x.sup.suspended = false then
    if x.sup.age < 2 then agedChannel c (s.setChannel c { x with sup := { x.sup with age := x.sup.age + 1 } }) else scanSilent c s
  else s

/-- A tick of the PRINT class at the print channel's context (R152, R158). -/
def tickPrinter (s : State) : State :=
  let x := s.printer
  if x.sup.cls = some .print then
    if x.sup.age < 2 then setPrinter { x with sup := { x.sup with age := x.sup.age + 1 } } s else printSilent s
  else s

/-- The lines whose contexts hold a class when it ticks. -/
def heldLines (c : TimeoutClass) (s : State) : List LineNo := allLines.filter (fun l => decide ((s.proc l).sup.cls = some c))

/-- A class ticks (R150, R152): its counter returns to 0 and every unsuspended context that holds it is aged or times out. -/
def classTick (c : TimeoutClass) (s : State) : State :=
  let s := s.setTick (TimeoutClass.index c) 0
  match c with
  | .scan => allChannels.foldl tickChannel s
  | .print => tickPrinter s
  | c => printerLook ((heldLines c s).foldl (tickLine c) s)

/-- CLASS_TICK (R152). -/
def execClassTick (cls : TimeoutClass) (s : State) : Host.Outcome State Fault Refusal := .next (classTick cls s)

end Sys2Proof.Machine
end

