-- ==== Sys2Proof/Machine/PrintCommands.lean ====
section
/-! DEFINITION. The commands of the print path (chapter 9). -/

namespace Sys2Proof.Machine

/-- PRINTER_CREDIT (R161). -/
def execPrinterCredit (src : Byte) (payload : List Byte) (s : State) : Host.Outcome State Fault Refusal :=
  .next (goodFrame src .credit payload s)

/-- PAPER_OUT (R166). -/
def execPaperOut (src : Byte) (rest : List Byte) (s : State) : Host.Outcome State Fault Refusal :=
  .next (goodFrame src .printerStatus (1 :: rest) s)

/-- PAPER_READY (R167). -/
def execPaperReady (src : Byte) (rest : List Byte) (s : State) : Host.Outcome State Fault Refusal :=
  .next (goodFrame src .printerStatus (0 :: rest) s)

/-- PRINTER_FRAME_SENT (R164). -/
def execPrinterFrameSent (s : State) : Host.Outcome State Fault Refusal := .next (printerFrameGone s)

/-- The PRINT wait times out (R158). -/
def printTimeout (s : State) : State := if s.printer.sup.cls = some .print then printSilent s else s

/-- PRINT_TIMEOUT (R168). -/
def execPrintTimeout (s : State) : Host.Outcome State Fault Refusal := .next (printTimeout s)

end Sys2Proof.Machine
end

