-- ==== Sys2Proof/Machine/LinkCommands.lean ====
section
/-! DEFINITION. The desk link's own commands (chapter 12): hard reset, damaged and misdirected frames, and the
transmit arbiter. -/

namespace Sys2Proof.Machine

/-! ### The transmit arbiter (R208, R209) -/

/-- A frame leaves for the transmitter. -/
def transmit (dst : Nat) (kind : FrameKind) (payload : List Byte) (s : State) : State :=
  { s with link := { s.link with sending := some (frameTo dst kind payload) } }

/-- The lowest-numbered DONE slot whose JOB-DONE waits. -/
def waitingDone (s : State) : Option (Fin 32) :=
  (indices 32).find? (fun j => match s.job j with | some x => x.waiting.isSome | none => false)

/-- A report has left the queue: the waiting JOB-DONE of the lowest DONE slot is offered (R85, R209). -/
def offerWaiting (s : State) : State :=
  match waitingDone s with
  | some j => printerLook (offerDone j s)
  | none => s

/-- The lowest station a CREDIT frame waits for. -/
def waitingCredit (s : State) : Option (ChannelNo × CreditFrame) :=
  allChannels.findSome? (fun c => (fetch s.link.credits c).map (fun f => (c, f)))

/-- The report at the head of the queue leaves for the transmitter, or nothing waits. -/
def selectReport (s : State) : State :=
  match s.link.reports with
  | q :: rest => offerWaiting (transmit 1 .report q.bytes { s with link := { s.link with reports := rest } })
  | [] => { s with link := { s.link with sending := none } }

/-- The printer frame in hand leaves for the transmitter, or a report. -/
def selectPrinter (s : State) : State :=
  match s.printer.frames, s.printer.started with
  | f :: _, false => transmit 6 f.kind f.bytes (setPrinter { s.printer with started := true } s)
  | _, _ => selectReport s

/-- The next frame when the transmitter becomes free (R208). A reply that leaves makes room for the orders that wait (R205). -/
def transmitSelect (s : State) : State :=
  match s.link.replies with
  | r :: rest => parse (transmit 1 .reply r.bytes { s with link := { s.link with replies := rest } })
  | [] =>
    match waitingCredit s with
    | some (c, f) =>
      transmit (stationOf c) .credit f.bytes { s with link := { s.link with credits := store s.link.credits c none } }
    | none => selectPrinter s

/-! ### The commands -/

/-- HARD_RESET (R209): every table at its default; the commands that wait are the sender's own. -/
def execHardReset (msz : BitVec 2) (s : State) : Host.Outcome State Fault Refusal :=
  .next { State.afterReset msz with pending := s.pending }

/-- FRAME_CHECK_FAIL (R204). -/
def execFrameCheckFail (bytes : List Byte) (s : State) : Host.Outcome State Fault Refusal := .next (arriveBytes bytes s)

/-- FRAME_DISCARDED (R203). -/
def execFrameDiscarded (dst src kind : Byte) (payload : List Byte) (s : State) : Host.Outcome State Fault Refusal :=
  .next (dealFrame ⟨dst, src, kind, payload⟩ (checkerIdle s))

/-- TRANSMIT_SELECT (R208). -/
def execTransmitSelect (s : State) : Host.Outcome State Fault Refusal := .next (transmitSelect s)

end Sys2Proof.Machine
end

