-- ==== Sys2Proof/Machine/Dispatch.lean ====
section
/-! DEFINITION. The commands, one arm each. -/

namespace Sys2Proof.Machine

def exec (i : Instr) (s : State) : Host.Outcome State Fault Refusal :=
  match i with
  | .hardReset msz => Sys2Proof.Machine.execHardReset msz s
  | .frameCheckFail bytes => Sys2Proof.Machine.execFrameCheckFail bytes s
  | .frameDiscarded dst src kind payload => Sys2Proof.Machine.execFrameDiscarded dst src kind payload s
  | .orderFrame src payload => Sys2Proof.Machine.execOrderFrame src payload s
  | .orderBadCode tag code params => Sys2Proof.Machine.execOrderBadCode tag code params s
  | .configure tag params => Sys2Proof.Machine.execConfigure tag params s
  | .loadRoute tag params => Sys2Proof.Machine.execLoadRoute tag params s
  | .clearRoute tag params => Sys2Proof.Machine.execClearRoute tag params s
  | .loadDialProfile tag params => Sys2Proof.Machine.execLoadDialProfile tag params s
  | .loadGroup tag params => Sys2Proof.Machine.execLoadGroup tag params s
  | .stageTariff tag params => Sys2Proof.Machine.execStageTariff tag params s
  | .applyTariff tag params => Sys2Proof.Machine.execApplyTariff tag params s
  | .loadBands tag params => Sys2Proof.Machine.execLoadBands tag params s
  | .loadDayMap tag params => Sys2Proof.Machine.execLoadDayMap tag params s
  | .setTime tag params => Sys2Proof.Machine.execSetTime tag params s
  | .readTime tag params => Sys2Proof.Machine.execReadTime tag params s
  | .setAccount tag params => Sys2Proof.Machine.execSetAccount tag params s
  | .readAccount tag params => Sys2Proof.Machine.execReadAccount tag params s
  | .takeRecords tag params => Sys2Proof.Machine.execTakeRecords tag params s
  | .setLine tag params => Sys2Proof.Machine.execSetLine tag params s
  | .retireLine tag params => Sys2Proof.Machine.execRetireLine tag params s
  | .returnLine tag params => Sys2Proof.Machine.execReturnLine tag params s
  | .readLine tag params => Sys2Proof.Machine.execReadLine tag params s
  | .openDocument tag params => Sys2Proof.Machine.execOpenDocument tag params s
  | .closeDocument tag params => Sys2Proof.Machine.execCloseDocument tag params s
  | .replacePage tag params => Sys2Proof.Machine.execReplacePage tag params s
  | .releaseDocument tag params => Sys2Proof.Machine.execReleaseDocument tag params s
  | .readDocument tag params => Sys2Proof.Machine.execReadDocument tag params s
  | .submitSend tag params => Sys2Proof.Machine.execSubmitSend tag params s
  | .submitPrint tag params => Sys2Proof.Machine.execSubmitPrint tag params s
  | .cancelJob tag params => Sys2Proof.Machine.execCancelJob tag params s
  | .readJob tag params => Sys2Proof.Machine.execReadJob tag params s
  | .readStore tag params => Sys2Proof.Machine.execReadStore tag params s
  | .restart tag params => Sys2Proof.Machine.execRestart tag params s
  | .sheetStart src fields => Sys2Proof.Machine.execSheetStart src fields s
  | .sheetEnd src fields => Sys2Proof.Machine.execSheetEnd src fields s
  | .sheetAbort src fields => Sys2Proof.Machine.execSheetAbort src fields s
  | .raster src payload => Sys2Proof.Machine.execRaster src payload s
  | .coderTurn => Sys2Proof.Machine.execCoderTurn s
  | .admissionPass => Sys2Proof.Machine.execAdmissionPass s
  | .cadencePhaseEnd line => Sys2Proof.Machine.execCadencePhaseEnd line s
  | .lineLost line => Sys2Proof.Machine.execLineLost line s
  | .busy line => Sys2Proof.Machine.execBusy line s
  | .guardTimeEnd line => Sys2Proof.Machine.execGuardTimeEnd line s
  | .ringPresent line => Sys2Proof.Machine.execRingPresent line s
  | .ringEnd line frames => Sys2Proof.Machine.execRingEnd line frames s
  | .ringingEpisodeEnd line => Sys2Proof.Machine.execRingingEpisodeEnd line s
  | .answerBlankingEnd line => Sys2Proof.Machine.execAnswerBlankingEnd line s
  | .ability line fields => Sys2Proof.Machine.execAbility line fields s
  | .choice line fields => Sys2Proof.Machine.execChoice line fields s
  | .trialQuality line good => Sys2Proof.Machine.execTrialQuality line good s
  | .trialGood line rest => Sys2Proof.Machine.execTrialGood line rest s
  | .trialBad line rest => Sys2Proof.Machine.execTrialBad line rest s
  | .pageDataByteSend line => Sys2Proof.Machine.execPageDataByteSend line s
  | .pageDataByte line value => Sys2Proof.Machine.execPageDataByte line value s
  | .pageDataEnd line => Sys2Proof.Machine.execPageDataEnd line s
  | .pageEnd line fields => Sys2Proof.Machine.execPageEnd line fields s
  | .verdictGood line rest => Sys2Proof.Machine.execVerdictGood line rest s
  | .verdictResend line rest => Sys2Proof.Machine.execVerdictResend line rest s
  | .wait line rest => Sys2Proof.Machine.execWait line rest s
  | .close line fields => Sys2Proof.Machine.execClose line fields s
  | .messageCheckError line checkError bytes => Sys2Proof.Machine.execMessageCheckError line checkError bytes s
  | .closeHanded line => Sys2Proof.Machine.execCloseHanded line s
  | .classTick cls => Sys2Proof.Machine.execClassTick cls s
  | .answerTimeout line => Sys2Proof.Machine.execAnswerTimeout line s
  | .messageTimeout line => Sys2Proof.Machine.execMessageTimeout line s
  | .dataTimeout line => Sys2Proof.Machine.execDataTimeout line s
  | .pageTimeout line => Sys2Proof.Machine.execPageTimeout line s
  | .scanTimeout channel => Sys2Proof.Machine.execScanTimeout channel s
  | .printTimeout => Sys2Proof.Machine.execPrintTimeout s
  | .secondEvent => Sys2Proof.Machine.execSecondEvent s
  | .unitBoundary line => Sys2Proof.Machine.execUnitBoundary line s
  | .destinationEligible job dest => Sys2Proof.Machine.execDestinationEligible job dest s
  | .printerCredit src payload => Sys2Proof.Machine.execPrinterCredit src payload s
  | .paperOut src rest => Sys2Proof.Machine.execPaperOut src rest s
  | .paperReady src rest => Sys2Proof.Machine.execPaperReady src rest s
  | .printerFrameSent => Sys2Proof.Machine.execPrinterFrameSent s
  | .transmitSelect => Sys2Proof.Machine.execTransmitSelect s
  | .messageByteSend line => Sys2Proof.Machine.execMessageByteSend line s
  | .loopCurrentChange line present => Sys2Proof.Machine.execLoopCurrentChange line present s
  | .ringIntervalStart line => Sys2Proof.Machine.execRingIntervalStart line s

end Sys2Proof.Machine
end

