-- ==== Sys2Proof/Machine/Tick.lean ====
section
/-! DEFINITION. One highway frame (00 "Time in the FL-824"): what step does on an empty queue (log 1). The counters move, each
slot's word goes out, and the events that fall due join the queue (log 24). -/

namespace Sys2Proof.Machine

/-! ### The slot words (R107, R214) -/

/-- The states with the hook off (R107). -/
def Line.offHook (x : Line) : Bool := decide (x.state = .seized ∨ x.state = .dialing ∨ x.state = .answering ∨ x.state = .connected)

/-- The tone code of a symbol (R214): 1 to 10 for the digits, 11 for *, 12 for #. -/
def Symbol.tone : Symbol → Nat
  | .digit d => d.val + 1
  | .star => 11
  | .hash => 12
  | .pause => 0

/-- The symbol being dialled. -/
def Line.symbol (x : Line) : Option Symbol :=
  match x.admission with
  | none => none
  | some a =>
    match x.part with
    | .access => a.access[x.position]?
    | .number => a.number[x.position]?

/-- The tone digit field: the symbol in a TONE-ON phase (R112). -/
def Line.toneField (x : Line) : Nat :=
  if x.cadence.phase = .toneOn then (match x.symbol with | some y => y.tone | none => 0) else 0

/-- The word of a line's slot: in CONNECTED the engine's command, and otherwise the resting command (R107). -/
def outWord (x : Line) (t : Slot) : BitVec 32 :=
  let live := decide (x.state = .connected)
  slotWord t.dataByte x.offHook (decide (x.cadence.phase = .breakOn)) x.toneField (if live then t.command else .rest)
    (if live then t.rate else 0)

/-- The word goes out, and the data byte with it; the module may show space again. -/
def sendWord (s : State) (l : LineNo) : State :=
  let t := s.slot l
  s.setSlot l { t with word := outWord (s.line l) t, dataByte := none, handed := false }

/-! ### The counters of a line -/

/-- A frame of the cadence generator (R111), under the unit that its phase read. -/
def Cadence.frame (c : Cadence) : Cadence :=
  if c.phase = .none then c
  else if c.prescaler + 1 < c.unit then { c with prescaler := c.prescaler + 1 }
  else if c.count = 0 then { c with prescaler := 0, count := 255, pause := c.pause - 1 }
  else { c with prescaler := 0, count := c.count - 1 }

/-- Whether a phase has run out: a unit has elapsed and both counters are 0 (R111). -/
def Cadence.over? (c : Cadence) : Bool := decide (c.phase ≠ .none ∧ c.prescaler = 0 ∧ c.count = 0 ∧ c.pause = 0)

/-- The profile that a line reads its loop fields from (R109): the captured one, and profile 0 on an incoming call. -/
def loopProfile (x : Line) (s : State) : Profile :=
  match x.admission with
  | some a => s.profile a.profile
  | none => s.profile 0

/-- A frame of the loop monitor (R113). -/
def Line.loopFrame (x : Line) (present : Bool) : Line :=
  if x.watchesLoop then
    if x.cadence.phase = .breakOn ∨ 0 < x.blanking then { x with absence := 0, blanking := x.blanking - 1 }
    else if present then { x with absence := 0 }
    else { x with absence := x.absence + 1 }
  else x

/-- A frame of the ring monitor (R116). -/
def Line.ringFrameTick (x : Line) (present : Bool) : Line :=
  if x.state = .ringing then
    if present then { x with onCount := x.onCount + 1, gapCount := 0 }
    else if x.onCount = 0 then { x with gapCount := x.gapCount + 1 }
    else x
  else x

/-- A line's counters after one frame. -/
def lineFrame (s : State) (l : LineNo) : State :=
  let x := s.line l
  let t := s.slot l
  let x := (x.loopFrame t.loopPresent).ringFrameTick t.ringPresent
  let x := { x with cadence := x.cadence.frame, guard := x.guard - 1 }
  s.setLine l x

/-- The events that fall due at a line, `s` being the state after the frame's counting. -/
def lineEvents (s : State) (l : LineNo) : List Instr :=
  let x := s.line l
  let t := s.slot l
  (if x.cadence.over? then [.cadencePhaseEnd l] else []) ++
    (if x.canBeLost ∧ (loopProfile x s).bridge * 8 ≤ x.absence then [.lineLost l] else []) ++
    (if x.state = .answering ∧ x.blanking = 0 then [.answerBlankingEnd l] else []) ++
    (if x.state = .releasing ∧ x.guard = 0 then [.guardTimeEnd l] else []) ++
    (if x.state = .idle ∧ t.ringPresent = true then [.ringPresent l] else []) ++
    (if x.state = .ringing ∧ t.ringPresent = false ∧ 0 < x.onCount then [.ringEnd l 0] else []) ++
    (if x.state = .ringing ∧ x.onCount = 0 ∧ s.cfg.ringGapMaximum * 8000 < x.gapCount then [.ringingEpisodeEnd l] else [])

/-! ### The tick counters and the clock (R150, R173) -/

def allClasses : List TimeoutClass := [.answer, .message, .data, .page, .scan, .print]

/-- Whether a class's counter reaches its period at this frame (R150). -/
def classDue (s : State) (c : TimeoutClass) : Bool :=
  decide (fetch s.cfg.periods (TimeoutClass.index c) * 80 ≤ fetch s.ticks (TimeoutClass.index c) + 1)

/-- A class's counter after one frame. -/
def classFrame (s : State) (c : TimeoutClass) : State :=
  s.setTick (TimeoutClass.index c) (if classDue s c then 0 else fetch s.ticks (TimeoutClass.index c) + 1)

/-- Whether the second ends at this frame (R173). -/
def secondDue (s : State) : Bool := decide (s.clock.length ≤ s.clock.frame + 1)

/-- The frame counter after one frame. -/
def clockFrame (s : State) : State := setClock { s.clock with frame := if secondDue s then 0 else s.clock.frame + 1 } s

/-- The events that fall due at a frame: lines 0 to 7, the classes, the second (log 24). -/
def frameEvents (before after : State) : List Instr :=
  allLines.flatMap (lineEvents after) ++ (allClasses.filter (classDue before)).map .classTick ++
    (if secondDue before then [.secondEvent] else [])

/-- One highway frame with an empty queue. -/
def frameTick (s : State) : State :=
  let t := allLines.foldl lineFrame (allLines.foldl sendWord s)
  let t := clockFrame (allClasses.foldl classFrame t)
  { t with pending := frameEvents s t }

end Sys2Proof.Machine
end

