-- ==== Sys2Proof/Safety.lean ====
section
/-! DEFINITION. What claims about the part are stated in: its invariants, the conditions under which an order is taken at once,
and the state in which no call and no print job follows a command's own effect. -/

namespace Sys2Proof.Machine

/-! ### Invariants -/

/-- R1: every block is on the free list or in the chain of exactly one page record, once. R17: a FREE record has no chain. -/
def Store.blocksKept (st : Store) : Prop :=
  (st.freeList ++ st.pages.toList.flatMap Page.chain).Perm (List.range st.blocks) ∧
    ∀ p : Fin 256, (fetch st.pages p).state = .free → (fetch st.pages p).chain = []

/-- R17: a record is FREE exactly when no claim is attached to it, it is not mapped and it is not FILLING; R3, R10: mapped is set
exactly while a slot of a document names the record, each record stands in one slot of one document at most, and it names that
document. -/
def Store.pagesKept (st : Store) : Prop :=
  (∀ p : Fin 256, (fetch st.pages p).state = .free ↔
    st.claimCount p = 0 ∧ (fetch st.pages p).mapped = false ∧ (fetch st.pages p).state ≠ .filling) ∧
    (∀ p : Fin 256, (fetch st.pages p).mapped = true ↔ ∃ d x, fetch st.docs d = some x ∧ p ∈ x.slots) ∧
    ∀ (d : Fin 64) (x : Document), fetch st.docs d = some x →
      x.slots.Nodup ∧ ∀ p ∈ x.slots, ∃ k, (fetch st.pages p).place = some (d, k)

/-- A tariff cell in its ranges (R180). -/
def Cell.inRange (c : Cell) : Prop := c.whole ≤ 1023 ∧ c.fraction ≤ 15 ∧ c.setup ≤ 15

/-- The clock's counters in their ranges (R173 to R175, R180). -/
def Clock.inRange (c : Clock) : Prop :=
  c.second ≤ 86399 ∧ c.accumulator ≤ 124 ∧ 7997 ≤ c.length ∧ c.length ≤ 8003 ∧ c.frame < c.length ∧
    (∀ i : Fin 32, (fetch c.active i).inRange ∧ (fetch c.staged i).inRange)

/-- A meter's counters in their ranges (R183, R185). -/
def Meter.inRange (m : Meter) : Prop :=
  m.dither ≤ 15 ∧ (m.timed = true → 1 ≤ m.remaining ∧ m.remaining ≤ 1024) ∧ (m.timed = false → m.remaining = 0)

/-- R185: the clock and the meters keep their ranges; the correction stays within R174's. -/
def State.timeKept (s : State) : Prop :=
  s.clock.inRange ∧ -255 ≤ s.cfg.correction ∧ s.cfg.correction ≤ 255 ∧ ∀ l : LineNo, (s.meter l).inRange

/-- R190, R191, R195: total and limit in range, OVER exactly when the limit is not 0 and the total is at or above it. -/
def Account.inRange (a : Account) : Prop :=
  a.total ≤ 16777215 ∧ a.limit ≤ 16777215 ∧ a.isOver = overOf a.total a.limit

def State.accountsKept (s : State) : Prop := ∀ a : Fin 64, (s.account a).inRange

/-- The admission records of the lines. -/
def State.admissions (s : State) : List Admission := allLines.filterMap (fun l => (s.line l).admission)

/-- One line and its call (R106, R183, R198): an outgoing call is held only in a state that a release ends; its meter runs
exactly while the call is answered; exactly one place is reserved for it, with its job slot and destination index. -/
def State.callKept (s : State) (l : LineNo) : Prop :=
  ((s.line l).admission.isSome = true → (s.line l).releasable = true) ∧
    ((s.line l).answered = true → (s.line l).admission.isSome = true) ∧
    (s.meter l).running = (s.line l).answered ∧
    s.charges.reserved.filter (fun r => decide (r.line = l)) =
      ((s.line l).admission.map (fun a => (⟨l, a.job, a.dest⟩ : Reservation))).toList

/-- R104, R183, R193, R197: every line and its call, the active call counts of the accounts and of the route entries, and the
32 charge places. -/
def State.callsKept (s : State) : Prop :=
  (∀ l : LineNo, s.callKept l) ∧
    (∀ a : Fin 64, (s.account a).active = s.admissions.countP (fun x => decide (x.account = a))) ∧
    (∀ i : Fin 48, fetch s.routes.active i = s.admissions.countP (fun x => decide (x.entry = i))) ∧
    s.charges.used ≤ 32

/-- R69: each ON-LINE destination holds the line whose admission record names it, and a destination in any other state holds no
line. A line holds one admission record, so no line is named by two ON-LINE destinations. -/
def State.tiesKept (s : State) : Prop :=
  ∀ (j : Fin 32) (d : Nat) (x : Dest), s.dest j d = some x →
    (x.state ≠ .onLine → x.line = none) ∧
      (x.state = .onLine → ∃ l a, x.line = some l ∧ (s.line l).admission = some a ∧ a.job = j ∧ a.dest = d)

/-- A channel's staging entries and unused credits (R47, R52). -/
def Channel.creditsKept (c : Channel) : Prop :=
  c.staging.length + c.unused ≤ 4 ∧ c.limit ≤ 4095 ∧ c.expected ≤ c.limit

/-- R47, R52, R161, R205, R209: every queue and every credit count keeps its bound. -/
def State.queuesKept (s : State) : Prop :=
  s.link.orders.length ≤ 4 ∧ s.link.replies.length ≤ 4 ∧ s.link.reports.length ≤ 64 ∧ s.printer.credits ≤ 16 ∧
    ∀ c : ChannelNo, (s.channel c).creditsKept

/-- R205: an order waits in the order queue only while an order is in hand or no reply place is free, since the parser takes all it
can in the step that lets it (log 11). -/
def State.parserKept (s : State) : Prop :=
  s.link.orders = [] ∨ s.link.inHand.isSome = true ∨ 4 ≤ s.link.replies.length

/-! ### Orders -/

/-- A reply joins the reply queue and is the last answered (R205). -/
def Link.withReply (k : Link) (r : Reply) : Link := { k with replies := k.replies ++ [r], last := some (r.tag, r) }

/-- The state with a reply given. -/
def State.replied (s : State) (tag : Tag) (code : Byte) (a : Answer) : State :=
  { s with link := s.link.withReply ⟨tag, code, a⟩ }

/-- An order with this tag is taken at once (R205): no order is in hand or waits, the reply queue has room, and the tag is not
the last answered one. -/
def State.takesOrder (s : State) (tag : Tag) : Prop :=
  s.link.inHand = none ∧ s.link.orders = [] ∧ s.link.replies.length < 4 ∧ ∀ t r, s.link.last = some (t, r) → t ≠ tag

/-- The order that an order command carries (R205), with its code in the table of section 12.4. -/
def orderOfCommand : Instr → Option Order
  | .configure tag params => some ⟨tag, 1, params⟩
  | .loadRoute tag params => some ⟨tag, 2, params⟩
  | .clearRoute tag params => some ⟨tag, 3, params⟩
  | .loadDialProfile tag params => some ⟨tag, 4, params⟩
  | .loadGroup tag params => some ⟨tag, 5, params⟩
  | .stageTariff tag params => some ⟨tag, 6, params⟩
  | .applyTariff tag params => some ⟨tag, 7, params⟩
  | .loadBands tag params => some ⟨tag, 8, params⟩
  | .loadDayMap tag params => some ⟨tag, 9, params⟩
  | .setTime tag params => some ⟨tag, 10, params⟩
  | .readTime tag params => some ⟨tag, 11, params⟩
  | .setAccount tag params => some ⟨tag, 12, params⟩
  | .readAccount tag params => some ⟨tag, 13, params⟩
  | .takeRecords tag params => some ⟨tag, 14, params⟩
  | .setLine tag params => some ⟨tag, 15, params⟩
  | .retireLine tag params => some ⟨tag, 16, params⟩
  | .returnLine tag params => some ⟨tag, 17, params⟩
  | .readLine tag params => some ⟨tag, 18, params⟩
  | .openDocument tag params => some ⟨tag, 19, params⟩
  | .closeDocument tag params => some ⟨tag, 20, params⟩
  | .replacePage tag params => some ⟨tag, 21, params⟩
  | .releaseDocument tag params => some ⟨tag, 22, params⟩
  | .readDocument tag params => some ⟨tag, 23, params⟩
  | .submitSend tag params => some ⟨tag, 24, params⟩
  | .submitPrint tag params => some ⟨tag, 25, params⟩
  | .cancelJob tag params => some ⟨tag, 26, params⟩
  | .readJob tag params => some ⟨tag, 27, params⟩
  | .readStore tag params => some ⟨tag, 28, params⟩
  | .restart tag params => some ⟨tag, 29, params⟩
  | .hardReset _ => none
  | .frameCheckFail _ => none
  | .frameDiscarded _ _ _ _ => none
  | .orderFrame _ _ => none
  | .orderBadCode _ _ _ => none
  | .sheetStart _ _ => none
  | .sheetEnd _ _ => none
  | .sheetAbort _ _ => none
  | .raster _ _ => none
  | .coderTurn => none
  | .admissionPass => none
  | .cadencePhaseEnd _ => none
  | .lineLost _ => none
  | .busy _ => none
  | .guardTimeEnd _ => none
  | .ringPresent _ => none
  | .ringEnd _ _ => none
  | .ringingEpisodeEnd _ => none
  | .answerBlankingEnd _ => none
  | .ability _ _ => none
  | .choice _ _ => none
  | .trialQuality _ _ => none
  | .trialGood _ _ => none
  | .trialBad _ _ => none
  | .pageDataByteSend _ => none
  | .pageDataByte _ _ => none
  | .pageDataEnd _ => none
  | .pageEnd _ _ => none
  | .verdictGood _ _ => none
  | .verdictResend _ _ => none
  | .wait _ _ => none
  | .close _ _ => none
  | .messageCheckError _ _ _ => none
  | .closeHanded _ => none
  | .classTick _ => none
  | .answerTimeout _ => none
  | .messageTimeout _ => none
  | .dataTimeout _ => none
  | .pageTimeout _ => none
  | .scanTimeout _ => none
  | .printTimeout => none
  | .secondEvent => none
  | .unitBoundary _ => none
  | .destinationEligible _ _ => none
  | .printerCredit _ _ => none
  | .paperOut _ _ => none
  | .paperReady _ _ => none
  | .printerFrameSent => none
  | .transmitSelect => none
  | .messageByteSend _ => none
  | .loopCurrentChange _ _ => none
  | .ringIntervalStart _ => none

/-! ### States in which nothing follows a command's own effect -/

/-- No print job is ACTIVE and the Print Channel is IDLE. -/
def State.noPrinting (s : State) : Prop :=
  s.printer.phase = .idle ∧ s.printer.job = none ∧ ∀ j : Fin 32, s.printJob j = none

/-- No line holds an outgoing call, no engine acts as caller, and no print job is ACTIVE. -/
def State.quiet (s : State) : Prop :=
  s.noPrinting ∧
    ∀ l : LineNo, (s.line l).admission = none ∧ ((s.proc l).role = .caller → (s.proc l).phase = .idle)

/-- No RECEIVE job owes a print job (R82). -/
def State.noneOwed (s : State) : Prop :=
  ∀ (j : Fin 32) (d : Fin 64) (b : ReceiveJob) (w : Option Report), s.job j = some ⟨d, .receive b, w⟩ → b.owed = false

/-! ### Page data -/

/-- The decoder fed with bytes: where it stands after them and the lines it gave, in order (R36). -/
def Decoder.feedAll (d : Decoder) : List Byte → Decoder × List DecodedLine
  | [] => (d, [])
  | b :: bs =>
    match d.feed b with
    | (e, .line x) => ((e.feedAll bs).1, x :: (e.feedAll bs).2)
    | (e, _) => e.feedAll bs

/-- The page record that a new page takes (R5): the lowest-numbered FREE record that is not held. -/
def Store.nextPage (st : Store) (p : Fin 256) : Prop :=
  (fetch st.pages p).state = .free ∧ st.isHeld p = false ∧ ∀ q : Fin 256, q < p → (fetch st.pages q).state ≠ .free ∨ st.isHeld q = true

/-- The bytes of a frame from one station to another (R211). -/
def frameBytes (dst src kind : Byte) (payload : List Byte) : List Byte :=
  let body := [dst, src, kind] ++ uint 2 payload.length ++ payload
  [0xA5, 0x3C] ++ body ++ uint 2 (crc16 body).toNat

/-- A reading of page memory: the byte at an address. -/
def State.memoryByte (s : State) (a : Nat) : Byte := s.store.mem.read a

/-- The coded bytes of a page as they are stored (R3). -/
def Store.coded (st : Store) (p : Fin 256) : List Byte :=
  (List.range (fetch st.pages p).length).map (fun k => st.pageByte p k)

end Sys2Proof.Machine
end

