-- ==== Sys2Proof/Certificates/Slice0/Obligations.lean ====
section
/-! DEFINITION. The statements for the provers. -/

section
open Sys2Proof Sys2Proof.Machine

/-! ### Steps, reset and invariants -/

/-- A step runs the command at the front of the queue, with the queue's rest behind it. -/
def Obligations.StepRunsFrontCommand : Prop :=
  ∀ (s : State) (c : Instr) (rest : List Instr), s.pending = c :: rest → step s = exec c { s with pending := rest }

/-- A command's own effect leaves the queue of commands alone. -/
def Obligations.ExecLeavesTheQueue : Prop :=
  ∀ (c : Instr) (s t : State), exec c s = .next t → t.pending = s.pending

/-- A step on an empty queue is one highway frame (the model's choice, log 1 and log 24): the frame counter of R173, the tick
counters of R150, and of every line the guard remaining of R120, the cadence generator of R111, the loop monitor of R113 and the
ring monitor of R116 move by one frame; each event that falls due joins the queue, the line events included; and everything but
the lines' counters and the slots' words stays. -/
def Obligations.IdleStepIsOneFrame : Prop :=
  ∀ s : State, s.pending = [] → ∃ t, step s = .next t ∧
    t.clock = { s.clock with frame := if s.clock.frame + 1 < s.clock.length then s.clock.frame + 1 else 0 } ∧
    (.secondEvent ∈ t.pending ↔ s.clock.length ≤ s.clock.frame + 1) ∧
    (∀ k : TimeoutClass, fetch t.ticks (TimeoutClass.index k) =
      if fetch s.ticks (TimeoutClass.index k) + 1 < fetch s.cfg.periods (TimeoutClass.index k) * 80
      then fetch s.ticks (TimeoutClass.index k) + 1 else 0) ∧
    (∀ k : TimeoutClass, .classTick k ∈ t.pending ↔
      fetch s.cfg.periods (TimeoutClass.index k) * 80 ≤ fetch s.ticks (TimeoutClass.index k) + 1) ∧
    (∀ l : LineNo,
      let x := s.line l
      let c := x.cadence
      let watched := x.state = .seized ∨ x.state = .dialing ∨ x.state = .answering ∨ x.state = .connected
      let held := c.phase = .breakOn ∨ 0 < x.blanking
      let ring := (s.slot l).ringPresent = true
      t.line l = { x with
        guard := x.guard - 1,
        cadence := if c.phase = .none then c
          else if c.prescaler + 1 < c.unit then { c with prescaler := c.prescaler + 1 }
          else if c.count = 0 then { c with prescaler := 0, count := 255, pause := c.pause - 1 }
          else { c with prescaler := 0, count := c.count - 1 },
        absence := if watched then (if held ∨ (s.slot l).loopPresent = true then 0 else x.absence + 1) else x.absence,
        blanking := if watched ∧ held then x.blanking - 1 else x.blanking,
        onCount := if x.state = .ringing ∧ ring then x.onCount + 1 else x.onCount,
        gapCount := if x.state = .ringing then (if ring then 0 else if x.onCount = 0 then x.gapCount + 1 else x.gapCount)
          else x.gapCount } ∧
      t.slot l = { s.slot l with word := outWord x (s.slot l), dataByte := none, handed := false }) ∧
    (∀ l : LineNo,
      let y := t.line l
      let ring := (s.slot l).ringPresent = true
      let bridge := match y.admission with
        | some a => (s.profile a.profile).bridge
        | none => (s.profile 0).bridge
      (.cadencePhaseEnd l ∈ t.pending ↔
        y.cadence.phase ≠ .none ∧ y.cadence.prescaler = 0 ∧ y.cadence.count = 0 ∧ y.cadence.pause = 0) ∧
      (.lineLost l ∈ t.pending ↔
        (y.state = .seized ∨ y.state = .dialing ∨ y.state = .connected) ∧ bridge * 8 ≤ y.absence) ∧
      (.answerBlankingEnd l ∈ t.pending ↔ y.state = .answering ∧ y.blanking = 0) ∧
      (.guardTimeEnd l ∈ t.pending ↔ y.state = .releasing ∧ y.guard = 0) ∧
      (.ringPresent l ∈ t.pending ↔ y.state = .idle ∧ ring) ∧
      (.ringEnd l 0 ∈ t.pending ↔ y.state = .ringing ∧ ¬ring ∧ 0 < y.onCount) ∧
      (.ringingEpisodeEnd l ∈ t.pending ↔
        y.state = .ringing ∧ y.onCount = 0 ∧ s.cfg.ringGapMaximum * 8000 < y.gapCount)) ∧
    t.cfg = s.cfg ∧ t.store = s.store ∧ t.scan = s.scan ∧ t.jobs = s.jobs ∧ t.routes = s.routes ∧ t.profiles = s.profiles ∧
    t.procs = s.procs ∧ t.printer = s.printer ∧ t.meters = s.meters ∧ t.accounts = s.accounts ∧ t.charges = s.charges ∧
    t.link = s.link ∧ t.freeCount = s.freeCount

/-- HARD_RESET samples the strap and sets every table to the default that the spec gives (R1, R3, R10, R62, R63, R64, R87, R90, R98,
R106, R109, R125, R150, R160, R173 to R175, R178, R180, R183, R190, R197, R204, R205, R207, R209): of R63 the channels hold the
values of R62, the last served station is 5 and no CREDIT frame waits. The fields that the spec gives no value at reset (logs 5, 6,
14, 37 and 38) have no clause. The queue of commands is the sender's (log 1). -/
def Obligations.HardResetSetsDefaults : Prop :=
  ∀ (msz : BitVec 2) (s : State), ∃ t, exec (.hardReset msz) s = .next t ∧
    t.pending = s.pending ∧
    t.store.blocks = (if msz = 0 then 4096 else if msz = 1 then 8192 else 16384) ∧
    t.store.freeList = List.range t.store.blocks ∧ t.store.claims = [] ∧
    (∀ p, (t.page p).state = .free ∧ (t.page p).chain = [] ∧ (t.page p).lines = 0 ∧ (t.page p).length = 0 ∧
      (t.page p).version = 0 ∧ (t.page p).place = none ∧ (t.page p).mapped = false ∧ (t.page p).substituted = 0 ∧
      (t.page p).truncated = false ∧ (t.page p).damaged = false) ∧
    (∀ d, t.doc d = none) ∧ (∀ j, t.job j = none) ∧ t.jobs.order = [] ∧ (∀ g, fetch t.jobs.groups g = []) ∧
    (∀ c, (t.channel c).binding = .unbound ∧ (t.channel c).replacement = .none ∧ (t.channel c).sheet = .idle ∧
      (t.channel c).expected = 0 ∧ (t.channel c).limit = 0 ∧ (t.channel c).staging = [] ∧ (t.channel c).endEntry = none ∧
      (t.channel c).truncate = false ∧ (t.channel c).stalled = false ∧ (t.channel c).heldStart = none ∧
      (t.channel c).coder = ⟨none, 0, 0⟩ ∧ (t.channel c).sup = ⟨none, 0, false⟩ ∧ fetch t.link.credits c = none) ∧
    t.scan.coder = .idle ∧ t.scan.lastServed = 3 ∧
    (∀ i, fetch t.routes.entries i = ⟨false, [], false, 0, 0, [], [], .inOrder, 0⟩ ∧ fetch t.routes.active i = 0) ∧
    t.routes.passing = false ∧ t.routes.rerun = false ∧ t.routes.candidates = [] ∧
    (∀ l, (t.line l).state = .idle ∧ (t.line l).retiring = false ∧ (t.line l).direction = none ∧ (t.line l).admission = none ∧
      (t.line l).receive = none ∧ (t.line l).answered = false ∧ (t.line l).cadence.phase = .none ∧ (t.line l).absence = 0 ∧
      (t.line l).blanking = 0 ∧ (t.line l).onCount = 0 ∧ (t.line l).gapCount = 0 ∧ (t.line l).rings = 0 ∧
      (t.line l).refused = false ∧ (t.line l).guard = 0 ∧ (t.line l).lastReason = none ∧
      (t.line l).settings = ⟨0, 0, false, 0⟩) ∧
    (∀ l, (t.proc l).phase = .idle ∧ (t.proc l).remote = none ∧ (t.proc l).slot = 0 ∧ (t.proc l).page = none ∧
      (t.proc l).sends = 0 ∧ (t.proc l).resends = 0 ∧ (t.proc l).bad = 0 ∧ (t.proc l).pageEnd = none ∧
      (t.proc l).lastMessage = none ∧ (t.proc l).lastVerdict = none ∧ (t.proc l).delivered = 0 ∧ (t.proc l).endReason = none ∧
      (t.proc l).recoder.active = false ∧ (t.proc l).recoder.sendReference = none ∧
      (t.proc l).recoder.decoder.reference = none ∧ (t.proc l).recoder.sent = 0 ∧ (t.proc l).recoder.decoder.index = 0 ∧
      (t.proc l).recoder.anchor = 0 ∧ (t.proc l).sup = ⟨none, 0, false⟩ ∧ (t.slot l).command = .rest) ∧
    (∀ l, t.meter l = ⟨false, false, 0, 0, 0, 0, 0, 0, 0, 0⟩) ∧
    (∀ i, fetch t.profiles i = ⟨.tone, 1, 80, 80, 60, 40, 700, 1500, 2000, 2000, 300, 100⟩) ∧
    t.cfg = ⟨256, 4, [], 2, 200, 6, 2048, true, true, 6, [], 2, 16, #v[1500, 300, 200, 600, 500, 1000], 0⟩ ∧
    (∀ i, fetch t.ticks i = 0) ∧ t.printer.phase = .idle ∧ t.printer.job = none ∧ t.printer.credits = 0 ∧
    t.printer.paperOut = false ∧ t.printer.paused = false ∧ t.printer.ready = none ∧ t.printer.decoder.reference = none ∧
    t.printer.decoder.place = 0 ∧ t.printer.sup = ⟨none, 0, false⟩ ∧
    t.clock.frame = 0 ∧ t.clock.length = 8000 ∧ t.clock.accumulator = 0 ∧ t.clock.second = 0 ∧ t.clock.day = 0 ∧
    t.clock.elapsed = 0 ∧ (∀ k, fetch t.clock.schedules k = ⟨0, []⟩) ∧ (∀ d, fetch t.clock.dayMap d = 0) ∧ (∀ i, fetch t.clock.active i = ⟨0, 0, 0⟩ ∧ fetch t.clock.staged i = ⟨0, 0, 0⟩) ∧
    (∀ a, t.account a = ⟨0, 0, false, false, .finish, 0⟩) ∧ t.charges = ⟨[], []⟩ ∧
    t.link.orders = [] ∧ t.link.inHand = none ∧ t.link.replies = [] ∧ t.link.last = none ∧ t.link.bytes = [] ∧
    t.link.reports = [⟨.restarted .hardReset t.store.blocks t.store.blocks [] 0, false⟩] ∧ t.link.gap = false

/-- The state after reset meets every invariant that is stated of a step. -/
def Obligations.ResetMeetsInvariants : Prop :=
  State.reset.store.mem.wf = true ∧ State.reset.store.blocksKept ∧ State.reset.store.pagesKept ∧ State.reset.timeKept ∧
    State.reset.accountsKept ∧ State.reset.callsKept ∧ State.reset.tiesKept ∧ State.reset.queuesKept ∧ State.reset.parserKept

/-- Every step keeps the page memory in its canonical form: addresses strictly rising, no entry equal to an unwritten byte. -/
def Obligations.MemoryStaysCanonical : Prop :=
  ∀ s t : State, s.store.mem.wf = true → step s = .next t → t.store.mem.wf = true

/-- Every step keeps R1's partition of the blocks: each block is on the free list or in the chain of exactly one page record. Every
step keeps R17's account of the page records: FREE exactly when unclaimed, unmapped and not FILLING, and mapped exactly while a slot
of a document names them. -/
def Obligations.BlocksStayKept : Prop :=
  (∀ s t : State, s.store.blocksKept → step s = .next t → t.store.blocksKept) ∧
    ∀ s t : State, s.store.pagesKept → step s = .next t → t.store.pagesKept

/-- Every step keeps the clock's and the meters' counters in the ranges of R185. -/
def Obligations.TimeStaysInRange : Prop :=
  ∀ s t : State, s.timeKept → step s = .next t → t.timeKept

/-- Every step keeps each account's total and limit in range, and OVER as R191 and R195 work it out. -/
def Obligations.AccountsStayJudged : Prop :=
  ∀ s t : State, s.accountsKept → step s = .next t → t.accountsKept

/-- Every step keeps R183's tie between lines, meters, charge places and active call counts; and with it R69's between the ON-LINE
destinations and the lines: each is named by the admission record of exactly one line. -/
def Obligations.CallsAndChargesAgree : Prop :=
  (∀ s t : State, s.callsKept → step s = .next t → t.callsKept) ∧
    ∀ s t : State, s.callsKept → s.tiesKept → step s = .next t → t.tiesKept

/-- Every step keeps the queues and credit counts within their bounds, and leaves no order waiting that the parser could take
(R205); that it takes all it can within the step is the model's choice (log 11). -/
def Obligations.QueuesStayBounded : Prop :=
  (∀ s t : State, s.queuesKept → step s = .next t → t.queuesKept) ∧
    ∀ s t : State, s.parserKept → step s = .next t → t.parserKept

/-- A line coded by R31 decodes to itself (R36): fed to a decoder between two lines whose reference the coder used, the bytes
give exactly that line, good, and leave the decoder between two lines with the line as its reference. A PLAIN line is coded at
the anchor or without a reference; an anchor position other than 0 is reached only with a reference. -/
def Obligations.CodedLinesDecode : Prop :=
  ∀ (d : Decoder) (anchor : Nat) (deltaAllowed : Bool) (r : Raster),
    0 < r.length → r.length ≤ 2048 → d.width = r.length → d.line = none → d.ended = false →
    (∀ f, d.reference = some f → f.length = r.length) → (anchor ≠ 0 → d.reference ≠ none → 0 < d.index) →
    let bytes := codeLine anchor d.reference deltaAllowed r
    let kind := chooseKind anchor d.reference deltaAllowed r
    let runs := match kind with
      | .repeatLine => []
      | .plain => runsOf r
      | .delta => runsOf (List.zipWith xor r (d.reference.getD []))
    d.feedAll bytes =
      ({ d with reference := some r, index := d.index + 1, place := d.place + bytes.length, seeking := false },
        [⟨r, d.index, true, some kind, bytes, runs⟩]) ∧
    bytes.length < 2048

/-! ### The desk link: frames and orders -/

/-- The inbound checker (R204) and the CRC (R211), from HUNT with nothing held: a good frame behind bytes without a sync byte is
dealt with, a frame with a bad CRC or a length above 300 is dropped, and the nine bytes of R211 give its CRC. -/
def Obligations.InboundChecker : Prop :=
  (∀ (s : State) (dst src kind : Byte) (noise payload : List Byte), s.link.bytes = [] → payload.length ≤ 300 → 0xA5#8 ∉ noise →
    exec (.frameCheckFail (noise ++ frameBytes dst src kind payload)) s =
      .next (checkerIdle (dealFrame ⟨dst, src, kind, payload⟩ s))) ∧
  (∀ (s : State) (dst src kind hi lo : Byte) (payload : List Byte), s.link.bytes = [] → payload.length ≤ 300 →
    let body := [dst, src, kind] ++ uint 2 payload.length ++ payload
    [hi, lo] ≠ uint 2 (crc16 body).toNat → 0xA5#8 ∉ body ++ [hi, lo] →
    exec (.frameCheckFail ([0xA5, 0x3C] ++ body ++ [hi, lo])) s = .next s) ∧
  (∀ (s : State) (dst src kind : Byte) (n : Nat), s.link.bytes = [] → 300 < n → n < 65536 →
    0xA5#8 ∉ [dst, src, kind] ++ uint 2 n →
    exec (.frameCheckFail ([0xA5, 0x3C, dst, src, kind] ++ uint 2 n)) s = .next s) ∧
  crc16 [0x31, 0x32, 0x33, 0x34, 0x35, 0x36, 0x37, 0x38, 0x39] = 0x29B1#16

/-- Frames that change nothing: those outside the table of R203, and those whose payload does not fit its kind's layout (R213): too
short or too long, a sheet kind above 2, a printer status above 1. -/
def Obligations.FramesThatChangeNothing : Prop :=
  ∀ s : State, s.link.bytes = [] →
    (∀ (dst src kind : Byte) (payload : List Byte),
      ¬(dst = 0 ∧ ((src = 1 ∧ kind = 8) ∨ (2 ≤ src.toNat ∧ src.toNat ≤ 5 ∧ (kind = 1 ∨ kind = 2)) ∨
        (src = 6 ∧ (kind = 3 ∨ kind = 7)))) →
      exec (.frameDiscarded dst src kind payload) s = .next s) ∧
    (∀ (src : Byte) (payload : List Byte), src ≠ 1 ∨ payload.length < 3 →
      exec (.orderFrame src payload) s = .next s) ∧
    (∀ (src : Byte) (bytes : List Byte), bytes.length ≠ 4 ∨ ¬(2 ≤ src.toNat ∧ src.toNat ≤ 5) →
      exec (.sheetStart src bytes) s = .next s) ∧
    (∀ (src : Byte) (bytes : List Byte), bytes.length ≠ 3 ∨ ¬(2 ≤ src.toNat ∧ src.toNat ≤ 5) →
      exec (.sheetEnd src bytes) s = .next s) ∧
    (∀ (src : Byte) (bytes : List Byte), bytes.length ≠ 1 ∨ ¬(2 ≤ src.toNat ∧ src.toNat ≤ 5) →
      exec (.sheetAbort src bytes) s = .next s) ∧
    (∀ (src : Byte) (payload : List Byte), payload.length < 3 ∨ ¬(2 ≤ src.toNat ∧ src.toNat ≤ 5) →
      exec (.raster src payload) s = .next s) ∧
    (∀ (src : Byte) (payload : List Byte), payload.length ≠ 1 ∨ src ≠ 6 → exec (.printerCredit src payload) s = .next s) ∧
    (∀ (src : Byte) (rest : List Byte), rest ≠ [] ∨ src ≠ 6 →
      exec (.paperOut src rest) s = .next s ∧ exec (.paperReady src rest) s = .next s) ∧
    (∀ (src : Byte) (payload : List Byte), 2 ≤ src.toNat → src.toNat ≤ 5 →
      (payload.length < 3 → exec (.frameDiscarded 0 src 1 payload) s = .next s) ∧
      ((∀ k rest, payload = k :: rest → 2 < k.toNat) → exec (.frameDiscarded 0 src 2 payload) s = .next s)) ∧
    (∀ payload : List Byte,
      (payload.length ≠ 1 → exec (.frameDiscarded 0 6 3 payload) s = .next s) ∧
      ((∀ v, payload = [v] → 1 < v.toNat) → exec (.frameDiscarded 0 6 7 payload) s = .next s))

/-- An ORDER arrives in a state that the parser leaves (R205, parserKept): a tag that waits or is in hand is a repeat and dropped;
the last answered tag draws its stored reply again, or waits with its copy; any other order of the table does what its own command
does, and a code outside it is refused; while no reply place is free or an order is in hand it waits where the queue has room, and
is dropped where it has none. That the parser takes an order in the step in which it arrives is the model's choice, and that a
repeat that waits counts as an order of its tag is the model's deduction (log 11). -/
def Obligations.OrderFrameIsTakenOrWaits : Prop :=
  ∀ (s : State) (tag : Tag) (code : Byte) (params : List Byte), s.link.bytes = [] → s.parserKept →
    let run := exec (.orderFrame 1 (uint 2 tag.toNat ++ [code] ++ params)) s
    let waits := (∃ o, s.link.inHand = some o ∧ o.tag = tag) ∨ (∃ e ∈ s.link.orders, e.tag = tag)
    (waits → run = .next s) ∧
    (¬waits → ∀ r, s.link.last = some (tag, r) →
      run = .next { s with link :=
        if s.link.replies.length < 4 then { s.link with replies := s.link.replies ++ [r] }
        else if s.link.orders.length < 4 then { s.link with orders := s.link.orders ++ [.again tag r] }
        else s.link }) ∧
    (∀ c : Instr, orderOfCommand c = some ⟨tag, code, params⟩ → run = exec c s) ∧
    (¬waits → (∀ t r, s.link.last = some (t, r) → t ≠ tag) →
      (s.link.orders = [] → s.link.inHand = none → s.link.replies.length < 4 → code = 0 ∨ 29 < code.toNat →
        run = .next (s.replied tag code (.refused .malformed))) ∧
      (s.link.inHand.isSome = true ∨ 4 ≤ s.link.replies.length →
        run = .next (if s.link.orders.length < 4
          then { s with link := { s.link with orders := s.link.orders ++ [.order ⟨tag, code, params⟩] } } else s)))

/-- Every order taken is answered by one reply with its tag and code, which becomes the last answered; an order with the last
answered tag is not taken a second time, and its stored reply joins the reply queue again (R205). -/
def Obligations.OrderIsAnsweredOnce : Prop :=
  ∀ (c : Instr) (o : Order) (s : State), orderOfCommand c = some o →
    (s.takesOrder o.tag →
      ∃ t a, exec c s = .next t ∧ t.link.replies = s.link.replies ++ [⟨o.tag, o.code, a⟩] ∧
        t.link.last = some (o.tag, ⟨o.tag, o.code, a⟩) ∧ t.link.inHand = none ∧ t.link.orders = [] ∧
        t.link.bytes = s.link.bytes) ∧
    (∀ r : Reply, s.link.inHand = none → s.link.orders = [] → s.link.replies.length < 4 → s.link.last = some (o.tag, r) →
      exec c s = .next { s with link := { s.link with replies := s.link.replies ++ [r] } })

/-- A refused order changes nothing but the reply it draws (R206), whatever the order. -/
def Obligations.RefusedOrderChangesNothing : Prop :=
  ∀ (c : Instr) (o : Order) (s t : State) (why : RefuseReason), orderOfCommand c = some o → s.takesOrder o.tag →
    exec c s = .next t → t.link.last = some (o.tag, ⟨o.tag, o.code, .refused why⟩) → t = s.replied o.tag o.code (.refused why)

/-- MALFORMED (R206): an order code of 0 or above 29, and a parameter list whose length does not fit the order: for an order of
fixed length every other length, and for one of variable length a list too short for its fields and one with bytes left over after
them. The lengths follow the layouts of section 12.4 under R212; that of LOAD-DAY-MAP, seven bytes and no count, and the presence
bytes of LOAD-ROUTE are the model's deductions (log 12). -/
def Obligations.MisformedOrderIsMalformed : Prop :=
  ∀ (s : State) (tag : Tag) (bs : List Byte), s.takesOrder tag →
    let no := fun code : Byte => (.next (s.replied tag code (.refused .malformed)) : Host.Outcome State Fault Refusal)
    (∀ code : Byte, code = 0 ∨ 29 < code.toNat → exec (.orderBadCode tag code bs) s = no code) ∧
    (bs ≠ [] → exec (.applyTariff tag bs) s = no 7 ∧ exec (.readTime tag bs) s = no 11 ∧ exec (.readStore tag bs) s = no 28 ∧
      exec (.restart tag bs) s = no 29) ∧
    (bs.length ≠ 1 → exec (.clearRoute tag bs) s = no 3 ∧ exec (.takeRecords tag bs) s = no 14 ∧
      exec (.retireLine tag bs) s = no 16 ∧ exec (.returnLine tag bs) s = no 17 ∧ exec (.readLine tag bs) s = no 18 ∧
      exec (.openDocument tag bs) s = no 19 ∧ exec (.closeDocument tag bs) s = no 20 ∧
      exec (.releaseDocument tag bs) s = no 22 ∧ exec (.cancelJob tag bs) s = no 26) ∧
    (bs.length ≠ 2 → exec (.readAccount tag bs) s = no 13 ∧ exec (.replacePage tag bs) s = no 21 ∧
      exec (.readDocument tag bs) s = no 23 ∧ exec (.readJob tag bs) s = no 27) ∧
    (bs.length ≠ 3 → exec (.submitPrint tag bs) s = no 25) ∧ (bs.length ≠ 4 → exec (.setTime tag bs) s = no 10) ∧
    (bs.length ≠ 5 → exec (.setLine tag bs) s = no 15) ∧ (bs.length ≠ 6 → exec (.setAccount tag bs) s = no 12) ∧
    (bs.length ≠ 7 → exec (.loadDayMap tag bs) s = no 9) ∧ (bs.length ≠ 19 → exec (.loadDialProfile tag bs) s = no 4) ∧
    (bs.length < 1 → exec (.configure tag bs) s = no 1 ∧ exec (.stageTariff tag bs) s = no 6) ∧
    (bs.length < 2 → exec (.loadGroup tag bs) s = no 5) ∧ (bs.length < 3 → exec (.loadBands tag bs) s = no 8) ∧
    (bs.length < 9 → exec (.loadRoute tag bs) s = no 2 ∧ exec (.submitSend tag bs) s = no 24) ∧
    (bs ≠ [] → exec (.configure tag (0 :: bs)) s = no 1 ∧ exec (.stageTariff tag (0 :: bs)) s = no 6 ∧
      (∀ a b : Byte, exec (.loadGroup tag (a :: 0 :: bs)) s = no 5 ∧ exec (.loadBands tag (a :: b :: 0 :: bs)) s = no 8 ∧
        exec (.loadRoute tag ([a, 0, 1, 0, 0, 0, 0, 0, 0] ++ bs)) s = no 2) ∧
      (∀ a b c d e f : Byte, exec (.submitSend tag ([a, b, c, d, e, f, 0, 0, 0] ++ bs)) s = no 24))

/-! ### Orders on the tables -/

/-- CONFIGURE (R207): with no item the reply carries the twenty values and nothing changes; a named value is stored, clamped to its
range where its kind says so, with what its owner does at once (R150, R174). The reserve is taken here where the free count does
not pass above it. -/
def Obligations.ConfigureStoresValues : Prop :=
  ∀ (s : State) (tag : Tag), s.takesOrder tag →
    let stored := fun (item : List Byte) (s' : State) =>
      exec (.configure tag (1 :: item)) s = .next (s'.replied tag 1 (.done s'.cfg.bytes))
    exec (.configure tag [0]) s = .next (s.replied tag 1 (.done s.cfg.bytes)) ∧
    (∀ n : Nat, n < 65536 → (s.cfg.reserve < s.store.freeCount ∨ s.store.freeCount ≤ min 4095 n) →
      stored (1 :: uint 2 n) { s with cfg := { s.cfg with reserve := min 4095 n } }) ∧
    (∀ n : Byte, stored [2, n] { s with cfg := { s.cfg with anchorInterval := max 1 (min 32 n.toNat) } }) ∧
    (∀ n : Number, n.length ≤ 24 → stored (3 :: symbols n) { s with cfg := { s.cfg with ownNumber := n } }) ∧
    (∀ n : Byte, stored [4, n] { s with cfg := { s.cfg with guardTime := max 1 (min 15 n.toNat) } }) ∧
    (∀ n : Nat, n < 65536 → stored (5 :: uint 2 n) { s with cfg := { s.cfg with ringOnMinimum := max 100 (min 1000 n) } }) ∧
    (∀ n : Byte, stored [6, n] { s with cfg := { s.cfg with ringGapMaximum := max 1 (min 10 n.toNat) } }) ∧
    (∀ w : Nat, w = 1024 ∨ w = 1536 ∨ w = 2048 → stored (7 :: uint 2 w) { s with cfg := { s.cfg with maxWidth := w } }) ∧
    (∀ b : Bool, stored (8 :: flag b) { s with cfg := { s.cfg with fine := b } } ∧
      stored (9 :: flag b) { s with cfg := { s.cfg with delta := b } }) ∧
    (∀ n : Byte, stored [10, n] { s with cfg := { s.cfg with maxRate := max 1 (min 6 n.toNat) } }) ∧
    (∀ n : Name, n.length ≤ 20 → stored (11 :: text n) { s with cfg := { s.cfg with stationName := n } }) ∧
    (∀ n : Byte, stored [12, n] { s with cfg := { s.cfg with resendLimit := min 3 n.toNat } } ∧
      stored [13, n] { s with cfg := { s.cfg with acceptLimit := n.toNat } }) ∧
    (∀ (k : Fin 6) (n : Nat), n < 65536 →
      stored (byteOf (14 + k.val) :: uint 2 n) { s with
        cfg := { s.cfg with periods := store s.cfg.periods k (max 1 n) },
        ticks := if fetch s.cfg.periods k = max 1 n then s.ticks else store s.ticks k 0 }) ∧
    (∀ c : Int, -32768 ≤ c → c ≤ 32767 →
      let new := max (-255) (min 255 c)
      stored (20 :: int16 c) { s with
        cfg := { s.cfg with correction := new },
        clock := { s.clock with accumulator :=
          if new ≠ s.cfg.correction ∧ (new = 0 ∨ new.sign ≠ s.cfg.correction.sign) then 0 else s.clock.accumulator } })

/-- LOAD-ROUTE and CLEAR-ROUTE (R91, R92): the whole entry is replaced in one step, the active call count stays and is in the reply,
and the arbiter is told. The parameters are laid out as section 12.6 has it (R212), with a presence byte before each of zone,
profile, access digits, lines, choice mode and limit, which a BARRED entry does not carry: the model's deduction (log 12). -/
def Obligations.RouteOrders : Prop :=
  ∀ (s : State) (tag : Tag) (i : Fin 48), s.takesOrder tag →
    let put := fun (code : Byte) (r : Route) =>
      (.next ((trigger { s with routes := { s.routes with entries := store s.routes.entries i r } }).replied tag code
        (.done (uint 1 i.val ++ uint 1 (fetch s.routes.active i)))) : Host.Outcome State Fault Refusal)
    (∀ (digits access : Number) (zone profile : Fin 8) (lines : List LineNo) (mode : ChoiceMode) (limit : Nat),
      digits.length ≤ 8 → (∀ x ∈ digits, ∃ d, x = .digit d) → access.length ≤ 4 → (∀ x ∈ access, x ≠ .pause) →
      lines ≠ [] → lines.Nodup → 1 ≤ limit → limit ≤ 8 →
      exec (.loadRoute tag (uint 1 i.val ++ symbols digits ++ flag false ++ (1 :: uint 1 zone.val) ++ (1 :: uint 1 profile.val) ++
        (1 :: symbols access) ++ (1 :: listOf (fun l => uint 1 l.val) lines) ++
        (1 :: uint 1 (match mode with | .inOrder => 0 | .spread => 1)) ++ (1 :: uint 1 limit))) s =
        put 2 ⟨true, digits, false, zone, profile, access, lines, mode, limit⟩) ∧
    (∀ digits : Number, digits.length ≤ 8 → (∀ x ∈ digits, ∃ d, x = .digit d) →
      exec (.loadRoute tag (uint 1 i.val ++ symbols digits ++ flag true ++ [0, 0, 0, 0, 0, 0])) s =
        put 2 ⟨true, digits, true, 0, 0, [], [], .inOrder, 0⟩) ∧
    exec (.clearRoute tag (uint 1 i.val)) s = put 3 ⟨false, [], false, 0, 0, [], [], .inOrder, 0⟩

/-- LOAD-DIAL-PROFILE (R109, R110) stores a whole profile with its timings clamped, and LOAD-GROUP (R87) a whole group. -/
def Obligations.ProfileAndGroupOrders : Prop :=
  ∀ (s : State) (tag : Tag) (i : Fin 8), s.takesOrder tag →
    (∀ p : Profile, p.unit = 1 ∨ p.unit = 2 ∨ p.unit = 5 ∨ p.unit = 10 → p.toneOn < 256 → p.toneOff < 256 → p.breakTime < 256 →
      p.makeTime < 256 → p.interdigit < 65536 → p.seizePause < 65536 → p.accessPause < 65536 → p.commaPause < 65536 →
      p.bridge < 65536 → p.blanking < 65536 →
      let q : Profile := ⟨p.method, p.unit, max 1 p.toneOn, max 1 p.toneOff, max 1 p.breakTime, max 1 p.makeTime, p.interdigit,
        p.seizePause, p.accessPause, p.commaPause, max 10 (min 1000 p.bridge), min 500 p.blanking⟩
      exec (.loadDialProfile tag (uint 1 i.val ++ p.bytes)) s =
        .next (({ s with profiles := store s.profiles i q }).replied tag 4 (.done q.bytes))) ∧
    (∀ ns : List Number, ns.length ≤ 16 → (∀ n ∈ ns, 1 ≤ n.length ∧ n.length ≤ 24) →
      exec (.loadGroup tag (uint 1 i.val ++ listOf symbols ns)) s =
        .next (({ s with jobs := { s.jobs with groups := store s.jobs.groups i ns } }).replied tag 5 (.done [])))

/-- STAGE-TARIFF (R181) replaces every named cell of the staged table in one step and keeps the others; APPLY-TARIFF (R182) copies
the staged table whole and counts the cells it changed. -/
def Obligations.TariffOrders : Prop :=
  ∀ (s : State) (tag : Tag), s.takesOrder tag →
    (∀ es : List TariffEntry, es ≠ [] → es.length ≤ 8 →
      es.Pairwise (fun e f => ¬(e.band = f.band ∧ e.zone = f.zone)) →
      (∀ e ∈ es, e.band ≤ 3 ∧ e.zone ≤ 7 ∧ e.cell.whole ≤ 1023 ∧ e.cell.fraction ≤ 15 ∧ e.cell.setup ≤ 15) →
      ∃ table : Table Cell 32,
        exec (.stageTariff tag (listOf TariffEntry.bytes es)) s =
          .next (({ s with clock := { s.clock with staged := table } }).replied tag 6 (.done (listOf TariffEntry.bytes es))) ∧
        ∀ (b : Fin 4) (z : Fin 8), fetch table (cellIndex b z) =
          match es.find? (fun e => decide (e.band = b.val ∧ e.zone = z.val)) with
          | some e => e.cell
          | none => fetch s.clock.staged (cellIndex b z)) ∧
    exec (.applyTariff tag []) s =
      .next (({ s with clock := { s.clock with active := s.clock.staged } }).replied tag 7
        (.done (uint 1 ((List.finRange 32).countP (fun i => decide (fetch s.clock.active i ≠ fetch s.clock.staged i))))))

/-- LOAD-BANDS, LOAD-DAY-MAP (R179), SET-TIME (R176) and READ-TIME (R177). That LOAD-DAY-MAP carries seven bytes without a count is
the model's deduction (log 12), and so are the layouts of the replies to LOAD-BANDS and LOAD-DAY-MAP (log 13). -/
def Obligations.ClockOrders : Prop :=
  ∀ (s : State) (tag : Tag), s.takesOrder tag →
    (∀ (c : Fin 2) (start : Fin 4) (points : List (Nat × Fin 4)), points.length ≤ 6 → (∀ p ∈ points, p.1 ≤ 86399) →
      points.Pairwise (fun p q => p.1 < q.1) →
      let bytes := uint 1 start.val ++ listOf (fun p : Nat × Fin 4 => uint 3 p.1 ++ uint 1 p.2.val) points
      exec (.loadBands tag (uint 1 c.val ++ bytes)) s =
        .next (({ s with clock := { s.clock with schedules := store s.clock.schedules c ⟨start, points⟩ } }).replied tag 8
          (.done bytes))) ∧
    (∀ m : Table (Fin 2) 7,
      exec (.loadDayMap tag (m.toList.flatMap (fun k : Fin 2 => uint 1 k.val))) s =
        .next (({ s with clock := { s.clock with dayMap := m } }).replied tag 9 (.done (m.toList.flatMap (fun k : Fin 2 => uint 1 k.val))))) ∧
    (∀ (second : Nat) (day : Fin 7), second ≤ 86399 →
      exec (.setTime tag (uint 3 second ++ uint 1 day.val)) s =
        .next (({ s with clock := { s.clock with second := second, day := day } }).replied tag 10
          (.done (uint 3 second ++ uint 1 day.val)))) ∧
    (∀ (second day : Nat), second < 16777216 → day < 256 → 86399 < second ∨ 6 < day →
      exec (.setTime tag (uint 3 second ++ uint 1 day)) s = .next (s.replied tag 10 (.refused .outOfRange))) ∧
    exec (.readTime tag []) s = .next (s.replied tag 11 (.done (uint 3 s.clock.second ++ uint 1 s.clock.day.val ++
      uint 4 s.clock.elapsed.toNat ++ int16 s.cfg.correction ++ uint 1 s.clock.accumulator ++ uint 2 s.clock.frame ++
      uint 2 s.clock.length ++ uint 1 (fetch s.clock.dayMap s.clock.day).val ++ uint 1 s.clock.band.val)))

/-- The band in effect (R178): in the schedule of the class that the day map gives the day of week, the band of the last switch
point at or below the second of day, and the start band before the first. -/
def Obligations.BandInEffect : Prop :=
  (∀ (x : Schedule) (second : Nat), x.points.Pairwise (fun p q => p.1 < q.1) →
    ((∀ p ∈ x.points, second < p.1) → bandOf x second = x.start) ∧
    (∀ p ∈ x.points, p.1 ≤ second → (∀ q ∈ x.points, q.1 ≤ second → q.1 ≤ p.1) → bandOf x second = p.2)) ∧
  ∀ c : Clock,
    let x := fetch c.schedules (fetch c.dayMap c.day)
    x.points.Pairwise (fun p q => p.1 < q.1) →
      ((∀ p ∈ x.points, c.second < p.1) → c.band = x.start) ∧
      (∀ p ∈ x.points, p.1 ≤ c.second → (∀ q ∈ x.points, q.1 ≤ c.second → q.1 ≤ p.1) → c.band = p.2)

/-- SECOND_EVENT (R173 to R175, R185): the clock's counters, and every meter, as the event leaves them. That a meter's seconds and
units wrap at 2^32 is the model's choice (log 47). -/
def Obligations.SecondEventAdvances : Prop :=
  ∀ s : State, ∃ t, exec .secondEvent s = .next t ∧
    (let frames := (s.clock.accumulator + s.cfg.correction.natAbs) / 125
     t.clock = { s.clock with
       frame := 0, accumulator := (s.clock.accumulator + s.cfg.correction.natAbs) % 125,
       length := if s.cfg.correction < 0 then 8000 - frames else 8000 + frames,
       second := if s.clock.second < 86399 then s.clock.second + 1 else 0,
       day := if s.clock.second < 86399 then s.clock.day else s.clock.day + 1,
       elapsed := s.clock.elapsed + 1 }) ∧
    (∀ l : LineNo,
      let m := s.meter l
      t.meter l =
        if m.running = false then m
        else if m.timed = false then { m with seconds := m.seconds + 1 }
        else if 1 < m.remaining then { m with seconds := m.seconds + 1, remaining := m.remaining - 1 }
        else ({ m with seconds := m.seconds + 1, remaining := 0, units := m.units + 1 }).reload
          (fetch t.clock.active (cellIndex t.clock.band m.zone))) ∧
    (∀ (j : Fin 32) (d : Nat) (x : Dest), (∃ doc b, s.job j = some ⟨doc, .send b, none⟩) → s.dest j d = some x →
      t.dest j d = some (if x.due t.clock.elapsed then { x with state := .ready, ready := t.clock.elapsed, eligible := none } else x)) ∧
    t.cfg = s.cfg ∧ t.store = s.store ∧ t.scan = s.scan ∧ t.lines = s.lines ∧ t.charges = s.charges ∧ t.printer = s.printer

/-- The correction is parts per million (R174): over 125 second events the seconds hold 1,000,000 frames and c more, and the
accumulator comes back to where it was. -/
def Obligations.CorrectionIsPartsPerMillion : Prop :=
  ∀ (c : Int) (a : Nat), -255 ≤ c → c ≤ 255 → a ≤ 124 →
    let run := (List.range 125).foldl (fun (p : Nat × Nat) _ => ((nextLength c p.1).1, p.2 + (nextLength c p.1).2)) (a, 0)
    run.1 = a ∧ (run.2 : Int) = 1000000 + c

/-- UNIT_BOUNDARY (R185, log 8): a running TIMED meter posts one unit to itself and to its account and reloads from the cell of the
band in effect. That the meter's own units wrap at 2^32 is the model's choice (log 47). DESTINATION_ELIGIBLE (R71, log 8): a QUEUED
destination of an ACTIVE job becomes READY and the arbiter is told. -/
def Obligations.BoundaryAndEligible : Prop :=
  (∀ (s : State) (l : LineNo), (s.meter l).running = true → (s.meter l).timed = true →
    ∃ t, exec (.unitBoundary l) s = .next t ∧
      t.meters = store s.meters l (({ s.meter l with units := (s.meter l).units + 1 }).reload
        (fetch s.clock.active (cellIndex s.clock.band (s.meter l).zone))) ∧
      (let a := s.account (s.meter l).account
       let total := min 16777215 (a.total + 1)
       let nowOver := a.isOver || decide (a.limit ≠ 0 ∧ a.limit ≤ total)
       t.accounts = store s.accounts (s.meter l).account { a with total := total, isOver := nowOver } ∧
       t.link = if nowOver = true ∧ a.isOver = false
         then s.link.offer (.accountOver (s.meter l).account total a.limit a.policy a.blocked a.active) else s.link) ∧
      t.clock = s.clock ∧ t.lines = s.lines ∧ t.procs = s.procs ∧ t.jobs = s.jobs ∧ t.routes = s.routes ∧ t.store = s.store ∧
      t.scan = s.scan ∧ t.charges = s.charges ∧ t.printer = s.printer ∧ t.slots = s.slots ∧ t.cfg = s.cfg) ∧
  (∀ (s : State) (j : Fin 32) (d : Fin 16) (doc : Fin 64) (b : SendJob) (x : Dest),
    s.job j = some ⟨doc, .send b, none⟩ → b.dests[d.val]? = some x → x.state = .queued →
    let y : Dest := { x with state := .ready, ready := s.clock.elapsed, eligible := none }
    let b' : SendJob := { b with dests := b.dests.set d.val y }
    exec (.destinationEligible j d) s = .next (trigger (s.setJob j (some ⟨doc, .send b', none⟩))))

/-! ### Orders on accounts, lines, documents and jobs -/

/-- SET-ACCOUNT (R195) and READ-ACCOUNT (R196): the account's new contents with OVER worked out afresh; ACCOUNT-OVER is reported on
an entry into OVER; an account that leaves OVER and BLOCKED makes its HELD destinations READY (R75). The flag at the end of
READ-ACCOUNT's reply, which says whether the total was set to 0 and is sent without the zero option too, is the model's deduction
(log 13). -/
def Obligations.AccountOrders : Prop :=
  ∀ (s : State) (tag : Tag) (n : Fin 64), s.takesOrder tag →
    let a := s.account n
    let result := fun (i : Instr) (code : Byte) (new : Account) (bytes : List Byte) => ∃ t, exec i s = .next t ∧
      t.accounts = store s.accounts n new ∧
      t.link = ((if new.isOver = true ∧ a.isOver = false
        then s.link.offer (.accountOver n new.total new.limit new.policy new.blocked new.active) else s.link).withReply
          ⟨tag, code, .done bytes⟩) ∧
      (if (a.isOver || a.blocked) = true ∧ (new.isOver || new.blocked) = false then
        (∀ (j : Fin 32) (b : SendJob) (doc : Fin 64) (d : Nat) (x : Dest), s.job j = some ⟨doc, .send b, none⟩ →
          b.account = n → b.dests[d]? = some x → x.state = .held →
          t.dest j d = some { x with state := .ready, ready := s.clock.elapsed, eligible := none }) ∧
        (t.routes.passing = true ∧ t.routes.rerun = (s.routes.rerun || s.routes.passing))
       else t.jobs = s.jobs ∧ t.routes = s.routes) ∧
      t.store = s.store ∧ t.lines = s.lines ∧ t.meters = s.meters ∧ t.charges = s.charges ∧ t.procs = s.procs ∧ t.clock = s.clock
    (∀ (limit : Nat) (policy : AccountPolicy) (blocked : Bool), limit ≤ 16777215 →
      let new : Account := ⟨a.total, limit, decide (limit ≠ 0 ∧ limit ≤ a.total), blocked, policy, a.active⟩
      result (.setAccount tag (uint 1 n.val ++ uint 3 limit ++ uint 1 policy.code ++ flag blocked)) 12 new new.bytes) ∧
    (let new : Account := { a with total := 0, isOver := decide (a.limit ≠ 0 ∧ a.limit ≤ 0) }
     result (.readAccount tag (uint 1 n.val ++ flag true)) 13 new (a.bytes ++ flag true)) ∧
    exec (.readAccount tag (uint 1 n.val ++ flag false)) s = .next (s.replied tag 13 (.done (a.bytes ++ flag false)))

/-- TAKE-RECORDS (R200) takes one to four records from the head of the filled list, oldest first, and tells the arbiter where it
took any. That the reply shows no clamped count is the model's choice (log 13). -/
def Obligations.TakeRecordsTakesOldest : Prop :=
  ∀ (s : State) (tag : Tag) (k : Byte), s.takesOrder tag →
    let n := max 1 (min 4 k.toNat)
    let s' := { s with charges := { s.charges with filled := s.charges.filled.drop n } }
    exec (.takeRecords tag [k]) s =
      .next ((if s.charges.filled = [] then s' else trigger s').replied tag 14 (.done
        (listOf ChargeRecord.bytes (s.charges.filled.take n) ++ uint 1 (s.charges.filled.length - n) ++
          uint 1 s.charges.reserved.length)))

/-- SET-LINE, RETIRE-LINE, RETURN-LINE and READ-LINE (R121 to R124). The reply to READ-LINE lists the fields of R124, those of one
state or direction behind a presence byte (R212, log 13). -/
def Obligations.LineOrders : Prop :=
  ∀ (s : State) (tag : Tag) (l : LineNo), s.takesOrder tag →
    let x := s.line l
    (∀ (after copies : Byte) (auto : Bool) (priority : Fin 4),
      let new : LineSettings := ⟨min 15 after.toNat, min 3 copies.toNat, auto, priority.val⟩
      exec (.setLine tag (uint 1 l.val ++ [after, copies] ++ flag auto ++ uint 1 priority.val)) s =
        .next ((s.setLine l { x with settings := new }).replied tag 15 (.done new.bytes))) ∧
    (let new := if x.state = .idle then { x with state := .retired }
       else if x.state = .retired then x else { x with retiring := true }
     exec (.retireLine tag (uint 1 l.val)) s =
       .next ((s.setLine l new).replied tag 16 (.done (uint 1 new.state.code ++ flag new.retiring)))) ∧
    (let new := if x.state = .retired then { x with state := .idle } else { x with retiring := false }
     let s' := s.setLine l new
     exec (.returnLine tag (uint 1 l.val)) s =
       .next ((if x.state = .retired ∨ x.retiring = true then trigger s' else s').replied tag 17
         (.done (uint 1 new.state.code ++ flag new.retiring)))) ∧
    (let state := match x.state with
        | .idle => 0 | .seized => 1 | .dialing => 2 | .connected => 3
        | .ringing => 4 | .answering => 5 | .releasing => 6 | .retired => 7
     let part := match x.part with | .access => 0 | .number => 1
     let direction := match x.direction with | none => [0] | some .outgoing => [1, 0] | some .incoming => [1, 1]
     let call := match x.admission with
       | none => [0, 0, 0, 0, 0, 0, 0]
       | some a => (1 :: uint 1 a.job.val) ++ (1 :: uint 1 a.dest) ++ (1 :: symbols a.number) ++ (1 :: uint 1 a.entry.val) ++
           (1 :: uint 1 a.zone.val) ++ (1 :: uint 1 a.profile.val) ++ (1 :: flag x.answered)
     let reception := match x.receive with
       | none => [0, 0]
       | some (j, d) => (1 :: uint 1 j.val) ++ (1 :: uint 1 d.val)
     exec (.readLine tag (uint 1 l.val)) s = .next (s.replied tag 18 (.done (
       uint 1 state ++ flag x.retiring ++ direction ++ uint 1 x.settings.answerAfter ++ uint 1 x.settings.copies ++
         flag x.settings.autoRelease ++ uint 1 x.settings.priority ++
         (match x.lastReason with | none => [0] | some r => 1 :: uint 1 r.code) ++ call ++ reception ++
         (if x.state = .dialing then (1 :: uint 1 part) ++ (1 :: uint 1 x.position) else [0, 0]) ++
         (if x.state = .ringing then (1 :: uint 1 x.rings) ++ (1 :: flag x.refused) else [0, 0]) ++
         (if x.state = .releasing then 1 :: uint 1 ((x.guard + 7999) / 8000) else [0])))))

/-- OPEN-DOCUMENT (R21) and CLOSE-DOCUMENT (R22). With no outgoing call and no print job, nothing follows a close. -/
def Obligations.OpenAndCloseDocument : Prop :=
  ∀ (s : State) (tag : Tag), s.takesOrder tag →
    (∀ (c : ChannelNo) (d : Fin 64), (s.channel c).binding = .unbound → (s.doc d).isNone = true →
      (∀ e : Fin 64, e < d → (s.doc e).isSome = true) →
      exec (.openDocument tag (uint 1 (c.val + 2))) s =
        .next (((s.setDoc d (some ⟨.scanned c, true, false, [], [], none, false, 0⟩)).setChannel c
          { s.channel c with binding := .bound d }).replied tag 19 (.done (uint 1 d.val)))) ∧
    (∀ (d : Fin 64) (x : Document) (c : ChannelNo), s.doc d = some x → x.kind = .scanned c →
      let run := exec (.closeDocument tag (uint 1 d.val)) s
      (x.isOpen = false ∨ x.closePending = true → run = .next (s.replied tag 20 (.done []))) ∧
      (x.isOpen = true → x.closePending = false → (s.channel c).sheet ≠ .idle →
        run = .next ((s.setDoc d (some { x with closePending := true })).replied tag 20 (.done []))) ∧
      (x.isOpen = true → x.closePending = false → (s.channel c).sheet = .idle → s.quiet → x.slots ≠ [] →
        (s.channel c).binding = .bound d →
        run = .next (((s.setDoc d (some { x with isOpen := false })).setChannel c
          { s.channel c with binding := if (s.channel c).replacement = .none then .unbound else .replaceOnly d }).replied tag 20
            (.done []))))

/-- REPLACE-PAGE (R18) marks the slot; RELEASE-DOCUMENT (R23) sets released, and with no job left frees the document (R11): its
record is free and its unclaimed SEALED and VOID pages are FREE, their blocks at the free list's tail. The order in which several
pages' blocks join it, that of the slots, is the model's choice (log 39), and so are the width 0 and the resolution of a FREE
record, which Page.blank holds (log 5). -/
def Obligations.ReplaceAndReleaseDocument : Prop :=
  ∀ (s : State) (tag : Tag) (d : Fin 64) (x : Document), s.takesOrder tag → s.doc d = some x →
    (∀ (c : ChannelNo) (k : Nat) (p : Fin 256), k ≤ 127 → x.kind = .scanned c → x.slots[k]? = some p → x.released = false →
      (s.page p).state ≠ .filling → (s.channel c).replacement = .none →
      (s.channel c).binding = .unbound ∨ (s.channel c).binding = .bound d ∨ (s.channel c).binding = .replaceOnly d →
      exec (.replacePage tag (uint 1 d.val ++ uint 1 k)) s =
        .next ((s.setChannel c { s.channel c with
          replacement := .pending d k,
          binding := if (s.channel c).binding = .unbound then .replaceOnly d else (s.channel c).binding }).replied tag 21
            (.done []))) ∧
    (x.isOpen = false → x.closePending = false →
      (∀ (c : ChannelNo) (e : Fin 64) (k : Nat) (p : Fin 256), (s.channel c).replacement = .pending e k ∨
        (s.channel c).replacement = .filling e k p → e ≠ d) →
      let run := exec (.releaseDocument tag (uint 1 d.val)) s
      (x.released = true → run = .next (s.replied tag 22 (.done []))) ∧
      (x.released = false → 0 < x.jobCount →
        run = .next ((s.setDoc d (some { x with released := true })).replied tag 22 (.done []))) ∧
      (x.released = false → x.jobCount = 0 → ∃ t, run = .next t ∧ t.doc d = none ∧ (∀ e, e ≠ d → t.doc e = s.doc e) ∧
        (∀ p ∈ x.slots, (s.page p).state = .sealed → s.store.claimCount p = 0 → t.page p = Page.blank) ∧
        (∀ p ∈ x.slots, 0 < s.store.claimCount p → t.page p = { s.page p with mapped := false, place := none }) ∧
        (∀ p, p ∉ x.slots → t.page p = s.page p) ∧
        (x.slots.Nodup → t.store.freeList = s.store.freeList ++ x.slots.flatMap (fun p =>
          if ((s.page p).state = .sealed ∨ (s.page p).state = .void) ∧ s.store.claimCount p = 0 then (s.page p).chain else [])) ∧
        t.store.mem = s.store.mem ∧
        t.store.claims = s.store.claims ∧ t.jobs = s.jobs ∧ t.lines = s.lines ∧ t.accounts = s.accounts))

/-- READ-STORE (R25): the counts in the order of the rule, each in the width that R212 and the model's deduction (log 13) give
it. -/
def Obligations.ReadStoreReplies : Prop :=
  ∀ (s : State) (tag : Tag), s.takesOrder tag →
    let count := fun st : PageState => (List.finRange 256).countP (fun p => decide ((s.page p).state = st))
    exec (.readStore tag []) s = .next (s.replied tag 28 (.done (
      uint 2 s.store.blocks ++ uint 2 s.store.freeList.length ++ uint 2 s.cfg.reserve ++ uint 2 (count .free) ++
        uint 2 (count .filling) ++ uint 2 (count .sealed) ++ uint 2 (count .void) ++
        uint 2 ((List.finRange 256).countP (fun p => s.store.isHeld p)) ++
        uint 1 ((List.finRange 64).countP (fun d => (s.doc d).isNone)))))

/-- READ-DOCUMENT (R24) and READ-JOB (R88, R159): the checks in their order, and the reply with the records as they stand. Neither
changes anything. The bytes are those of section 12.6 (R212): a field that only one kind of document or job carries stands behind a
presence byte, and the widths and the places of those bytes are the model's deductions (log 13). -/
def Obligations.ReadDocumentAndJob : Prop :=
  ∀ (s : State) (tag : Tag) (k first : Nat), s.takesOrder tag → k < 256 → first < 256 →
    let documentReply := exec (.readDocument tag (uint 1 k ++ uint 1 first)) s
    let jobReply := exec (.readJob tag (uint 1 k ++ uint 1 first)) s
    (63 < k ∨ 127 < first → documentReply = .next (s.replied tag 23 (.refused .outOfRange))) ∧
    (∀ d : Fin 64, d.val = k → first ≤ 127 →
      documentReply = .next (s.replied tag 23 (match s.doc d with
        | none => .refused .noSuch
        | some x =>
          let replaced := ([0, 1, 2, 3] : List ChannelNo).findSome? (fun c => match (s.channel c).replacement with
            | .none => none
            | .pending e k => if e = d then some ((1 :: uint 1 k) ++ [0]) else none
            | .filling e k p => if e = d then some ((1 :: uint 1 k) ++ (1 :: uint 1 p.val)) else none)
          let summary := fun e : Fin 256 × Nat =>
            let g := s.page e.1
            let state := match g.state with | .free => 0 | .filling => 1 | .sealed => 2 | .void => 3
            uint 1 e.2 ++ uint 1 e.1.val ++ uint 1 state ++ uint 1 g.version ++ uint 2 g.width ++ uint 1 g.resolution.code ++
              uint 2 g.lines ++ uint 3 g.length ++ uint 2 g.substituted ++ flag g.truncated ++ flag g.damaged ++
              uint 2 (s.store.claimCount e.1)
          .done ((match x.kind with
              | .scanned c => ([0] : List Byte) ++ flag (!x.isOpen) ++ (1 :: flag x.closePending) ++ flag x.released ++ uint 1 x.jobCount ++
                  (1 :: uint 1 (c.val + 2)) ++ [0, 0]
              | .received l => [1] ++ flag (!x.isOpen) ++ [0] ++ flag x.released ++ uint 1 x.jobCount ++ [0] ++
                  (1 :: uint 1 l.val) ++ (1 :: text x.remoteName)) ++
            uint 1 x.slots.length ++ replaced.getD [0, 0] ++ listOf summary ((x.slots.zipIdx.drop first).take 14))))) ∧
    (31 < k ∨ 15 < first → jobReply = .next (s.replied tag 27 (.refused .outOfRange))) ∧
    (∀ j : Fin 32, j.val = k → first ≤ 15 →
      jobReply = .next (s.replied tag 27 (match s.job j with
        | none => .refused .noSuch
        | some x =>
          let head := flag x.waiting.isSome ++ uint 1 x.doc.val
          let place := uint 1 (s.jobs.order.idxOf j)
          let dest := fun y : Dest => symbols y.number ++ uint 1 y.state.code ++ uint 1 y.attempts ++
            (match y.state, y.eligible with | .queued, some e => 1 :: uint 4 e.toNat | _, _ => [0]) ++ uint 4 y.ready.toNat ++
            (match y.state, y.line with | .onLine, some l => 1 :: uint 1 l.val | _, _ => [0]) ++ uint 1 y.next ++
            (match y.reason with | some r => 1 :: uint 1 r.code | none => [0]) ++ flag y.oldVersion
          .done (match x.body with
            | .send b => ([0] : List Byte) ++ head ++ (1 :: uint 1 b.account.val) ++ (1 :: uint 1 b.priority) ++ (1 :: uint 1 b.attempts) ++
                (1 :: uint 2 b.delay) ++ (1 :: uint 1 (match b.policy with | .resume => 0 | .whole => 1)) ++ [0, 0, 0, 0, 0, 0] ++
                place ++ (1 :: listOf dest ((b.dests.drop first).take 8)) ++ [0, 0, 0, 0, 0, 0]
            | .print b => [1] ++ head ++ [0] ++ (1 :: uint 1 b.priority) ++ [0, 0, 0] ++ (1 :: uint 1 b.copies) ++
                (1 :: flag b.autoRelease) ++ (1 :: flag b.cancelled) ++ [0, 0, 0] ++ place ++ [0] ++ (1 :: uint 1 b.copy) ++
                (1 :: uint 1 b.slot) ++ (1 :: uint 1 b.completed) ++ (1 :: flag b.lost) ++
                (if s.printer.phase = .printing ∧ s.printer.job = some j then [1, 1, 1] ++ flag s.printer.paused else [1, 0, 0])
            | .receive b => [2] ++ head ++ [0, 0, 0, 0, 0, 0, 0, 0] ++ (1 :: uint 1 b.line.val) ++ (1 :: flag b.owed) ++
                (match b.result with | some r => 1 :: uint 1 r.code | none => [0]) ++ place ++ [0, 0, 0, 0, 0, 0, 0]))))

/-- SUBMIT-SEND (R66 to R68) of numbers that differ, are not the own number and match an open route: the job takes the
lowest-numbered free slot at the tail of the submission list, every destination is READY and claims every page of the document
(R14), and the arbiter is told. A job slot used again names no candidate of a pass in hand (R99, log 23). The reply ends with the
attempts and the delay as stored, which R206 has it show (log 13). -/
def Obligations.SubmitSendCreatesJob : Prop :=
  ∀ (s : State) (tag : Tag) (d account : Fin 64) (x : Document) (j : Fin 32) (priority : Fin 4) (attempts : Byte) (delay : Nat)
    (policy : RestartPolicy) (ns : List Number), s.takesOrder tag → s.noPrinting →
    s.doc d = some x → x.released = false → x.isOpen = true ∨ x.slots ≠ [] → s.job j = none → (∀ i, i < j → s.job i ≠ none) →
    j ∉ s.jobs.order → delay < 65536 → ns ≠ [] → ns.length ≤ 16 → ns.Nodup →
    (∀ n ∈ ns, 1 ≤ n.length ∧ n.length ≤ 24 ∧ n ≠ s.cfg.ownNumber ∧ ∃ i, matchNumber n s = .entry i) →
    let dests := ns.map (fun n => (⟨n, .ready, 0, none, s.clock.elapsed, none, 0, none, false⟩ : Dest))
    let b : SendJob := ⟨account, priority.val, max 1 (min 8 attempts.toNat), max 10 (min 3600 delay), policy, dests⟩
    let claims := (List.range ns.length).flatMap (fun k =>
      x.slots.zipIdx.map (fun e => (⟨.dest j k, d, e.2, e.1, false, false⟩ : Claim)))
    exec (.submitSend tag (uint 1 d.val ++ uint 1 account.val ++ uint 1 priority.val ++ [attempts] ++ uint 2 delay ++
      uint 1 (match policy with | .resume => 0 | .whole => 1) ++ listOf symbols ns ++ [0])) s =
      .next ((trigger { s with
        jobs := { s.jobs with slots := store s.jobs.slots j (some ⟨d, .send b, none⟩), order := s.jobs.order ++ [j] },
        store := { s.store with docs := store s.store.docs d (some { x with jobCount := x.jobCount + 1 }),
                                claims := s.store.claims ++ claims },
        routes := { s.routes with candidates := s.routes.candidates.filter (fun c => decide (c.1 ≠ j)) },
        freeCount := s.freeCount + ns.length }).replied tag 24
        (.done (uint 1 j.val ++ listOf (fun n => symbols n ++ uint 1 1) ns ++ uint 1 b.attempts ++ uint 2 b.delay)))

/-- SUBMIT-PRINT (R81), the Print Channel being idle: the job takes the lowest-numbered free slot and claims every page of the
document (R14). With no page yet, or with paper OUT, the channel waits (R162); otherwise it begins the first page in one step
(R163): the claim on it is in use, PAGE-START is handed over and the first line is decoded (R164). The reply ends with the copies as
stored, which R206 has it show (log 13). -/
def Obligations.SubmitPrintCreatesJob : Prop :=
  ∀ (s : State) (tag : Tag) (d : Fin 64) (x : Document) (j : Fin 32) (copies : Byte) (priority : Fin 4), s.takesOrder tag →
    s.noPrinting → s.doc d = some x → x.released = false → s.job j = none → (∀ i, i < j → s.job i ≠ none) → j ∉ s.jobs.order →
    (∀ k ∈ s.store.claims, k.holder ≠ .print j) →
    let b : PrintJob := ⟨max 1 (min 8 copies.toNat), priority.val, false, false, 1, 0, 0, false⟩
    let run := exec (.submitPrint tag (uint 1 d.val ++ [copies] ++ uint 1 priority.val)) s
    let created := fun (used : Nat → Bool) (printer : PrintChannel) => (.next (({ s with
      jobs := { s.jobs with slots := store s.jobs.slots j (some ⟨d, .print b, none⟩), order := s.jobs.order ++ [j] },
      store := { s.store with
        docs := store s.store.docs d (some { x with jobCount := x.jobCount + 1 }),
        claims := s.store.claims ++ x.slots.zipIdx.map (fun e : Fin 256 × Nat => (⟨.print j, d, e.2, e.1, used e.2, false⟩ : Claim)) },
      printer := printer }).replied tag 25 (.done (uint 1 j.val ++ uint 1 b.copies))) : Host.Outcome State Fault Refusal)
    ((x.slots = [] ∧ x.isOpen = true) ∨ (x.slots ≠ [] ∧ s.printer.paperOut = true) →
      run = created (fun _ => false) { s.printer with phase := .waitPage, job := some j }) ∧
    (∀ (p : Fin 256) (rest : List (Fin 256)) (e : Decoder) (y : DecodedLine), x.slots = p :: rest → s.printer.paperOut = false →
      (s.page p).state = .sealed → s.store.nextLine p (Decoder.start (s.page p).width) = (e, .line y) →
      run = created (fun k => decide (k = 0)) { s.printer with
        phase := .printing, job := some j, page := some p, decoder := e, ready := some (y.index, y.raster),
        substituted := if y.good then 0 else 1, sent := 0,
        frames := s.printer.frames ++ [.pageStart j d 0 1 (s.page p).version (s.page p).width (s.page p).resolution false],
        sup := if s.printer.credits = 0 ∧ s.printer.paused = false then ⟨some .print, 0, false⟩ else ⟨none, 0, false⟩ })

/-- CANCEL-JOB (R79) of a send job with one destination that is on no line: the destination is reported CANCELLED, the job finishes
with its JOB-DONE report (R85), and its slot, its claims not in use and its place in the submission list are gone. -/
def Obligations.CancelJobEndsJob : Prop :=
  ∀ (s : State) (tag : Tag) (j : Fin 32) (d : Fin 64) (b : SendJob) (x : Dest) (doc : Document), s.takesOrder tag → s.noPrinting →
    s.noneOwed → s.link.reports.length ≤ 62 → s.job j = some ⟨d, .send b, none⟩ → b.dests = [x] →
    x.state = .queued ∨ x.state = .ready ∨ x.state = .held → s.doc d = some doc → doc.released = false →
    ∃ t, exec (.cancelJob tag (uint 1 j.val)) s = .next t ∧
      t.job j = none ∧ (∀ i, i ≠ j → t.job i = s.job i) ∧ t.jobs.order = s.jobs.order.filter (fun k => decide (k ≠ j)) ∧
      t.jobs.groups = s.jobs.groups ∧
      t.link.reports = s.link.reports ++
        [⟨.destResult j 0 x.number .cancelled .cancelled x.attempts b.attempts x.next x.oldVersion none none, s.link.gap⟩,
         ⟨.sendDone j d b.account 0 0 0 1, false⟩] ∧
      t.link.gap = false ∧
      t.link.replies = s.link.replies ++ [⟨tag, 26, .done []⟩] ∧
      t.store.claims = s.store.claims.filter (fun k => !(decide (k.holder = .dest j 0) && !k.inUse)) ∧
      t.doc d = some { doc with jobCount := doc.jobCount - 1 } ∧
      t.lines = s.lines ∧ t.routes = s.routes ∧ t.accounts = s.accounts ∧ t.charges = s.charges ∧ t.clock = s.clock

/-- RESTART (R210, with R26, R62, R89, R105, R124a, R125, R172, R189 and R202): every line with a call is RELEASING with reason
RESTART, jobs, documents, pages and claims are gone, tables and clock stay, and the report queue holds RESTARTED, and
RECORDS-WAITING where records are filled. The width and resolution of a FREE record, which Page.blank holds (log 5), and the sheet
number, page record, width and resolution of an IDLE channel, which Channel.idle holds (log 6), are the model's choice. So are what
an idle recoder and decoder hold (log 38), that the CREDIT frame of a channel that holds a START as well speaks of its sheet in
progress (log 41), and that PAGE-FINISH carries the job that is discarded (log 36). -/
def Obligations.RestartClearsWork : Prop :=
  ∀ (s : State) (tag : Tag), s.takesOrder tag → ∃ t, exec (.restart tag []) s = .next t ∧
    (∀ l, ((s.line l).releasable = true → (t.line l).state = .releasing ∧ (t.line l).lastReason = some .restart ∧
        (t.line l).guard = s.cfg.guardTime * 8000 ∧ (t.line l).admission = none ∧ (t.line l).receive = none ∧
        (t.line l).retiring = (s.line l).retiring) ∧
      ((s.line l).state = .ringing → (t.line l).state = if (s.line l).retiring then .retired else .idle) ∧
      ((s.line l).releasable = false → (s.line l).state ≠ .ringing → t.line l = s.line l) ∧
      (t.line l).settings = (s.line l).settings ∧ t.proc l = Proc.idle ∧
      ((s.line l).releasable = true → (s.line l).admission.isSome = true → (s.line l).answered = true →
        (t.meter l).running = false)) ∧
    (∀ j, t.job j = none) ∧ t.jobs.order = [] ∧ t.jobs.groups = s.jobs.groups ∧
    t.routes.entries = s.routes.entries ∧ t.routes.passing = false ∧ t.routes.rerun = false ∧ t.routes.candidates = [] ∧
    t.store.blocks = s.store.blocks ∧ t.store.freeList = List.range s.store.blocks ∧ (∀ p, t.page p = Page.blank) ∧
    (∀ d, t.doc d = none) ∧ t.store.claims = [] ∧
    (∀ c, t.channel c = Channel.idle) ∧ t.scan.coder = .idle ∧ t.scan.lastServed = 3 ∧
    (∀ c, (s.channel c).sheet ≠ .idle →
      fetch t.link.credits c = some ⟨(s.channel c).number, (s.channel c).expected, (s.channel c).expected, true⟩) ∧
    t.printer.phase = .idle ∧ t.printer.job = none ∧ t.printer.paused = false ∧
    (∀ (j : Fin 32) (d : Fin 64) (b : PrintJob) (w : Option Report), s.printer.phase = .printing → s.printer.job = some j →
      s.job j = some ⟨d, .print b, w⟩ → t.printer.frames = s.printer.frames ++
        [.pageFinish j b.slot b.copy s.printer.sent s.printer.substituted .cancelled]) ∧
    t.printer.credits = s.printer.credits ∧ t.printer.paperOut = s.printer.paperOut ∧
    t.clock = s.clock ∧ t.cfg = s.cfg ∧ t.profiles = s.profiles ∧ t.link.gap = false ∧
    (∀ a, (t.account a).total = (s.account a).total ∧ (t.account a).limit = (s.account a).limit) ∧
    s.charges.filled <+: t.charges.filled ∧
    t.link.reports.map QueuedReport.report =
      [.restarted .order s.store.blocks s.store.blocks (retiredLines t) t.charges.filled.length] ++
        (if t.charges.filled = [] then [] else [.recordsWaiting t.charges.filled.length 0]) ∧
    t.link.replies = s.link.replies ++ [⟨tag, 29, .done []⟩]

/-! ### The scan path -/

/-- SHEET_START (R49, R5) at an IDLE channel: bound to a document with room, it takes the lowest FREE page record, maps it at the
document's end with its claims (R14), grants credits up to line 4 (R51, R52) and waits under SCAN; an UNBOUND one is refused with
SCAN-FAULT and a stop (R61). With a replacement pending (R18, R19) the record taken is not mapped, names the slot to be replaced and
is one version on from the page that maps it. No outgoing call and no print job follows. -/
def Obligations.SheetStartTakesPage : Prop :=
  ∀ (s : State) (c : ChannelNo) (n : Byte) (w : Nat) (q : Resolution), s.link.bytes = [] → (s.channel c).sheet = .idle →
    let run := fun w : Nat => exec (.sheetStart (byteOf (c.val + 2)) ([n] ++ uint 2 w ++ uint 1 q.code)) s
    let started := fun (t : State) (p : Fin 256) (new : Replacement) =>
      t.channel c = { s.channel c with
        replacement := new, sheet := .active, number := n.toNat, page := p, width := w, resolution := q, expected := 0, limit := 4,
        staging := [], endEntry := none, truncate := false, stalled := false, coder := ⟨none, 0, 0⟩,
        sup := ⟨some .scan, 0, false⟩ } ∧
      (∀ e, e ≠ c → t.channel e = s.channel e) ∧
      t.link = { s.link with credits := store s.link.credits c (some ⟨n.toNat, 4, 0, false⟩) } ∧
      t.jobs = s.jobs ∧ t.lines = s.lines ∧ t.procs = s.procs ∧ t.printer = s.printer ∧ t.accounts = s.accounts
    (∀ (d : Fin 64) (x : Document) (p : Fin 256), w = 1024 ∨ w = 1536 ∨ w = 2048 → s.quiet → (s.channel c).binding = .bound d →
      (s.channel c).replacement = .none → s.doc d = some x → x.slots.length < 128 → s.store.nextPage p →
      ∃ t, run w = .next t ∧ started t p .none ∧
        t.store = { s.store with
          pages := store s.store.pages p ⟨.filling, some (d, x.slots.length), true, w, q, 0, 0, [], 0, false, false, 0⟩,
          docs := store s.store.docs d (some { x with slots := x.slots ++ [p] }),
          claims := s.store.claims ++ (docHolders d s).map (fun h => ⟨h, d, x.slots.length, p, false, false⟩) }) ∧
    (∀ (d : Fin 64) (k : Nat) (x : Document) (old p : Fin 256), w = 1024 ∨ w = 1536 ∨ w = 2048 → s.quiet →
      (s.channel c).binding ≠ .unbound → (s.channel c).replacement = .pending d k → s.doc d = some x → x.slots[k]? = some old →
      s.store.nextPage p →
      ∃ t, run w = .next t ∧ started t p (.filling d k p) ∧
        t.store = { s.store with
          pages := store s.store.pages p
            ⟨.filling, some (d, k), false, w, q, 0, 0, [], 0, false, false, ((s.page old).version + 1) % 256⟩ }) ∧
    (w = 1024 ∨ w = 1536 ∨ w = 2048 → (s.channel c).binding = .unbound → (s.channel c).replacement = .none →
      run w = .next (sendCredit c ⟨n.toNat, 0, 0, true⟩ (report (.scanFault c n.toNat .unbound none none false) s))) ∧
    (w < 65536 → w ≠ 1024 → w ≠ 1536 → w ≠ 2048 → (s.channel c).replacement = .none →
      run w = .next (sendCredit c ⟨n.toNat, 0, 0, true⟩
        (report (.scanFault c n.toNat .format (s.channel c).binding.doc? none false) s)))

/-- SHEET_END (R55) and SCAN_TIMEOUT (R59) stop a sheet: the channel is ENDING with the lines still to come in its end entry, its
credits withdrawn and its SCAN wait ended. A silent scanner is told to stop and SCAN-FAULT is reported. -/
def Obligations.SheetEndStopsLines : Prop :=
  ∀ (s : State) (c : ChannelNo),
    let x := s.channel c
    (∀ (n : Byte) (count : Nat), s.link.bytes = [] → count < 65536 →
      let run := exec (.sheetEnd (byteOf (c.val + 2)) ([n] ++ uint 2 count)) s
      let lines := if count = 0 ∧ x.expected = 0 then 1 else max x.expected (min count 4095)
      (x.sheet = .active → n.toNat = x.number →
        run = .next (s.setChannel c { x with
          sheet := .ending, endEntry := some (lines - x.expected), limit := x.expected, sup := ⟨none, 0, false⟩,
          truncate := x.truncate || decide (4095 < count) })) ∧
      (x.sheet ≠ .active ∨ n.toNat ≠ x.number → run = .next s)) ∧
    (x.sup.cls = some .scan → x.sup.suspended = false →
      exec (.scanTimeout c) s = .next (sendCredit c ⟨x.number, x.expected, x.expected, true⟩
        (report (.scanFault c x.number .scanTimeout x.binding.doc? ((s.page x.page).place.map (fun q => (q.2, x.page))) x.replacing)
          (s.setChannel c { x with
            sheet := .ending, endEntry := some (if x.expected = 0 then 1 else 0), limit := x.expected, sup := ⟨none, 0, false⟩,
            truncate := true }))))

/-- SHEET_ABORT (R56, R8) of a sheet whose page no claim has in use: SCAN-FAULT ABORTED is reported, the page's slot leaves the
document, its blocks join the free list's tail, its record is FREE (R17), the coder drops its work on a line of the channel (R33),
and the channel is IDLE. The width and resolution of a FREE record, which Page.blank holds (log 5), and the sheet number, page
record, width and resolution that the IDLE channel keeps (log 6) are the model's choice. -/
def Obligations.SheetAbortDiscardsPage : Prop :=
  ∀ (s : State) (c : ChannelNo) (n : Byte) (d : Fin 64) (x : Document) (k : Nat), s.link.bytes = [] → s.quiet →
    let y := s.channel c
    let p := y.page
    y.sheet ≠ .idle → n.toNat = y.number → y.heldStart = none → y.replacement = .none → y.binding = .bound d →
    s.doc d = some x → x.closePending = false → (s.page p).state = .filling → (s.page p).mapped = true →
    (s.page p).place = some (d, k) → (∀ e ∈ s.store.claims, e.page = p → e.inUse = false) →
    ∀ rest : List (Fin 256), x.slots = rest ++ [p] → p ∉ rest →
    ∃ t, exec (.sheetAbort (byteOf (c.val + 2)) [n]) s = .next t ∧
      t.channel c = { y with
        staging := [], endEntry := none, limit := y.expected, stalled := false, sup := ⟨none, 0, false⟩, coder := ⟨none, 0, 0⟩,
        sheet := .idle } ∧
      t.page p = Page.blank ∧ (∀ q, q ≠ p → t.page q = s.page q) ∧
      t.store.freeList = s.store.freeList ++ (s.page p).chain ∧ t.store.mem = s.store.mem ∧
      t.scan.coder = (match s.scan.coder with | .busy e i => if e = c then .idle else .busy e i | .idle => .idle) ∧
      t.doc d = some { x with slots := rest } ∧ (∀ e, e ≠ d → t.doc e = s.doc e) ∧
      t.store.claims = s.store.claims.filter (fun e => decide (e.page ≠ p)) ∧
      t.link.reports = (s.link.offer (.scanFault c y.number .aborted (some d) (some (k, p)) false)).reports ∧
      t.jobs = s.jobs ∧ t.lines = s.lines ∧ t.procs = s.procs ∧ t.printer = s.printer

/-- RASTER (R53): a line with a credit and the page's width is staged with the lines missing before it, and the grant condition of
R52 is looked at; a line number of 4095 or more sets truncate; every other RASTER changes nothing. -/
def Obligations.RasterStagesLine : Prop :=
  ∀ (s : State) (c : ChannelNo) (n : Byte) (line : Nat) (bits : List Byte), s.link.bytes = [] → line < 65536 →
    let x := s.channel c
    let run := exec (.raster (byteOf (c.val + 2)) ([n] ++ uint 2 line ++ bits)) s
    (x.sheet ≠ .active ∨ n.toNat ≠ x.number → run = .next s) ∧
    (x.sheet = .active → n.toNat = x.number → 4095 ≤ line → run = .next (s.setChannel c { x with truncate := true })) ∧
    (x.sheet = .active → n.toNat = x.number → line < 4095 → line < x.expected ∨ x.limit ≤ line ∨ bits.length * 8 ≠ x.width →
      run = .next s) ∧
    (x.sheet = .active → n.toNat = x.number → line < 4095 → x.expected ≤ line → line < x.limit → bits.length * 8 = x.width →
      let staged := x.staging ++ [⟨line, bits.flatMap byteBits, line - x.expected⟩]
      let grants := !x.stalled && decide (staged.length + (x.limit - (line + 1)) < 4 ∧ x.limit < 4095)
      let limit := if grants then min 4095 (line + 5 - staged.length) else x.limit
      let s' := s.setChannel c { x with
        staging := staged, expected := line + 1, limit := limit,
        sup := if x.sup.cls = some .scan then { x.sup with age := 0 } else x.sup }
      run = .next (if grants then sendCredit c ⟨x.number, limit, line + 1, false⟩ s' else s'))

/-- CODER_TURN (R33, R34, R54, R57, R58): with no channel waiting nothing happens; otherwise the first waiting channel after the
last served one is served. A line, or the substitute for a missing one, is coded and appended: it reads back behind what the page
held, and no other page's bytes change. Where its block is refused the channel stalls and STORE-LOW is reported. -/
def Obligations.CoderTurnServesChannel : Prop :=
  ∀ s : State,
    ((∀ c, (s.channel c).waiting = false) → exec .coderTurn s = .next s) ∧
    (∀ (c : ChannelNo) (e : Staged) (rest : List Staged), s.quiet →
      let x := s.channel c
      let g := s.page x.page
      (arbiterOrder s.scan.lastServed).find? (fun k => (s.channel k).waiting) = some c → x.staging = e :: rest →
      g.state = .filling →
      let raster := if 0 < e.missing then substituteRaster x.width x.coder.reference else e.raster
      let bytes := codeLine x.coder.anchor x.coder.reference true raster
      let fits := g.length + bytes.length ≤ g.chain.length * 2048
      (fits ∨ s.cfg.reserve < s.store.freeList.length → bytes.length ≤ 2048 → s.store.mem.wf = true → s.store.blocksKept →
        (∀ q, (s.page q).length ≤ (s.page q).chain.length * 2048) →
        ∃ t, exec .coderTurn s = .next t ∧ t.scan.lastServed = c ∧ t.scan.coder = .idle ∧
          (t.channel c).staging = (if 0 < e.missing then { e with missing := e.missing - 1 } :: rest else rest) ∧
          (t.channel c).coder = ⟨some raster, x.coder.index + 1,
            if s.cfg.anchorInterval ≤ x.coder.anchor + 1 then 0 else x.coder.anchor + 1⟩ ∧
          (t.page x.page).lines = g.lines + 1 ∧ (t.page x.page).length = g.length + bytes.length ∧
          (t.page x.page).substituted = g.substituted + (if 0 < e.missing then 1 else 0) ∧
          (∀ q, q ≠ x.page → t.page q = s.page q) ∧
          t.store.coded x.page = s.store.coded x.page ++ bytes ∧ (∀ q, q ≠ x.page → t.store.coded q = s.store.coded q) ∧
          t.store.claims = s.store.claims ∧ t.store.docs = s.store.docs ∧ t.jobs = s.jobs ∧ t.lines = s.lines) ∧
      (¬fits → s.store.freeList.length ≤ s.cfg.reserve →
        exec .coderTurn s = .next (report (.storeLow c s.store.freeList.length s.cfg.reserve)
          (({ s with scan := { s.scan with lastServed := c, coder := .idle } }).setChannel c { x with
            stalled := true, sup := if x.sheet = SheetState.active then { x.sup with suspended := true } else x.sup }))))

/-- CODER_TURN at the end of a sheet (R34, R60, R7): the page-end mark, the single byte 0xC3, is appended behind the page's lines,
in the chain's room or in a block taken from the head of the free list, and reads back there, while no other page that stays has its
bytes changed (the page memory being canonical, each block in one place, each page within its chain); the page is SEALED with the
channel's truncate flag, PAGE-SEALED is reported, and the channel is IDLE with an empty coder context. Where the block is refused
the channel stalls as for a line, and the mark waits. At the seal of a replacement (R19) the slot is remapped in the same step: the
old page is VOID without a place and keeps the claims in use, the others move to the new page, and where none is in use it is FREE
(R17). The sheet number, page record, width and resolution that the IDLE channel keeps (log 6) and the width and resolution of a
FREE record, which Page.blank holds (log 5), are the model's choice. -/
def Obligations.CoderTurnSealsPage : Prop :=
  ∀ (s : State) (c : ChannelNo) (d : Fin 64) (k : Nat) (x : Document), s.quiet →
    let y := s.channel c
    let g := s.page y.page
    (arbiterOrder s.scan.lastServed).find? (fun e => (s.channel e).waiting) = some c → y.staging = [] → y.endEntry = some 0 →
    y.heldStart = none → s.doc d = some x → x.closePending = false →
    x.slots ≠ [] → g.state = .filling → g.place = some (d, k) →
    let fits := g.length + 1 ≤ g.chain.length * 2048
    let kept := s.store.mem.wf = true ∧ s.store.blocksKept ∧ ∀ q, (s.page q).length ≤ (s.page q).chain.length * 2048
    let stored := fun (t : State) (chain : List Nat) (replaced : Option (Fin 256)) (binding : Binding) =>
      t.page y.page = { g with
        state := .sealed, mapped := true, length := g.length + 1, chain := chain, truncated := g.truncated || y.truncate } ∧
      (kept → t.store.coded y.page = s.store.coded y.page ++ [0xC3]) ∧
      t.link = s.link.offer (.pageSealed c y.number d k y.page g.version g.width g.resolution g.lines g.substituted (g.length + 1)
        (g.truncated || y.truncate) replaced) ∧
      t.channel c = { y with
        sheet := .idle, truncate := false, endEntry := none, coder := ⟨none, 0, 0⟩, replacement := .none, binding := binding } ∧
      t.scan.lastServed = c ∧ t.scan.coder = .idle ∧ t.jobs = s.jobs ∧ t.lines = s.lines ∧ t.procs = s.procs ∧
      t.printer = s.printer
    (∀ chain free : List Nat,
      (fits ∧ chain = g.chain ∧ free = s.store.freeList) ∨
        (¬fits ∧ s.cfg.reserve < s.store.freeList.length ∧ ∃ b, s.store.freeList = b :: free ∧ chain = g.chain ++ [b]) →
      (y.replacement = .none → y.binding = .bound d → g.mapped = true →
        ∃ t, exec .coderTurn s = .next t ∧ stored t chain none (.bound d) ∧ (∀ q, q ≠ y.page → t.page q = s.page q) ∧
          (kept → ∀ q, q ≠ y.page → t.store.coded q = s.store.coded q) ∧
          t.store.docs = s.store.docs ∧ t.store.claims = s.store.claims ∧ t.store.freeList = free) ∧
      (∀ old : Fin 256, y.replacement = .filling d k y.page → y.binding = .bound d ∨ y.binding = .replaceOnly d →
        g.mapped = false → x.slots[k]? = some old → old ≠ y.page → (s.page old).state = .sealed →
        (∀ e, (s.channel e).stalled = false) →
        let used := s.store.claims.any (fun e => decide (e.page = old ∧ e.inUse = true))
        ∃ t, exec .coderTurn s = .next t ∧ stored t chain (some old) (if y.binding = .bound d then .bound d else .unbound) ∧
          t.page old = (if used then { s.page old with state := .void, mapped := false, place := none } else Page.blank) ∧
          (∀ q, q ≠ y.page → q ≠ old → t.page q = s.page q) ∧
          (kept → ∀ q, q ≠ y.page → q ≠ old ∨ used = true → t.store.coded q = s.store.coded q) ∧
          t.doc d = some { x with slots := x.slots.set k y.page } ∧ (∀ e, e ≠ d → t.doc e = s.doc e) ∧
          t.store.claims = s.store.claims.map (fun e => if e.page = old ∧ e.inUse = false then { e with page := y.page } else e) ∧
          t.store.freeList = free ++ (if used then [] else (s.page old).chain))) ∧
    (¬fits → s.store.freeList.length ≤ s.cfg.reserve →
      exec .coderTurn s = .next (report (.storeLow c s.store.freeList.length s.cfg.reserve)
        (({ s with scan := { s.scan with lastServed := c, coder := .idle } }).setChannel c { y with
          stalled := true, sup := if y.sheet = SheetState.active then { y.sup with suspended := true } else y.sup })))

/-! ### Routes, admission and lines -/

/-- The match of a number (R93): the valid entry with the longest prefix of the number, the lowest index among equals. A BARRED
entry refuses exactly the numbers whose longest match it is; a longer prefix wins over a shorter one, barred or not; and of two
valid entries with the same prefix the higher index is matched by no number (R94). -/
def Obligations.LongestPrefixMatches : Prop :=
  (∀ (es : Table Route 48) (n : Number),
    let fits := fun i : Fin 48 => (fetch es i).valid = true ∧ (fetch es i).digits <+: n
    let longest := fun i : Fin 48 => fits i ∧ ∀ j, fits j →
      (fetch es j).digits.length < (fetch es i).digits.length ∨
        ((fetch es j).digits.length = (fetch es i).digits.length ∧ i ≤ j)
    (∀ i, matchEntry es n = some i ↔ longest i) ∧ (matchEntry es n = none ↔ ∀ i, ¬fits i) ∧
    (∀ s : State, s.routes.entries = es →
      (matchNumber n s = .barred ↔ ∃ i, longest i ∧ (fetch es i).barred = true) ∧
      (matchNumber n s = .noRoute ↔ ∀ i, ¬fits i) ∧
      ∀ i, matchNumber n s = .entry i ↔ longest i ∧ (fetch es i).barred = false) ∧
    (∀ i j, fits i → fits j → (fetch es j).digits.length < (fetch es i).digits.length → matchEntry es n ≠ some j)) ∧
  ∀ (es : Table Route 48) (i j : Fin 48), (fetch es i).valid = true → (fetch es j).valid = true →
    (fetch es i).digits = (fetch es j).digits → i < j → ∀ n, matchEntry es n ≠ some j

/-- ADMISSION_PASS and the trigger (R96, R98 to R102, R108). A trigger taken in IDLE starts a pass, which takes the READY
destinations of the ACTIVE send jobs as its candidates in the order of R99. A pass looks at its candidates; with one of them: it is
FAILED where its match gives NO-ROUTE or BARRED (said for a job that another destination keeps unfinished), HELD where its account
is OVER or BLOCKED, skipped where no room or no line is to be had, and passed over where it is no longer READY. The checks passed,
it is placed in one step on the first IDLE line in search order, with its charge place reserved and both counts raised, and the line
is SEIZED in SEIZE-PAUSE. With rerun set another pass starts at the end. That the pass runs in one step is the model's choice (log
23). -/
def Obligations.AdmissionPassPlaces : Prop :=
  (∀ s : State, s.routes.passing = false →
    let t := trigger s
    let ready := fun (c : Fin 32 × Nat) (b : SendJob) (x : Dest) =>
      (∃ doc, s.job c.1 = some ⟨doc, .send b, none⟩) ∧ b.dests[c.2]? = some x ∧ x.state = .ready
    t = { s with routes := { s.routes with passing := true, candidates := t.routes.candidates } } ∧
    (∀ c, c ∈ t.routes.candidates ↔ ∃ b x, ready c b x) ∧
    t.routes.candidates.Pairwise (fun c e => ∀ b x b' x', ready c b x → ready e b' x' →
      let age := (s.clock.elapsed - x.ready).toNat
      let age' := (s.clock.elapsed - x'.ready).toNat
      b'.priority < b.priority ∨ (b.priority = b'.priority ∧ (age' < age ∨ (age = age' ∧
        (c.1 < e.1 ∨ (c.1 = e.1 ∧ c.2 < e.2))))))) ∧
  ∀ (s : State) (j : Fin 32) (d : Nat) (doc : Fin 64) (b : SendJob) (x : Dest), s.noPrinting → s.routes.passing = true →
    s.routes.candidates = [(j, d)] → s.job j = some ⟨doc, .send b, none⟩ → b.dests[d]? = some x →
    let run := exec .admissionPass s
    let ended := fun t : State =>
      if s.routes.rerun then trigger { t with routes := { t.routes with passing := false, rerun := false } }
      else { t with routes := { t.routes with passing := false, candidates := [] } }
    let fails := fun why : Reason => (∃ y ∈ b.dests.eraseIdx d, y.state.isFinal = false) →
      let y : Dest := { x with state := .failed, reason := some why, line := none, eligible := none }
      ∃ t, run = .next (ended t) ∧ t.jobs = (s.setJob j (some ⟨doc, .send { b with dests := b.dests.set d y }, none⟩)).jobs ∧
        t.link.reports =
          (s.link.offer (.destResult j d x.number .failed why x.attempts b.attempts x.next x.oldVersion none none)).reports ∧
        t.store.claims = s.store.claims.filter (fun k => !(decide (k.holder = .dest j d) && !k.inUse)) ∧
        t.store.docs = s.store.docs ∧ t.routes = s.routes ∧ t.lines = s.lines ∧ t.charges = s.charges ∧
        t.accounts = s.accounts ∧ t.procs = s.procs ∧ t.slots = s.slots ∧ t.meters = s.meters ∧ t.clock = s.clock
    (x.state ≠ .ready → run = .next (ended s)) ∧
    (x.state = .ready → matchNumber x.number s = .noRoute → fails .noRoute) ∧
    (x.state = .ready → matchNumber x.number s = .barred → fails .barred) ∧
    (∀ i : Fin 48, x.state = .ready → matchNumber x.number s = .entry i →
      let r := fetch s.routes.entries i
      let a := s.account b.account
      let room := fetch s.routes.active i < r.limit ∧ s.charges.reserved.length + s.charges.filled.length < 32
      (a.isOver = true ∨ a.blocked = true →
        run = .next (ended (s.setJob j (some ⟨doc, .send { b with dests := b.dests.set d { x with state := .held } }, none⟩)))) ∧
      (a.isOver = false → a.blocked = false → ¬room ∨ (∀ l ∈ r.lines, (s.line l).state ≠ .idle) → run = .next (ended s)) ∧
      (∀ (k : Nat) (l : LineNo) (before after : List LineNo), a.isOver = false → a.blocked = false → room →
        (∃ pre post y, x.number = pre ++ .digit y :: post ∧ (∀ z, .digit z ∉ post) ∧ k = y.val) ∨
          ((∀ z, .digit z ∉ x.number) ∧ k = 0) →
        (match r.mode with
          | .inOrder => r.lines
          | .spread => r.lines.drop (k % r.lines.length) ++ r.lines.take (k % r.lines.length)) = before ++ l :: after →
        (s.line l).state = .idle → (∀ m ∈ before, (s.line m).state ≠ .idle) → (s.profile r.profile).seizePause ≠ 0 →
        ∃ t, run = .next (ended t) ∧
          t.line l = { s.line l with
            state := .seized, direction := some .outgoing, answered := false, part := .access, position := 0, breaks := 0,
            absence := 0, admission := some ⟨j, d, x.number, b.account, i, r.zone, r.profile, r.access⟩,
            blanking := (s.profile r.profile).blanking * 8,
            cadence := ⟨.seizePause, (s.profile r.profile).seizePause % 256, (s.profile r.profile).seizePause / 256, 0,
              (s.profile r.profile).unit * 8⟩ } ∧
          (∀ m, m ≠ l → t.line m = s.line m) ∧
          t.jobs = (s.setJob j (some ⟨doc, .send { b with
            dests := b.dests.set d { x with state := .onLine, attempts := x.attempts + 1, line := some l } }, none⟩)).jobs ∧
          t.account b.account = { a with active := a.active + 1 } ∧ (∀ e, e ≠ b.account → t.account e = s.account e) ∧
          t.charges = { s.charges with reserved := s.charges.reserved ++ [⟨l, j, d⟩] } ∧
          t.routes = { s.routes with active := store s.routes.active i (fetch s.routes.active i + 1) } ∧
          t.store = s.store ∧ t.link = s.link ∧ t.procs = s.procs ∧ t.meters = s.meters ∧ t.clock = s.clock ∧ t.cfg = s.cfg ∧
          t.scan = s.scan ∧ t.printer = s.printer ∧ t.slots = s.slots ∧ t.profiles = s.profiles))

/-- CADENCE_PHASE_END (R108, R111, R112) where no phase has a duration of 0: what follows each phase of dialling. Each phase reads
the profile at its start, its cadence unit included; a digit goes out as breaks or as a tone by the method read there, * and # as a
tone and P as a comma pause; the access digits come first, then the access pause, then the number. What the cursor shows in the
access pause, and that a call that becomes CONNECTED clears the cursor, is the model's choice (log 37), and so is what the recoder
and decoders of a context hold outside a page (log 38). -/
def Obligations.DialPhasesFollow : Prop :=
  ∀ (s : State) (l : LineNo) (a : Admission), (s.line l).admission = some a →
    let x := s.line l
    let p := s.profile a.profile
    let start := fun (y : Line) (ph : DialPhase) (d : Nat) =>
      ({ y with cadence := ⟨ph, d % 256, d / 256, 0, p.unit * 8⟩ } : Line)
    let run := exec (.cadencePhaseEnd l) s
    let begins := fun (y : Line) (z : Symbol) =>
      let tone := p.toneOn ≠ 0 → run = .next (s.setLine l (start y .toneOn p.toneOn))
      match z with
      | .digit d =>
        (p.method = .tone → tone) ∧
        (p.method = .pulse → p.breakTime ≠ 0 →
          run = .next (s.setLine l (start { y with breaks := if d = 0 then 10 else d.val } .breakOn p.breakTime)))
      | .star => tone
      | .hash => tone
      | .pause => p.commaPause ≠ 0 → run = .next (s.setLine l (start y .comma p.commaPause))
    (∀ (z : Symbol) (rest : Number), x.state = .seized → x.cadence.phase = .seizePause →
      (a.access = z :: rest → begins { x with state := .dialing, part := .access, position := 0 } z) ∧
      (a.access = [] → a.number = z :: rest → begins { x with state := .dialing, part := .number, position := 0 } z)) ∧
    (x.state = .dialing → x.cadence.phase = .breakOn → p.makeTime ≠ 0 →
      run = .next (s.setLine l (start { x with blanking := p.blanking * 8 } .makeOn p.makeTime))) ∧
    (x.state = .dialing → x.cadence.phase = .makeOn → 1 < x.breaks → p.breakTime ≠ 0 →
      run = .next (s.setLine l (start { x with breaks := x.breaks - 1 } .breakOn p.breakTime))) ∧
    (x.state = .dialing → x.cadence.phase = .makeOn → x.breaks = 1 → p.interdigit ≠ 0 →
      run = .next (s.setLine l (start { x with breaks := 0 } .interdigit p.interdigit))) ∧
    (x.state = .dialing → x.cadence.phase = .toneOn → p.toneOff ≠ 0 →
      run = .next (s.setLine l (start x .toneOff p.toneOff))) ∧
    (∀ (z : Symbol) (rest : Number), x.state = .dialing → x.cadence.phase = .accessPause → a.number = z :: rest →
      begins { x with part := .number, position := 0 } z) ∧
    (x.state = .dialing → x.cadence.phase = .toneOff ∨ x.cadence.phase = .interdigit ∨ x.cadence.phase = .comma →
      (∀ z : Symbol, x.part = .access → a.access[x.position + 1]? = some z → begins { x with position := x.position + 1 } z) ∧
      (x.part = .access → x.position + 1 = a.access.length → p.accessPause ≠ 0 →
        run = .next (s.setLine l (start { x with position := x.position + 1 } .accessPause p.accessPause))) ∧
      (∀ z : Symbol, x.part = .number → a.number[x.position + 1]? = some z → begins { x with position := x.position + 1 } z) ∧
      (x.part = .number → x.position + 1 = a.number.length →
        run = .next (((s.setLine l { x with
            state := .connected, part := .access, position := 0, breaks := 0, cadence := ⟨.none, 0, 0, 0, 0⟩ }).setProc l
          { Proc.idle with
            phase := .waitAbility, slot := (match s.dest a.job a.dest with | some d => d.next | none => 0),
            sup := ⟨some .answer, 0, false⟩ }).setSlot l { s.slot l with command := .receive, rate := 0 })))

/-- LINE_LOST (R114) and BUSY (R115) before the call is CONNECTED: the line is released (R119) with the reason, its charge place and
both counts are given back, and the attempt ends (R74): where attempts remain the destination is QUEUED for a retry and reported
(R78). That the release sets the dial cursor to ACCESS, 0, 0 and the stopped generator's counters to 0 is the model's choice (log
37). -/
def Obligations.LineLostOrBusyEndsAttempt : Prop :=
  ∀ (s : State) (l : LineNo) (a : Admission) (doc : Fin 64) (b : SendJob) (x : Dest), s.noPrinting →
    (s.line l).state = .seized ∨ (s.line l).state = .dialing → (s.line l).admission = some a → (s.line l).answered = false →
    s.job a.job = some ⟨doc, .send b, none⟩ → b.dests[a.dest]? = some x → x.state = .onLine → x.line = some l →
    x.attempts < b.attempts →
    let ended := fun (i : Instr) (why : Reason) => ∃ t, exec i s = .next t ∧
      t.line l = { s.line l with
        state := .releasing, direction := none, admission := none, receive := none, answered := false, part := .access,
        position := 0, breaks := 0, cadence := ⟨.none, 0, 0, 0, 0⟩, absence := 0, blanking := 0, guard := s.cfg.guardTime * 8000,
        lastReason := some why } ∧
      (∀ m, m ≠ l → t.line m = s.line m) ∧
      t.charges = { s.charges with reserved := s.charges.reserved.filter (fun r => decide (r.line ≠ l)) } ∧
      t.account a.account = { s.account a.account with active := (s.account a.account).active - 1 } ∧
      fetch t.routes.active a.entry = fetch s.routes.active a.entry - 1 ∧ t.routes.passing = true ∧
      (let y : Dest := { x with
          state := .queued, line := none, reason := some why, eligible := some (s.clock.elapsed + BitVec.ofNat 32 b.delay),
          next := if b.policy = .whole then 0 else x.next }
       t.dest a.job a.dest = some y ∧
       t.link = s.link.offer (.destResult a.job a.dest x.number .queued why x.attempts b.attempts y.next x.oldVersion (some (l, 0))
         y.eligible)) ∧
      (t.slot l).out = [] ∧ (t.slot l).command = .rest ∧ t.store = s.store ∧ t.meters = s.meters ∧ t.procs = s.procs
    ended (.lineLost l) .lineLost ∧ ended (.busy l) .busy

/-- GUARD_TIME_END (R120), RINGING_EPISODE_END (R116), ANSWER_BLANKING_END (R118, R142) and LOOP_CURRENT_CHANGE (R113). That
GUARD_TIME_END and RINGING_EPISODE_END change nothing on a line in another state is the model's deduction (log 34), and what the
recoder and decoders of a context hold outside a page is its choice (log 38). -/
def Obligations.LineEventsEnd : Prop :=
  ∀ (s : State) (l : LineNo),
    let x := s.line l
    let ended := { x with
      state := if x.retiring then .retired else .idle, retiring := false, onCount := 0, gapCount := 0, rings := 0, refused := false,
      guard := 0 }
    let free := (.next (if x.retiring then s.setLine l ended else trigger (s.setLine l ended)) : Host.Outcome State Fault Refusal)
    (x.state = .releasing → exec (.guardTimeEnd l) s = free) ∧ (x.state ≠ .releasing → exec (.guardTimeEnd l) s = .next s) ∧
    (x.state = .ringing → exec (.ringingEpisodeEnd l) s = free) ∧
    (x.state ≠ .ringing → exec (.ringingEpisodeEnd l) s = .next s) ∧
    (x.state = .answering →
      let m : Message := .ability ⟨s.cfg.maxWidth, s.cfg.fine, s.cfg.delta, s.cfg.maxRate, 0, s.cfg.stationName⟩
      exec (.answerBlankingEnd l) s = .next (((s.setLine l { x with state := .connected, blanking := 0 }).setProc l
        { Proc.idle with phase := .waitChoice, role := .called, lastMessage := some m, sup := ⟨some .message, 0, false⟩ }).setSlot l
          { s.slot l with command := .receive, rate := 0, out := (s.slot l).out ++ m.bytes.map .byte ++ [.endMessage] })) ∧
    (∀ b : Bool,
      let s' := s.setSlot l { s.slot l with loopPresent := b }
      exec (.loopCurrentChange l b) s = .next (
        if b = true ∧ (x.state = .seized ∨ x.state = .dialing ∨ x.state = .answering ∨ x.state = .connected)
        then s'.setLine l { x with absence := 0 } else s'))

/-- RING_PRESENT, RING_INTERVAL_START and RING_END (R116 to R118): ring current starts and continues an episode; an interval long
enough counts as a ring; at the answer-after count a line that may answer takes a RECEIVE job, a RECEIVED document and a held page,
reports CALL-IN and is ANSWERING. Where a condition fails, the first of the five in their order being the cause, the line stays
RINGING and RING-REFUSED is reported, once in an episode. -/
def Obligations.RingsAndAnswer : Prop :=
  ∀ (s : State) (l : LineNo) (frames : Nat),
    let x := s.line l
    let up := s.setSlot l { s.slot l with ringPresent := true }
    let down := s.setSlot l { s.slot l with ringPresent := false }
    let rung := { x with onCount := 0, gapCount := 1, rings := min 255 (x.rings + 1) }
    let isRing := x.state = .ringing ∧ 0 < x.onCount ∧ s.cfg.ringOnMinimum * 8 ≤ x.onCount + frames
    let first := { x with state := .ringing, rings := 0, refused := false, onCount := 1, gapCount := 0 }
    let more := { x with onCount := x.onCount + 1, gapCount := 0 }
    let fails : RingCause → Prop
      | .retiring => x.retiring = true
      | .store => x.retiring = false ∧ s.store.freeList.length ≤ s.cfg.reserve
      | .noJob => x.retiring = false ∧ s.cfg.reserve < s.store.freeList.length ∧ ∀ j, s.job j ≠ none
      | .noDocument => x.retiring = false ∧ s.cfg.reserve < s.store.freeList.length ∧ (∃ j, s.job j = none) ∧ ∀ d, s.doc d ≠ none
      | .noPage => x.retiring = false ∧ s.cfg.reserve < s.store.freeList.length ∧ (∃ j, s.job j = none) ∧ (∃ d, s.doc d = none) ∧
          ∀ p, (s.page p).state = .free → s.store.isHeld p = true
    (x.state = .idle → exec (.ringPresent l) s = .next (up.setLine l first) ∧
      exec (.ringIntervalStart l) s = .next (up.setLine l first)) ∧
    (x.state = .ringing → exec (.ringPresent l) s = .next (up.setLine l more) ∧
      exec (.ringIntervalStart l) s = .next (up.setLine l more)) ∧
    (x.state = .ringing → 0 < x.onCount → x.onCount + frames < s.cfg.ringOnMinimum * 8 →
      exec (.ringEnd l frames) s = .next (down.setLine l { x with onCount := 0, gapCount := 1 })) ∧
    (isRing → x.settings.answerAfter = 0 ∨ rung.rings < x.settings.answerAfter →
      exec (.ringEnd l frames) s = .next (down.setLine l rung)) ∧
    (∀ why, isRing → 0 < x.settings.answerAfter → x.settings.answerAfter ≤ rung.rings → fails why →
      exec (.ringEnd l frames) s = .next (
        if x.refused = true then down.setLine l rung
        else report (.ringRefused l rung.rings why) (down.setLine l { rung with refused := true }))) ∧
    (∀ (j : Fin 32) (d : Fin 64) (p : Fin 256), isRing → 0 < x.settings.answerAfter → x.settings.answerAfter ≤ rung.rings →
      x.retiring = false → x.settings.copies = 0 → s.cfg.reserve < s.store.freeList.length → s.noPrinting →
      s.job j = none → (∀ i, i < j → s.job i ≠ none) → s.doc d = none → (∀ e, e < d → s.doc e ≠ none) → s.store.nextPage p →
      j ∉ s.jobs.order → (s.profile 0).blanking ≠ 0 →
      exec (.ringEnd l frames) s = .next (report (.callIn l rung.rings j d) { down.setLine l { rung with
          state := .answering, direction := some .incoming, receive := some (j, d), answered := false, gapCount := 0, rings := 0,
          refused := false, absence := 0, blanking := (s.profile 0).blanking * 8 } with
        jobs := { s.jobs with slots := store s.jobs.slots j (some ⟨d, .receive ⟨l, false, none⟩, none⟩), order := s.jobs.order ++ [j] },
        store := { s.store with
          docs := store s.store.docs d (some ⟨.received l, true, false, [], [], some p, false, 1⟩) } }))

/-! ### The call procedure -/

/-- ABILITY, TRIAL_GOOD and TRIAL_BAD at a caller (R131 to R135, R184). A taken ABILITY sets answered, starts the meter under the
cell in effect, and brings CHOICE and TRIAL for the first page, the recoder mode fixed with the CHOICE; TRIAL-GOOD begins the page
that maps the slot then, in that mode, and puts its claim in use; TRIAL-BAD brings the next lower rate, and at rate 1 a CLOSE with
reason NO-RATE. That a page begun by TRIAL-GOOD keeps the mode of its CHOICE where a replacement was sealed between the two is the
model's reading of R133 (log 18), what the idle recoder holds besides its mode is its choice (log 38), and that the release waits in
the slot until the CLOSE is handed over is its deduction (log 27). -/
def Obligations.CallerTakesAbilityAndTrial : Prop :=
  ∀ (s : State) (l : LineNo) (a : Admission), s.noPrinting → (s.line l).admission = some a → (s.slot l).closing = none →
    let x := s.proc l
    (∀ (ab : Abilities) (job : Job) (doc : Document) (p : Fin 256), x.phase = .waitAbility → x.settings.rate = 0 →
      ab.maxWidth = 1024 ∨ ab.maxWidth = 1536 ∨ ab.maxWidth = 2048 → 1 ≤ ab.maxRate → ab.maxRate ≤ 6 → ab.lineTime ≤ 4 →
      ab.name.length ≤ 20 → s.job a.job = some job → s.doc job.doc = some doc → doc.slots[x.slot]? = some p →
      (s.page p).state = .sealed → (s.page p).width ≤ ab.maxWidth →
      let g := s.page p
      let cell := fetch s.clock.active (cellIndex s.clock.band a.zone)
      let units := if cell.whole = 0 then cell.setup else cell.setup + 1
      let meter : Meter := ⟨true, false, 0, 0, 0, 0, a.zone, a.account, s.clock.day, s.clock.second⟩
      let c : Settings := ⟨g.width, if g.resolution = .fine ∧ ab.fine = false then .standard else g.resolution, ab.delta,
        min s.cfg.maxRate ab.maxRate, ab.lineTime⟩
      ∃ t, exec (.ability l (uint 2 ab.maxWidth ++ flag ab.fine ++ flag ab.delta ++ uint 1 ab.maxRate ++ uint 1 ab.lineTime ++
          text ab.name)) s = .next t ∧
        t.lines = store s.lines l { s.line l with answered := true } ∧
        t.meters = store s.meters l { meter.reload cell with units := BitVec.ofNat 32 units } ∧
        (t.account a.account).total = (if units = 0 then (s.account a.account).total
          else min 16777215 ((s.account a.account).total + units)) ∧
        t.proc l = { x with
          phase := .waitTrial, remote := some ab, settings := c, page := some p,
          recoder := { Recoder.idle with
            mode := if g.resolution = .fine ∧ ab.fine = false then .halve else if ab.delta = false then .plainOnly else .pass,
            delta := ab.delta },
          lastMessage := some (.choice c s.cfg.stationName), sup := ⟨some .message, 0, false⟩ } ∧
        (t.slot l).out = (s.slot l).out ++ (Message.choice c s.cfg.stationName).bytes.map .byte ++ [.endMessage, .trial c.rate] ∧
        t.store = s.store ∧ t.jobs = s.jobs ∧ t.routes = s.routes ∧ t.charges = s.charges ∧ t.clock = s.clock) ∧
    (∀ (job : Job) (p : Fin 256), x.phase = .waitTrial → s.job a.job = some job →
      s.store.slotPage job.doc x.slot = some p →
      ∃ t, exec (.trialGood l []) s = .next t ∧
        (t.proc l).phase = .sending ∧ (t.proc l).page = some p ∧ (t.proc l).sends = max 1 x.sends ∧
        (t.proc l).settings = x.settings ∧ (t.proc l).recoder.active = true ∧ (t.proc l).recoder.page = p ∧
        (t.proc l).recoder.mode = x.recoder.mode ∧ (t.proc l).recoder.delta = x.recoder.delta ∧
        (t.slot l).command = .sendData ∧ (t.slot l).rate = x.settings.rate ∧ (t.slot l).out = (s.slot l).out ∧
        t.store = { s.store with claims := s.store.claims.map (fun k =>
          if k.holder = .dest a.job a.dest ∧ k.slot = x.slot ∧ k.withdrawn = false then { k with inUse := true } else k) } ∧
        t.lines = s.lines ∧ t.jobs = s.jobs ∧ t.meters = s.meters ∧ t.link = s.link) ∧
    (x.phase = .waitTrial → 1 < x.settings.rate →
      let c := { x.settings with rate := x.settings.rate - 1 }
      exec (.trialBad l []) s = .next ((s.setProc l { x with
          settings := c, lastMessage := some (.choice c s.cfg.stationName), sup := ⟨some .message, 0, false⟩ }).setSlot l
        { s.slot l with
          out := (s.slot l).out ++ (Message.choice c s.cfg.stationName).bytes.map .byte ++ [.endMessage, .trial c.rate] })) ∧
    (x.phase = .waitTrial → x.settings.rate ≤ 1 → s.store.usedClaim (.dest a.job a.dest) = none →
      exec (.trialBad l []) s = .next ((s.setProc l { Proc.idle with endReason := some .noRate }).setSlot l
        { s.slot l with
          out := (s.slot l).out ++ [.byte 8, .byte 5, .endMessage],
          closing := some ⟨.noRate, x.delivered, (match x.remote with | some ab => ab.name | none => [])⟩ }))

/-- CHOICE and TRIAL_QUALITY at a called station (R143, R144). A CHOICE that can be met sets the settings, and the call's first one
takes the held page record for slot 0 and the caller's name; one that cannot be met draws the own ABILITY again; the trial quality
brings TRIAL-GOOD or TRIAL-BAD. -/
def Obligations.CalledTakesChoiceAndTrial : Prop :=
  ∀ (s : State) (l : LineNo),
    let x := s.proc l
    (∀ (c : Settings) (name : Name) (j : Fin 32) (d : Fin 64) (doc : Document) (p : Fin 256), s.quiet → x.phase = .waitChoice →
      (s.line l).receive = some (j, d) → s.doc d = some doc → doc.held = some p → doc.slots = [] → (s.page p).state = .free →
      c.width = 1024 ∨ c.width = 1536 ∨ c.width = 2048 → c.width ≤ s.cfg.maxWidth → (c.resolution = .standard ∨ s.cfg.fine = true) →
      (c.delta = false ∨ s.cfg.delta = true) → 1 ≤ c.rate → c.rate ≤ 6 → c.rate ≤ s.cfg.maxRate → c.lineTime ≤ 4 →
      name.length ≤ 20 →
      ∃ t, exec (.choice l (uint 2 c.width ++ uint 1 c.resolution.code ++ flag c.delta ++ uint 1 c.rate ++ uint 1 c.lineTime ++
          text name)) s = .next t ∧
        t.proc l = { x with
          phase := .judging, settings := c, slot := 0, page := some p, sup := ⟨some .message, 0, false⟩ } ∧
        t.slot l = { s.slot l with command := .receive, rate := 0 } ∧
        t.page p = ⟨.filling, some (d, 0), true, c.width, c.resolution, 0, 0, [], 0, false, false, 0⟩ ∧
        (∀ q, q ≠ p → t.page q = s.page q) ∧
        t.doc d = some { doc with slots := [p], remoteName := name, held := none } ∧
        t.store.freeList = s.store.freeList ∧ t.store.mem = s.store.mem ∧ t.lines = s.lines ∧ t.jobs = s.jobs ∧ t.link = s.link) ∧
    (∀ (c : Settings) (name : Name), s.noPrinting → x.phase = .waitChoice → c.width < 65536 → s.cfg.maxWidth < c.width →
      c.rate < 256 → c.lineTime < 256 → name.length ≤ 20 → x.sup = ⟨some .message, 0, false⟩ →
      let m : Message := .ability ⟨s.cfg.maxWidth, s.cfg.fine, s.cfg.delta, s.cfg.maxRate, 0, s.cfg.stationName⟩
      exec (.choice l (uint 2 c.width ++ uint 1 c.resolution.code ++ flag c.delta ++ uint 1 c.rate ++ uint 1 c.lineTime ++
          text name)) s =
        .next ((s.setSlot l { s.slot l with out := (s.slot l).out ++ m.bytes.map .byte ++ [.endMessage] }).setProc l
          { x with lastMessage := some m })) ∧
    (x.phase = .judging →
      exec (.trialQuality l true) s =
        .next ((s.setSlot l { s.slot l with out := (s.slot l).out ++ [.byte 3, .endMessage] }).setProc l
          { x with phase := .waitData, lastMessage := some .trialGood, sup := ⟨some .data, 0, false⟩ }) ∧
      exec (.trialQuality l false) s =
        .next ((s.setSlot l { s.slot l with out := (s.slot l).out ++ [.byte 4, .endMessage] }).setProc l
          { x with phase := .waitChoice, lastMessage := some .trialBad, sup := ⟨some .message, 0, false⟩ }))

/-- PAGE_DATA_BYTE_SEND and MESSAGE_BYTE_SEND (R41 to R46, R135, R136, R214). Page data goes out under SEND-DATA at the rate in
force: the bytes of the line in hand, then the next line as the recoder sends it in its mode, padded, then the page-end mark, zero
bytes while the page is awaited, and after the mark of a CLOSED document's last page PAGE-END LAST. Messages in hand go out in order
and before page data (log 33), and SEND-DATA comes back after them. The model hands over one item in a frame (log 33); RECEIVE with
nothing in hand and the commands held between items are its choice (log 15), and so is the coding of the next line in the step that
hands over the last byte of the line before it, with the anchor interval of that step (log 42). -/
def Obligations.BytesGoOut : Prop :=
  ∀ (s : State) (l : LineNo),
    let x := s.proc l
    let r := x.recoder
    let h := s.slot l
    let data := fun b : Byte =>
      s.setSlot l { h with handed := true, dataByte := some b, command := .sendData, rate := x.settings.rate }
    let runs := fun t : State => exec (.pageDataByteSend l) s = .next t
    (h.handed = true → runs s ∧ exec (.messageByteSend l) s = .next s) ∧
    (h.handed = false → h.out = [] → x.phase = .sending →
      (∀ (b b' : Byte) (rest : List Byte), r.buffer = b :: b' :: rest →
        runs ((data b).setProc l { x with recoder := { r with buffer := b' :: rest } })) ∧
      (r.buffer = [] → runs (data 0)) ∧
      (∀ b : Byte, r.buffer = [b] → r.atEnd = false →
        let line := fun (d : Decoder) (y : DecodedLine) =>
          let coded := match r.mode with
            | .pass => if y.good then y.bytes else codeLine r.anchor r.sendReference false y.raster
            | .plainOnly => codeLine r.anchor r.sendReference false y.raster
            | .halve => codeLine r.anchor r.sendReference r.delta y.raster
          let time := match x.settings.lineTime with | 1 => 5 | 2 => 10 | 3 => 20 | 4 => 40 | _ => 0
          let pad := (2400 * x.settings.rate * time + 7999) / 8000 - coded.length
          runs ((data b).setProc l { x with
            recoder := { r with
              decoder := d, buffer := coded ++ List.replicate pad 0, sendReference := some y.raster, sent := r.sent + 1,
              anchor := if s.cfg.anchorInterval ≤ r.anchor + 1 then 0 else r.anchor + 1, waiting := false },
            sup := ⟨none, 0, false⟩ })
        (∀ (d : Decoder) (y : DecodedLine), s.store.nextLine r.page r.decoder = (d, .line y) →
          r.mode ≠ .halve ∨ y.index % 2 = 0 → line d y) ∧
        (∀ (d e : Decoder) (y z : DecodedLine), r.mode = .halve → s.store.nextLine r.page r.decoder = (d, .line y) →
          y.index % 2 = 1 → s.store.nextLine r.page d = (e, .line z) → z.index % 2 = 0 → line e z) ∧
        (∀ d : Decoder, s.store.nextLine r.page r.decoder = (d, .finished) →
          runs ((data b).setProc l { x with
            recoder := { r with decoder := d, buffer := [0xC3], atEnd := true, waiting := false }, sup := ⟨none, 0, false⟩ })) ∧
        (∀ d : Decoder, s.store.nextLine r.page r.decoder = (d, .waiting) →
          runs ((data b).setProc l { x with
            recoder := { r with decoder := d, buffer := [], waiting := true }, sup := ⟨some .page, 0, false⟩ }))) ∧
      (∀ (b : Byte) (a : Admission) (job : Job) (doc : Document) (p : Fin 256), r.buffer = [b] → r.atEnd = true →
        (s.line l).admission = some a → x.page = some p → s.job a.job = some job → s.doc job.doc = some doc →
        doc.isOpen = false → doc.slots.length ≤ x.slot + 1 →
        runs ((s.setSlot l { h with
            handed := true, dataByte := some b, command := .sendData, rate := x.settings.rate,
            out := [.byte 5, .byte 2, .endMessage] }).setProc l
          { x with
            phase := .waitVerdict, pageEnd := some .last, lastMessage := some (.pageEnd .last),
            recoder := { r with buffer := [] }, sup := ⟨some .message, 0, false⟩ }))) ∧
    (h.handed = false →
      (∀ (b : Byte) (rest : List OutItem), h.out = .byte b :: rest →
        let t := s.setSlot l { h with out := rest, handed := true, dataByte := some b, command := .sendMessage, rate := 0 }
        runs t ∧ exec (.messageByteSend l) s = .next t) ∧
      (∀ rest : List OutItem, h.out = .endMessage :: rest →
        let t := s.setSlot l { h with out := rest, handed := true, command := .endMessage, rate := 0 }
        runs t ∧ exec (.messageByteSend l) s = .next t) ∧
      (∀ (k : Nat) (rest : List OutItem), h.out = .trial k :: rest →
        let t := s.setSlot l { h with out := rest, handed := true, command := .sendTrial, rate := k }
        runs t ∧ exec (.messageByteSend l) s = .next t) ∧
      (h.out = [] → (s.line l).state = .connected →
        exec (.messageByteSend l) s = .next (s.setSlot l (
          if x.phase = .sending then { h with command := .sendData, rate := x.settings.rate }
          else { h with command := .receive, rate := 0 }))))

/-- PAGE_DATA_BYTE, PAGE_DATA_END and PAGE_END at a called station (R9, R40, R145, R146, R148). A byte inside a line only moves the
decoder; a good line is appended with the bits after its last code 0, a bad one as its substitute, each in the chain or with one
block more; with no block left the call is closed STORE-FULL and the page discarded. The end of the page data appends the page-end
mark. A page within the accept limit is SEALED with verdict GOOD. One beyond it is refilled with verdict RESEND: its chain joins the
free list's tail and may pass the free count above the reserve, the record keeps all but its lines, length, substitutes and DAMAGED,
and the checker stands at line 0. The anchor position that moves on with each stored line is the model's deduction (log 16), that a
release waits in the slot until its CLOSE is handed over another (log 27), and what the recoder and decoders of an IDLE context hold
its choice (log 38). A line cut off by the end of the page data, and the second page of a call, have no clause. -/
def Obligations.ReceivedPageIsStored : Prop :=
  ∀ (s : State) (l : LineNo) (p : Fin 256),
    let x := s.proc l
    let g := s.page p
    x.page = some p → g.state = .filling →
    (∀ b : Byte, x.phase = .receiving → (x.checker.decoder.feed b).2 = .none →
      exec (.pageDataByte l b) s =
        .next (s.setProc l { x with checker := { x.checker with decoder := (x.checker.decoder.feed b).1 } })) ∧
    (∀ (b : Byte) (y : DecodedLine) (kind : LineKind), x.phase = .receiving → (x.checker.decoder.feed b).2 = .line y →
      (y.good = true → y.kind = some kind) → y.index < 4095 →
      let bytes := if y.good then codedLine kind y.runs else codeLine x.checker.anchor (some y.raster) false y.raster
      let stored := fun (chain freeList : List Nat) => ∃ t, exec (.pageDataByte l b) s = .next t ∧
        t.proc l = { x with
          checker := ⟨(x.checker.decoder.feed b).1,
            if s.cfg.anchorInterval ≤ x.checker.anchor + 1 then 0 else x.checker.anchor + 1⟩,
          bad := if y.good then x.bad else x.bad + 1,
          sup := if x.sup.cls = some .data then { x.sup with age := 0 } else x.sup } ∧
        t.page p = { g with
          chain := chain, lines := g.lines + 1, length := g.length + bytes.length,
          substituted := g.substituted + (if y.good then 0 else 1) } ∧
        (∀ q, q ≠ p → t.page q = s.page q) ∧
        (∀ k, k < bytes.length → s.store.mem.wf = true → chain.Nodup → g.length + bytes.length ≤ chain.length * 2048 →
          t.store.pageByte p (g.length + k) = bytes.getD k 0) ∧
        (∀ k, s.store.mem.wf = true → (∀ i, i < bytes.length → pageAddress chain (g.length + i) ≠ k) →
          t.memoryByte k = s.memoryByte k) ∧
        t.store.freeList = freeList ∧ t.store.claims = s.store.claims ∧ t.store.docs = s.store.docs ∧ t.lines = s.lines ∧
        t.slots = s.slots ∧ t.link = s.link
      (g.length + bytes.length ≤ g.chain.length * 2048 → stored g.chain s.store.freeList) ∧
      (∀ (n : Nat) (rest : List Nat), g.chain.length * 2048 < g.length + bytes.length → s.store.freeList = n :: rest →
        stored (g.chain ++ [n]) rest) ∧
      (s.quiet → g.chain.length * 2048 < g.length + bytes.length → s.store.freeList = [] →
        (∀ k ∈ s.store.claims, k.page = p → k.inUse = false) →
        ∃ t, exec (.pageDataByte l b) s = .next t ∧ t.proc l = { Proc.idle with endReason := some .storeFull } ∧
          t.slot l = { s.slot l with
            out := (s.slot l).out ++ [.byte 8, .byte 14, .endMessage], closing := some ⟨.storeFull, 0, []⟩ } ∧
          t.page p = Page.blank ∧ t.lines = s.lines)) ∧
    (x.phase = .receiving → x.checker.decoder.line = none → g.length + 1 ≤ g.chain.length * 2048 →
      ∃ t, exec (.pageDataEnd l) s = .next t ∧
        t.proc l = { x with phase := .waitPageEnd, sup := ⟨some .message, 0, false⟩ } ∧
        t.page p = { g with length := g.length + 1 } ∧ (∀ q, q ≠ p → t.page q = s.page q) ∧
        (s.store.mem.wf = true → t.store.pageByte p g.length = 0xC3) ∧
        t.lines = s.lines ∧ t.slots = s.slots ∧ t.link = s.link) ∧
    (x.phase = .waitPageEnd → s.quiet → x.bad ≤ s.cfg.acceptLimit → g.mapped = true →
      let judged := fun (code : Byte) (kind : PageEndKind) (phase : Phase) (c : TimeoutClass) =>
        ∃ t, exec (.pageEnd l [code]) s = .next t ∧
          t.page p = { g with state := .sealed } ∧ (∀ q, q ≠ p → t.page q = s.page q) ∧
          t.proc l = { x with
            phase := phase, slot := x.slot + 1, page := none, pageEnd := some kind, delivered := x.delivered + 1, resends := 0,
            bad := 0, lastMessage := some (.verdict .good), lastVerdict := some .good, sup := ⟨some c, 0, false⟩ } ∧
          (t.slot l).out = (s.slot l).out ++ [.byte 6, .byte 0, .endMessage] ∧ t.store.claims = s.store.claims ∧
          t.store.docs = s.store.docs ∧ t.lines = s.lines ∧ t.jobs = s.jobs
      judged 0 .next .waitData .data ∧ judged 1 .new .waitChoice .message) ∧
    (∀ k : Byte, k.toNat ≤ 2 → x.phase = .waitPageEnd → s.noPrinting → s.cfg.acceptLimit < x.bad → x.resends < 2 →
      ∃ t, exec (.pageEnd l [k]) s = .next t ∧
        t.page p = { g with chain := [], lines := 0, length := 0, substituted := 0, damaged := false } ∧
        (∀ q, q ≠ p → t.page q = s.page q) ∧ t.store.freeList = s.store.freeList ++ g.chain ∧
        (∀ c, (t.channel c).stalled = ((s.channel c).stalled &&
          !decide (s.store.freeList.length ≤ s.cfg.reserve ∧ s.cfg.reserve < s.store.freeList.length + g.chain.length))) ∧
        (t.proc l).phase = .waitData ∧ (t.proc l).resends = x.resends + 1 ∧ (t.proc l).bad = 0 ∧ (t.proc l).page = some p ∧
        (t.proc l).slot = x.slot ∧ (t.proc l).checker = ⟨⟨x.settings.width, none, 0, 0, false, none, false⟩, 0⟩ ∧
        (t.proc l).lastVerdict = some .resend ∧ (t.proc l).sup = ⟨some .data, 0, false⟩ ∧
        (t.slot l).out = (s.slot l).out ++ [.byte 6, .byte 1, .endMessage] ∧ t.store.claims = s.store.claims ∧
        t.store.docs = s.store.docs ∧ t.store.mem = s.store.mem ∧ t.lines = s.lines ∧ t.jobs = s.jobs)

/-- VERDICT_GOOD and VERDICT_RESEND (R15, R16, R133, R135, R137 to R139). A GOOD verdict counts the page; its claim is dropped under
RESUME and kept under WHOLE. After PAGE-END LAST the call closes DELIVERED; after NEXT or NEW it closes CUT-CREDIT where the account
is OVER under CUT, and otherwise the next page begins at once under the settings in force, or CHOICE and TRIAL go out for it. A
RESEND keeps the claim; within the resend limit the page goes out again, one rate lower by CHOICE and TRIAL or at rate 1 at once,
and beyond it the call closes PAGE-REFUSED. How the settings in force are held against a page is the model's reading (log 18), what
the recoder of an IDLE context holds is its choice (log 38), and that the release waits in the slot until the CLOSE is handed over
its deduction (log 27). -/
def Obligations.VerdictsAreTaken : Prop :=
  ∀ (s : State) (l : LineNo) (a : Admission) (doc : Fin 64) (b : SendJob) (x : Dest) (p : Fin 256), s.noPrinting →
    let y := s.proc l
    let c : Claim := ⟨.dest a.job a.dest, doc, y.slot, p, true, false⟩
    let name := match y.remote with | some ab => ab.name | none => []
    let closed := fun (t : State) (why : Reason) (delivered : Nat) =>
      t.proc l = { Proc.idle with endReason := some why } ∧
      t.slot l = { s.slot l with
        out := (s.slot l).out ++ [.byte 8, .byte (byteOf why.code), .endMessage], closing := some ⟨why, delivered, name⟩ }
    let unused := s.store.claims.map (fun k => if k = c then { c with inUse := false } else k)
    let used := if b.policy = .resume then s.store.claims.filter (fun k => decide (k ≠ c)) else unused
    let began := fun (ks : List Claim) (slot : Nat) => ks.map (fun k =>
      if k.holder = .dest a.job a.dest ∧ k.slot = slot ∧ k.withdrawn = false then { k with inUse := true } else k)
    let rest := fun t : State =>
      t.lines = s.lines ∧ t.meters = s.meters ∧ t.accounts = s.accounts ∧ t.charges = s.charges ∧ t.link = s.link
    let cut := (s.account a.account).isOver = true ∧ (s.account a.account).policy = .cut
    y.phase = .waitVerdict → (s.line l).admission = some a → s.job a.job = some ⟨doc, .send b, none⟩ →
    b.dests[a.dest]? = some x → x.state = .onLine → c ∈ s.store.claims →
    (∀ k ∈ s.store.claims, k.holder = .dest a.job a.dest → k.inUse = true → k = c) → (s.page p).state = .sealed →
    (s.page p).mapped = true →
    (y.pageEnd = some .last →
      ∃ t, exec (.verdictGood l []) s = .next t ∧ closed t .delivered (y.delivered + 1) ∧
        t.dest a.job a.dest = some { x with next := x.next + 1 } ∧ t.store = { s.store with claims := used } ∧ rest t) ∧
    (y.pageEnd = some .next ∨ y.pageEnd = some .new → cut →
      ∃ t, exec (.verdictGood l []) s = .next t ∧ closed t .cutCredit (y.delivered + 1) ∧
        t.dest a.job a.dest = some { x with next := x.next + 1 } ∧ t.store = { s.store with claims := used } ∧ rest t) ∧
    (s.cfg.resendLimit < y.sends →
      ∃ t, exec (.verdictResend l []) s = .next t ∧ closed t .pageRefused y.delivered ∧ t.jobs = s.jobs ∧
        t.store = { s.store with claims := unused } ∧ rest t) ∧
    (y.sends ≤ s.cfg.resendLimit → cut →
      ∃ t, exec (.verdictResend l []) s = .next t ∧ closed t .cutCredit y.delivered ∧ t.jobs = s.jobs ∧
        t.store = { s.store with claims := unused } ∧ rest t) ∧
    (∀ (ab : Abilities) (dd : Document) (q : Fin 256), y.remote = some ab → s.doc doc = some dd → ¬cut →
      let g := s.page q
      let sent := if g.resolution = .fine ∧ ab.fine = false then .standard else g.resolution
      let same := y.settings.width = g.width ∧ y.settings.resolution = sent
      let mode : RecodeMode :=
        if g.resolution = .fine ∧ ab.fine = false then .halve else if ab.delta = false then .plainOnly else .pass
      let sends := fun (t : State) (slot : Nat) (ks : List Claim) =>
        (t.proc l).phase = .sending ∧ (t.proc l).page = some q ∧ (t.proc l).slot = slot ∧ (t.proc l).settings = y.settings ∧
        (t.proc l).recoder.active = true ∧ (t.proc l).recoder.page = q ∧ (t.proc l).recoder.mode = mode ∧
        (t.proc l).recoder.delta = ab.delta ∧
        t.slot l = { s.slot l with command := .sendData, rate := y.settings.rate } ∧
        t.store = { s.store with claims := began ks slot } ∧ rest t
      let asks := fun (t : State) (slot rate : Nat) (ks : List Claim) =>
        let settings : Settings := ⟨g.width, sent, ab.delta, rate, ab.lineTime⟩
        (t.proc l).phase = .waitTrial ∧ (t.proc l).page = some q ∧ (t.proc l).slot = slot ∧ (t.proc l).settings = settings ∧
        (t.proc l).recoder = { Recoder.idle with mode := mode, delta := ab.delta } ∧
        (t.proc l).sup = ⟨some .message, 0, false⟩ ∧
        t.slot l = { s.slot l with
          out := (s.slot l).out ++ (Message.choice settings s.cfg.stationName).bytes.map .byte ++ [.endMessage, .trial rate] } ∧
        t.store = { s.store with claims := ks } ∧ rest t
      (dd.slots[y.slot + 1]? = some q → g.state = .sealed →
        (y.pageEnd = some .next → same →
          ∃ t, exec (.verdictGood l []) s = .next t ∧ sends t (y.slot + 1) used ∧ (t.proc l).sends = 1 ∧
            (t.proc l).delivered = y.delivered + 1 ∧ t.dest a.job a.dest = some { x with next := x.next + 1 }) ∧
        (y.pageEnd = some .new ∨ (y.pageEnd = some .next ∧ ¬same) → g.width ≤ ab.maxWidth → y.settings.rate ≠ 0 →
          ∃ t, exec (.verdictGood l []) s = .next t ∧ asks t (y.slot + 1) y.settings.rate used ∧ (t.proc l).sends = 0 ∧
            (t.proc l).delivered = y.delivered + 1 ∧ t.dest a.job a.dest = some { x with next := x.next + 1 })) ∧
      (dd.slots[y.slot]? = some q → y.sends ≤ s.cfg.resendLimit →
        (1 < y.settings.rate → g.width ≤ ab.maxWidth →
          ∃ t, exec (.verdictResend l []) s = .next t ∧ asks t y.slot (y.settings.rate - 1) unused ∧
            (t.proc l).sends = y.sends + 1 ∧ (t.proc l).delivered = y.delivered ∧ t.jobs = s.jobs) ∧
        (y.settings.rate = 1 → same →
          ∃ t, exec (.verdictResend l []) s = .next t ∧ sends t y.slot unused ∧ (t.proc l).sends = y.sends + 1 ∧
            (t.proc l).delivered = y.delivered ∧ t.jobs = s.jobs) ∧
        (y.settings.rate = 1 → ¬same → g.width ≤ ab.maxWidth →
          ∃ t, exec (.verdictResend l []) s = .next t ∧ asks t y.slot 1 unused ∧ (t.proc l).sends = y.sends + 1 ∧
            (t.proc l).delivered = y.delivered ∧ t.jobs = s.jobs)))

/-- CLOSE, CLOSE_HANDED and the line timeouts (R119, R140, R149, R154 to R156, R187, R199): how calls end. A release leaves the line
RELEASING with its reason and guard time; an answered call's meter stops and its charge record is filled. A timeout under MESSAGE,
DATA or PAGE sends CLOSE with reason TIMEOUT, and the release follows once it has been handed over; but a called station in
WAIT-CLOSE ends DELIVERED and is released at once. That a release sets the dial cursor to ACCESS, 0, 0 and the stopped generator's
counters to 0 is the model's choice (log 37), and so is what the IDLE context's recoder and decoders hold (log 38); that a context
is IDLE from its CLOSE on while the release waits in the slot for the CLOSE to be handed over is the model's deduction (log 27), and
that CLOSE_HANDED releases the line also where bytes of the CLOSE are still to be handed over is its choice (log 52). -/
def Obligations.CallsEnd : Prop :=
  ∀ (s : State) (l : LineNo), (s.line l).state = .connected →
    let x := s.proc l
    let name := match x.remote with | some ab => ab.name | none => []
    let released := fun (t : State) (why : Reason) (delivered : Nat) (name : Name) =>
      t.line l = { s.line l with
        state := .releasing, direction := none, admission := none, receive := none, answered := false, part := .access,
        position := 0, breaks := 0, cadence := ⟨.none, 0, 0, 0, 0⟩, absence := 0, blanking := 0, guard := s.cfg.guardTime * 8000,
        lastReason := some why } ∧
      (t.slot l).out = [] ∧ (t.slot l).command = .rest ∧ (t.slot l).closing = none ∧ t.clock = s.clock ∧ t.cfg = s.cfg ∧
      (∀ a, (s.line l).admission = some a →
        (t.account a.account).active = (s.account a.account).active - 1 ∧
        fetch t.routes.active a.entry = fetch s.routes.active a.entry - 1 ∧
        t.charges.reserved = s.charges.reserved.filter (fun r => decide (r.line ≠ l)) ∧
        ((s.line l).answered = true → t.meter l = { s.meter l with running := false } ∧
          t.charges.filled = s.charges.filled ++ [⟨a.account, a.job, a.dest, a.number, a.entry, a.zone, l, (s.meter l).answerDay,
            (s.meter l).answerSecond, (s.meter l).seconds, (s.meter l).units, why, delivered, name⟩]) ∧
        ((s.line l).answered = false → t.meters = s.meters ∧ t.charges.filled = s.charges.filled))
    let closing := fun (t : State) (r : ReleaseRequest) =>
      t.proc l = { Proc.idle with endReason := some .timeout } ∧ t.line l = s.line l ∧
      t.slot l = { s.slot l with out := (s.slot l).out ++ [.byte 8, .byte 3, .endMessage], closing := some r }
    (∀ r : ReleaseRequest, (s.slot l).closing = some r →
      ∃ t, exec (.closeHanded l) s = .next t ∧ released t r.reason r.delivered r.name ∧ t.procs = s.procs) ∧
    (∀ why : Byte, x.phase ≠ .idle → x.role = .caller →
      ∃ t, exec (.close l [why]) s = .next t ∧ released t .remoteClose x.delivered name ∧
        t.proc l = { Proc.idle with endReason := some .remoteClose }) ∧
    (∀ why : Byte, x.phase ≠ .idle → x.role = .called → (s.line l).admission = none →
      let how := if x.lastVerdict = some .good ∧ x.pageEnd = some .last then Reason.delivered else .remoteClose
      ∃ t, exec (.close l [why]) s = .next t ∧ released t how 0 [] ∧ t.proc l = { Proc.idle with endReason := some how }) ∧
    (x.sup.cls = some .answer →
      ∃ t, exec (.answerTimeout l) s = .next t ∧ released t .noAnswer x.delivered name ∧
        t.proc l = { Proc.idle with endReason := some .noAnswer }) ∧
    (x.sup.cls = some .message → x.role = .caller →
      ∃ t, exec (.messageTimeout l) s = .next t ∧ closing t ⟨.timeout, x.delivered, name⟩) ∧
    (x.sup.cls = some .message → x.role = .called → (s.line l).admission = none →
      (x.phase ≠ .waitClose → ∃ t, exec (.messageTimeout l) s = .next t ∧ closing t ⟨.timeout, 0, []⟩) ∧
      (x.phase = .waitClose → ∃ t, exec (.messageTimeout l) s = .next t ∧ released t .delivered 0 [] ∧
        t.proc l = { Proc.idle with endReason := some .delivered })) ∧
    (x.sup.cls = some .page → ∃ t, exec (.pageTimeout l) s = .next t ∧ closing t ⟨.timeout, x.delivered, name⟩) ∧
    (x.sup.cls = some .data → (s.line l).admission = none →
      ∃ t, exec (.dataTimeout l) s = .next t ∧ closing t ⟨.timeout, 0, []⟩)

/-- WAIT and MESSAGE_CHECK_ERROR (R127, R128, R153, R215) and CLASS_TICK (R150 to R152, R59). A message that fails its check or its
layout (its code, its length, its flags, its resolution, its station name, its PAGE-END kind or its VERDICT) changes nothing, under
the message's own command as behind MESSAGE_CHECK_ERROR; a WAIT sets the age of a MESSAGE wait to 0. A tick sets its class's counter
to 0 and ages every unsuspended wait of the class that has not come to its third tick; an aged MESSAGE wait repeats the last message
in the phases of R129, an aged PAGE wait says WAIT (R132, R136), and an aged SCAN wait repeats its CREDIT. The third tick times the
wait out: the one line that holds the class is left as its timeout's own command leaves it. That a WAIT-CHOICE entered by TRIAL-BAD
repeats an ABILITY or a VERDICT sent since is the model's choice (log 40). -/
def Obligations.WaitsAndTicks : Prop :=
  (∀ (s : State) (l : LineNo) (bytes : List Byte),
    exec (.messageCheckError l true bytes) s = .next s ∧
    ((∀ b rest, bytes = b :: rest → b = 0 ∨ 8 < b.toNat) → exec (.messageCheckError l false bytes) s = .next s) ∧
    (bytes = [] → exec (.messageCheckError l false bytes) s = .next s) ∧
    (let checked := fun code : Byte => exec (.messageCheckError l false (code :: bytes)) s = .next s
     (bytes ≠ [] →
       exec (.trialGood l bytes) s = .next s ∧ exec (.trialBad l bytes) s = .next s ∧ exec (.wait l bytes) s = .next s ∧
       exec (.verdictGood l bytes) s = .next s ∧ exec (.verdictResend l bytes) s = .next s ∧
       checked 3 ∧ checked 4 ∧ checked 7) ∧
     ((∀ (w v a b r t n : Byte) (name : List Byte), bytes = [w, v, a, b, r, t, n] ++ name →
         1 < a.toNat ∨ 1 < b.toNat ∨ 20 < n.toNat ∨ n.toNat ≠ name.length) →
       exec (.ability l bytes) s = .next s ∧ exec (.choice l bytes) s = .next s ∧ checked 1 ∧ checked 2) ∧
     ((∀ k, bytes = [k] → 2 < k.toNat) → exec (.pageEnd l bytes) s = .next s ∧ checked 5) ∧
     ((∀ v, bytes = [v] → 1 < v.toNat) → checked 6) ∧
     (bytes.length ≠ 1 → exec (.close l bytes) s = .next s ∧ checked 8)) ∧
    (s.noPrinting → (s.proc l).phase ≠ .idle →
      exec (.wait l []) s = .next (s.setProc l { s.proc l with
        sup := if (s.proc l).sup.cls = some .message then { (s.proc l).sup with age := 0 } else (s.proc l).sup }))) ∧
  (∀ (s : State) (k : TimeoutClass), k = .answer ∨ k = .message ∨ k = .data ∨ k = .page →
    (∀ l, (s.proc l).sup.cls = some k → (s.proc l).sup.age < 2) →
    let again := fun l : LineNo => match k, (s.proc l).phase, (s.proc l).lastMessage, (s.proc l).lastVerdict with
      | .message, .waitTrial, some (.choice c n), _ =>
        (Message.choice c n).bytes.map OutItem.byte ++ [.endMessage, .trial c.rate]
      | .message, .waitVerdict, some (.pageEnd e), _ => (Message.pageEnd e).bytes.map OutItem.byte ++ [.endMessage]
      | .message, .waitChoice, some (.ability a), _ => (Message.ability a).bytes.map OutItem.byte ++ [.endMessage]
      | .message, .waitChoice, some (.verdict v), _ => (Message.verdict v).bytes.map OutItem.byte ++ [.endMessage]
      | .message, .waitClose, _, some v => (Message.verdict v).bytes.map OutItem.byte ++ [.endMessage]
      | .page, .waitFirst, _, _ => [.byte 7, .endMessage]
      | .page, .holding, _, _ => [.byte 7, .endMessage]
      | _, _, _, _ => []
    ∃ t, exec (.classTick k) s = .next t ∧ t.ticks = store s.ticks (TimeoutClass.index k) 0 ∧ t.lines = s.lines ∧
      ∀ l, (t.proc l).phase = (s.proc l).phase ∧
        (t.proc l).sup =
          (if (s.proc l).sup.cls = some k then { (s.proc l).sup with age := (s.proc l).sup.age + 1 } else (s.proc l).sup) ∧
        t.slot l =
          (if (s.proc l).sup.cls = some k then { s.slot l with out := (s.slot l).out ++ again l } else s.slot l)) ∧
  (∀ (s : State) (l : LineNo) (k : TimeoutClass), (s.proc l).sup.cls = some k → 2 ≤ (s.proc l).sup.age →
    (∀ m, m ≠ l → (s.proc m).sup.cls ≠ some k) →
    let s' := { s with ticks := store s.ticks (TimeoutClass.index k) 0 }
    match k with
    | .answer => exec (.classTick .answer) s = exec (.answerTimeout l) s'
    | .message => exec (.classTick .message) s = exec (.messageTimeout l) s'
    | .data => exec (.classTick .data) s = exec (.dataTimeout l) s'
    | .page => exec (.classTick .page) s = exec (.pageTimeout l) s'
    | _ => True) ∧
  (∀ s : State, (∀ c, (s.channel c).sup.cls = some .scan → (s.channel c).sup.suspended = false → (s.channel c).sup.age < 2) →
    ∃ t, exec (.classTick .scan) s = .next t ∧ t.ticks = store s.ticks 4 0 ∧ t.store = s.store ∧ t.procs = s.procs ∧
      ∀ c,
        let x := s.channel c
        let aged := x.sup.cls = some .scan ∧ x.sup.suspended = false
        t.channel c = (if aged then { x with sup := { x.sup with age := x.sup.age + 1 } } else x) ∧
        fetch t.link.credits c = if aged then some ⟨x.number, x.limit, x.expected, false⟩ else fetch s.link.credits c) ∧
  (∀ s : State, s.printer.sup.cls = some .print → s.printer.sup.age < 2 →
    exec (.classTick .print) s = .next { s with
      ticks := store s.ticks 5 0,
      printer := { s.printer with sup := { s.printer.sup with age := s.printer.sup.age + 1 } } })

/-! ### The print path and the transmitter -/

/-- PRINTER_CREDIT, PRINTER_FRAME_SENT and PRINT_TIMEOUT (R161, R164, R158, R168): credits join those held up to 16 and end PAUSED
with a report; a line ready goes out as the frame in hand for one credit; a silent printer is PAUSED and reported. When the frame in
hand has left, the next line is decoded, a bad one counting as substituted, and goes out for a credit or waits under PRINT. At the
end of the page (R165) PAGE-FINISH COMPLETE is handed over, the claim's use ends with success (R15) and the cursor moves on: with
the document OPEN the channel waits for the next page (R162), and after the last page of the last copy of a CLOSED one the job is
complete and finishes (R65, R171). That the decoder's width, substituted and lines sent are 0 without a page is the model's choice
(log 38). -/
def Obligations.PrinterCreditsPaceLines : Prop :=
  ∀ s : State,
    let x := s.printer
    let fill := fun n : Byte => min 16 (x.credits + n.toNat)
    (s.link.bytes = [] → exec (.printerCredit 6 [0]) s = .next { s with printer := { x with credits := min 16 x.credits } }) ∧
    (∀ n : Byte, s.link.bytes = [] → s.noPrinting → n ≠ 0 →
      let s' := { s with printer := { x with credits := fill n, paused := false, sup := ⟨none, 0, false⟩ } }
      exec (.printerCredit 6 [n]) s =
        .next (if x.paused then report (.printState false .silent none none (x.ready.map (fun r => r.1))) s' else s')) ∧
    (∀ (n : Byte) (i : Nat) (r : Raster), s.link.bytes = [] → n ≠ 0 → x.phase = .printing → x.stopping = false → x.paused = false →
      x.ready = some (i, r) → x.frames = [] →
      exec (.printerCredit 6 [n]) s = .next { s with printer := { x with
        credits := fill n - 1, frames := [.printLine i r], ready := none, sent := x.sent + 1, sup := ⟨none, 0, false⟩ } }) ∧
    (∀ (f : PrinterFrame) (i : Nat) (r : Raster), x.started = true → x.frames = [f] → x.phase = .printing → x.stopping = false →
      x.ready = some (i, r) → 0 < x.credits →
      exec .printerFrameSent s = .next { s with printer := { x with
        started := false, credits := x.credits - 1, frames := [.printLine i r], ready := none, sent := x.sent + 1,
        sup := ⟨none, 0, false⟩ } }) ∧
    (∀ (f : PrinterFrame) (rest : List PrinterFrame), x.started = true → x.frames = f :: rest → s.noPrinting → x.stopping = false →
      exec .printerFrameSent s = .next { s with printer := { x with started := false, frames := rest } }) ∧
    (∀ (f : PrinterFrame) (p : Fin 256) (d : Decoder) (y : DecodedLine), x.started = true → x.frames = [f] →
      x.phase = .printing → x.stopping = false → x.ready = none → x.page = some p →
      s.store.nextLine p x.decoder = (d, .line y) →
      let bad := x.substituted + (if y.good then 0 else 1)
      exec .printerFrameSent s = .next { s with printer :=
        if x.credits = 0 then { x with
          started := false, frames := [], decoder := d, ready := some (y.index, y.raster), substituted := bad,
          sup := if x.paused = true ∨ x.sup.cls = some .print then x.sup else ⟨some .print, 0, false⟩ }
        else { x with
          started := false, frames := [.printLine y.index y.raster], decoder := d, ready := none, substituted := bad,
          credits := x.credits - 1, sent := x.sent + 1, sup := ⟨none, 0, false⟩ } }) ∧
    (∀ (f : PrinterFrame) (p : Fin 256) (e : Decoder) (j : Fin 32) (d : Fin 64) (b : PrintJob) (doc : Document),
      x.started = true → x.frames = [f] → x.phase = .printing → x.stopping = false → x.ready = none → x.page = some p →
      s.store.nextLine p x.decoder = (e, .finished) → x.job = some j → s.job j = some ⟨d, .print b, none⟩ →
      (∀ i, i ≠ j → s.printJob i = none) → j ∈ s.jobs.order → b.priority ≤ 3 → s.doc d = some doc →
      doc.slots.length = b.slot + 1 →
      let c : Claim := ⟨.print j, d, b.slot, p, true, false⟩
      c ∈ s.store.claims → (∀ k ∈ s.store.claims, k.holder = .print j → k.inUse = true → k = c) →
      (s.page p).state = .sealed → (s.page p).mapped = true →
      let left : PrintChannel := { x with
        phase := .idle, job := none, page := none, decoder := .start 0, ready := none, substituted := 0, sent := 0, started := false,
        frames := [.pageFinish j b.slot b.copy x.sent x.substituted .complete], sup := ⟨none, 0, false⟩ }
      (doc.isOpen = true →
        exec .printerFrameSent s = .next { s with
          printer := { left with phase := .waitPage, job := some j },
          jobs := { s.jobs with slots := store s.jobs.slots j (some ⟨d, .print { b with slot := b.slot + 1 }, none⟩) },
          store := { s.store with claims :=
            if b.copies ≤ b.copy then s.store.claims.filter (fun k => decide (k ≠ c))
            else s.store.claims.map (fun k => if k = c then { c with inUse := false } else k) } }) ∧
      (doc.isOpen = false → b.copies ≤ b.copy → b.copies ≤ b.completed + 1 → b.autoRelease = false → doc.released = false →
        s.noneOwed → s.link.reports.length < 64 →
        ∃ t, exec .printerFrameSent s = .next t ∧ t.printer = left ∧ t.job j = none ∧ (∀ i, i ≠ j → t.job i = s.job i) ∧
          t.jobs.order = s.jobs.order.filter (fun k => decide (k ≠ j)) ∧
          t.doc d = some { doc with jobCount := doc.jobCount - 1 } ∧
          t.store.claims = s.store.claims.filter (fun k => decide (k.holder ≠ .print j)) ∧
          t.link.reports = s.link.reports ++ [⟨.printDone j d (b.completed + 1) b.cancelled, s.link.gap⟩] ∧
          t.lines = s.lines ∧ t.accounts = s.accounts ∧ t.charges = s.charges)) ∧
    (x.sup.cls = some .print →
      exec .printTimeout s = .next (report (.printState true .silent x.job s.printPlace (x.ready.map (fun r => r.1)))
        { s with printer := { x with paused := true, sup := ⟨none, 0, false⟩ } }))

/-- PAPER_OUT and PAPER_READY (R163, R166, R167): PAPER-OUT drops every credit, and in PRINTING gives the page up, to be printed
again from its first line: the claim in use ends its use without success, and stays on its page, moves to the page now mapping the
slot where its page is VOID (R20), or is dropped where it is withdrawn (R15). PAPER-READY reports, and the head of the queue begins
its page with PAGE-START, marked as a reprint where a page was lost. Each is reported once. That the decoder's width, substituted and
lines sent are 0 without a page (log 38), and that frames of the lost page already in hand stay there to be sent (log 53), is the
model's choice. -/
def Obligations.PaperStatesAreTaken : Prop :=
  ∀ s : State, s.link.bytes = [] →
    let x := s.printer
    (x.paperOut = true → exec (.paperOut 6 []) s = .next s) ∧ (x.paperOut = false → exec (.paperReady 6 []) s = .next s) ∧
    (x.paperOut = false → x.phase ≠ .printing →
      exec (.paperOut 6 []) s = .next (report (.printState true .paperOut x.job none none)
        { s with printer := { x with paperOut := true, credits := 0, paused := false, sup := ⟨none, 0, false⟩ } })) ∧
    (s.noPrinting → x.paperOut = true →
      exec (.paperReady 6 []) s =
        .next (report (.printState false .paperOut none none none) { s with printer := { x with paperOut := false } })) ∧
    (∀ (j : Fin 32) (d : Fin 64) (b : PrintJob) (doc : Document) (p : Fin 256), s.job j = some ⟨d, .print b, none⟩ →
      (∀ i, i ≠ j → s.printJob i = none) → j ∈ s.jobs.order → b.priority ≤ 3 → s.doc d = some doc → doc.slots[b.slot]? = some p →
      (s.page p).state = .sealed →
      (∀ (r : Fin 256) (w : Bool), x.paperOut = false → x.phase = .printing → x.job = some j → x.stopping = false →
        let c : Claim := ⟨.print j, d, b.slot, r, true, w⟩
        c ∈ s.store.claims → (∀ k ∈ s.store.claims, k.holder = .print j → k.inUse = true → k = c) →
        let claims :=
          if w then s.store.claims.filter (fun k => decide (k ≠ c))
          else s.store.claims.map (fun k =>
            if k = c then { c with page := if (s.page r).state = .void then p else r, inUse := false } else k)
        ∃ t, exec (.paperOut 6 []) s = .next t ∧
          t.printer = { x with
            phase := .waitPage, page := none, decoder := .start 0, ready := none, substituted := 0, sent := 0, credits := 0,
            paperOut := true, paused := false, sup := ⟨none, 0, false⟩ } ∧
          t.jobs = { s.jobs with slots := store s.jobs.slots j (some ⟨d, .print { b with lost := true }, none⟩) } ∧
          t.link.reports = (s.link.offer (.printState true .paperOut (some j) (some (b.copy, b.slot)) none)).reports ∧
          t.store.claims = claims ∧ t.store.docs = s.store.docs ∧ t.store.mem = s.store.mem ∧
          ((s.page r).mapped = true → t.store = { s.store with claims := claims }) ∧
          ((s.page r).state = .void → (s.page r).mapped = false → r ≠ p → (∀ k ∈ s.store.claims, k.page = r → k = c) →
            t.page r = Page.blank ∧ t.store.freeList = s.store.freeList ++ (s.page r).chain) ∧
          t.lines = s.lines ∧ t.accounts = s.accounts ∧ t.charges = s.charges) ∧
      (x.paperOut = true → x.phase = .waitPage →
        let start : PrinterFrame :=
          .pageStart j d b.slot b.copy (s.page p).version (s.page p).width (s.page p).resolution b.lost
        let resumed := s.link.offer (.printState false .paperOut (some j) none none)
        (∃ t, exec (.paperReady 6 []) s = .next t ∧ t.printer.paperOut = false ∧ (x.frames ++ [start]) <+: t.printer.frames ∧
          resumed.reports <+: t.link.reports ∧ t.lines = s.lines ∧ t.accounts = s.accounts ∧ t.charges = s.charges) ∧
        (∀ (e : Decoder) (y : DecodedLine), s.store.nextLine p (Decoder.start (s.page p).width) = (e, .line y) →
          exec (.paperReady 6 []) s = .next { s with
            link := resumed,
            jobs := { s.jobs with slots := store s.jobs.slots j (some ⟨d, .print { b with lost := false }, none⟩) },
            store := { s.store with claims := s.store.claims.map (fun k =>
              if k.holder = .print j ∧ k.slot = b.slot ∧ k.withdrawn = false then { k with inUse := true } else k) },
            printer := { x with
              paperOut := false, phase := .printing, job := some j, page := some p, decoder := e,
              ready := some (y.index, y.raster), substituted := if y.good then 0 else 1, sent := 0,
              frames := x.frames ++ [start],
              sup := if x.credits = 0 ∧ x.paused = false then ⟨some .print, 0, false⟩ else ⟨none, 0, false⟩ } })))

/-- TRANSMIT_SELECT (R208, R209): the head of the reply queue goes first, then the CREDIT frame of the lowest station, then the
printer frame in hand, then the head of the report queue, each in the frame layout of R211. A reply that leaves makes room for the
order at the head of the order queue (R205): one that waits alone does then what its own command does, one of several is answered
and the others wait on, and a repeat places its copy; that this falls in the same step is the model's choice (log 11). The payloads
of REPLY, CREDIT, the printer frames and REPORT are laid out as R212 and R213 have it, with the fields of R209's table in its order
and the codes of R206, R209, R212 and R215 by their places; a field that only some reports of a kind carry stands behind a presence
byte, and the widths R212 leaves to inference and the places of the presence bytes are the model's deductions (log 13). -/
def Obligations.TransmitSelectsInOrder : Prop :=
  (∀ s : State,
    let sent := fun (s' : State) (dst kind : Byte) (payload : List Byte) =>
      ({ s' with link := { s'.link with sending := some (frameBytes dst 0 kind payload) } } : State)
    (∀ (r : Reply) (rest : List Reply), s.link.replies = r :: rest →
      let gone := fun es : List OrderEntry => sent { s with link := { s.link with replies := rest, orders := es } } 1 9 r.bytes
      (s.link.orders = [] ∨ s.link.inHand.isSome = true ∨ 4 ≤ rest.length →
        exec .transmitSelect s = .next (sent { s with link := { s.link with replies := rest } } 1 9 r.bytes)) ∧
      (s.link.inHand = none → rest.length < 4 →
        (∀ (c : Instr) (o : Order), s.link.orders = [.order o] → orderOfCommand c = some o →
          (∀ t q, s.link.last = some (t, q) → t ≠ o.tag) → exec .transmitSelect s = exec c (gone [])) ∧
        (∀ (o : Order) (es : List OrderEntry), s.link.orders = .order o :: es → rest.length = 3 →
          ∃ t a, exec .transmitSelect s = .next t ∧ t.link.replies = rest ++ [⟨o.tag, o.code, a⟩] ∧ t.link.orders = es ∧
            t.link.inHand = none ∧ t.link.last = some (o.tag, ⟨o.tag, o.code, a⟩) ∧ t.link.sending = (gone es).link.sending) ∧
        (∀ (tag : Tag) (q : Reply) (es : List OrderEntry), s.link.orders = .again tag q :: es → rest.length = 3 →
          exec .transmitSelect s = .next (
            { gone es with link := { (gone es).link with replies := rest ++ [q] } })))) ∧
    (s.link.replies = [] →
      (∀ (c : ChannelNo) (f : CreditFrame), fetch s.link.credits c = some f → (∀ e, e < c → fetch s.link.credits e = none) →
        exec .transmitSelect s = .next (sent { s with link := { s.link with credits := store s.link.credits c none } }
          (byteOf (c.val + 2)) 3 f.bytes)) ∧
      ((∀ c, fetch s.link.credits c = none) →
        (∀ (f : PrinterFrame) (rest : List PrinterFrame), s.printer.frames = f :: rest → s.printer.started = false →
          exec .transmitSelect s = .next (sent { s with printer := { s.printer with started := true } } 6
            (match f with | .pageStart .. => 4 | .printLine .. => 5 | .pageFinish .. => 6) f.bytes)) ∧
        (s.printer.frames = [] ∨ s.printer.started = true →
          (∀ (q : QueuedReport) (rest : List QueuedReport), s.link.reports = q :: rest →
            (∀ (j : Fin 32) (x : Job), s.job j = some x → x.waiting = none) →
            exec .transmitSelect s = .next (sent { s with link := { s.link with reports := rest } } 1 10 q.bytes)) ∧
          (s.link.reports = [] → exec .transmitSelect s = .next { s with link := { s.link with sending := none } }))))) ∧
  (∀ (tag : Tag) (code : Byte) (data : List Byte) (why : RefuseReason),
    (Reply.mk tag code (.done data)).bytes = uint 2 tag.toNat ++ [code, 0, 0] ++ data ∧
    (Reply.mk tag code (.refused why)).bytes = uint 2 tag.toNat ++ [code, 1,
      match why with | .malformed => 1 | .noSuch => 2 | .noRoom => 3 | .wrongState => 4 | .outOfRange => 5]) ∧
  (∀ f : CreditFrame, f.bytes = uint 1 f.sheet ++ uint 2 f.limit ++ uint 2 f.expected ++ flag f.stop) ∧
  (∀ (j : Fin 32) (d : Fin 64) (slot copy version width : Nat) (q : Resolution) (again : Bool),
    (PrinterFrame.pageStart j d slot copy version width q again).bytes = uint 1 j.val ++ uint 1 d.val ++ uint 1 slot ++
      uint 1 copy ++ uint 1 version ++ uint 2 width ++ ([match q with | .standard => 0 | .fine => 1] : List Byte) ++ flag again) ∧
  (∀ (n : Nat) (r : Raster), (PrinterFrame.printLine n r).bytes = uint 2 n ++ packBits r) ∧
  (∀ (j : Fin 32) (slot copy sent bad : Nat) (e : Ending),
    (PrinterFrame.pageFinish j slot copy sent bad e).bytes = uint 1 j.val ++ uint 1 slot ++ uint 1 copy ++ uint 2 sent ++
      uint 2 bad ++ ([match e with | .complete => 0 | .withdrawn => 1 | .cancelled => 2] : List Byte)) ∧
  ([Reason.delivered, .busy, .noAnswer, .timeout, .lineLost, .noRate, .pageRefused, .remoteClose, .width, .cutCredit, .cancelled,
    .restart, .noRoute, .barred, .storeFull, .docFull].map Reason.code = List.range 16) ∧
  ([DestState.queued, .ready, .held, .onLine, .delivered, .failed, .cut, .cancelled].map DestState.code = List.range 8) ∧
  ([ScanFault.format, .unbound, .noRecord, .slotsFull, .noEnd, .superseded, .aborted, .scanTimeout].map ScanFault.code =
    List.range 8) ∧
  ([RingCause.retiring, .store, .noJob, .noDocument, .noPage].map RingCause.code = List.range 5) ∧
  ∀ (gap : Bool) (r : Report), (QueuedReport.mk r gap).bytes =
    (let head := fun kind : Byte => [kind, if gap then 0x80 else 0]
     let done := fun (job line doc send print receive : List Byte) => head 2 ++ job ++ line ++ doc ++ send ++ print ++ receive
     match r with
     | .destResult j d n st why made allowed nx old e el => head 1 ++ uint 1 j.val ++ uint 1 d ++ symbols n ++
         uint 1 st.code ++ uint 1 why.code ++ uint 1 made ++ uint 1 allowed ++ uint 1 nx ++ flag old ++
         (match e with | some (l, n) => (1 :: uint 1 l.val) ++ (1 :: uint 1 n) | none => [0, 0]) ++
         (match el with | some t => 1 :: uint 4 t.toNat | none => [0])
     | .sendDone j d a good failed cut gone => done (1 :: uint 1 j.val) [0, 0] (uint 1 d.val)
         ((1 :: uint 1 a.val) ++ (1 :: uint 1 good) ++ (1 :: uint 1 failed) ++ (1 :: uint 1 cut) ++ (1 :: uint 1 gone))
         [0, 0] [0, 0]
     | .printDone j d copies gone => done (1 :: uint 1 j.val) [0, 0] (uint 1 d.val) [0, 0, 0, 0, 0]
         ((1 :: uint 1 copies) ++ (1 :: flag gone)) [0, 0]
     | .receiveDone l why d name pages => done [0] ((1 :: uint 1 l.val) ++ (1 :: uint 1 why.code)) (uint 1 d.val) [0, 0, 0, 0, 0]
         [0, 0] ((1 :: text name) ++ (1 :: uint 1 pages))
     | .pageSealed c sheet d slot p version width q lines bad length cut old => head 3 ++ uint 1 (c.val + 2) ++ uint 1 sheet ++
         uint 1 d.val ++ uint 1 slot ++ uint 1 p.val ++ uint 1 version ++ uint 2 width ++ uint 1 q.code ++ uint 2 lines ++
         uint 2 bad ++ uint 3 length ++ flag cut ++ (match old with | some o => 1 :: uint 1 o.val | none => [0])
     | .scanFault c sheet why d place replacement => head 4 ++ uint 1 (c.val + 2) ++ uint 1 sheet ++ uint 1 why.code ++
         (match d with | some d => 1 :: uint 1 d.val | none => [0]) ++
         (match place with | some (k, p) => (1 :: uint 1 k) ++ (1 :: uint 1 p.val) | none => [0, 0]) ++ flag replacement
     | .callIn l rings j d => head 5 ++ uint 1 l.val ++ uint 1 rings ++ uint 1 j.val ++ uint 1 d.val
     | .ringRefused l rings why => head 6 ++ uint 1 l.val ++ uint 1 rings ++ uint 1 why.code
     | .accountOver a total limit policy blocked calls => head 7 ++ uint 1 a.val ++ uint 3 total ++ uint 3 limit ++
         [match policy with | .finish => 0 | .cut => 1] ++ flag blocked ++ uint 1 calls
     | .printState paused why j place line => head 8 ++ flag (!paused) ++
         [match why with | .paperOut => 0 | .silent => 1] ++ (match j with | some j => 1 :: uint 1 j.val | none => [0]) ++
         (match place with | some (copy, slot) => (1 :: uint 1 copy) ++ (1 :: uint 1 slot) | none => [0, 0]) ++
         (match line with | some n => 1 :: uint 2 n | none => [0])
     | .recordsWaiting filled reserved => head 9 ++ uint 1 filled ++ uint 1 reserved
     | .storeLow c free reserve => head 10 ++ uint 1 (c.val + 2) ++ uint 2 free ++ uint 2 reserve
     | .restarted why blocks free retired filled => head 11 ++ [match why with | .hardReset => 0 | .order => 1] ++
         uint 2 blocks ++ uint 2 free ++ listOf (fun l => uint 1 l.val) retired ++ uint 1 filled)

end
end

