-- ==== Sys2Proof/Laws/State.lean ====
section
/-! SUPPORT. One lemma per field and update: what each setter of State leaves and what it writes, and the laws of the one
read and the one write of a table. -/

namespace Sys2Proof.Machine

/-! ### Tables -/

@[simp] theorem fetch_store_same {α : Type} {n : Nat} (t : Table α n) (i : Fin n) (x : α) : fetch (store t i x) i = x := by
  simp [fetch, store]

theorem fetch_store {α : Type} {n : Nat} (t : Table α n) (i j : Fin n) (x : α) :
    fetch (store t i x) j = if j = i then x else fetch t j := by
  by_cases h : j = i
  · subst h; simp
  · have h' : i.val ≠ j.val := fun e => h (Fin.ext e.symm)
    simp [fetch, store, h, h']

@[simp] theorem fetch_store_ne {α : Type} {n : Nat} (t : Table α n) {i j : Fin n} (x : α) (h : j ≠ i) :
    fetch (store t i x) j = fetch t j := by
  rw [fetch_store, if_neg h]

/-- Two tables that read alike everywhere are equal. -/
theorem table_ext {α : Type} {n : Nat} {t u : Table α n} (h : ∀ i, fetch t i = fetch u i) : t = u := by
  apply Vector.ext
  intro i hi
  exact h ⟨i, hi⟩

@[simp] theorem store_fetch {α : Type} {n : Nat} (t : Table α n) (i : Fin n) : store t i (fetch t i) = t := by
  apply table_ext
  intro j
  rw [fetch_store]
  split
  · subst_vars; rfl
  · rfl

@[simp] theorem store_store {α : Type} {n : Nat} (t : Table α n) (i : Fin n) (x y : α) :
    store (store t i x) i y = store t i y := by
  apply table_ext
  intro j
  simp only [fetch_store]
  split <;> rfl

theorem store_comm {α : Type} {n : Nat} (t : Table α n) {i j : Fin n} (x y : α) (h : i ≠ j) :
    store (store t i x) j y = store (store t j y) i x := by
  apply table_ext
  intro k
  simp only [fetch_store]
  split <;> split <;> simp_all

theorem fetch_change {α : Type} {n : Nat} (t : Table α n) (i j : Fin n) (f : α → α) :
    fetch (change t i f) j = if j = i then f (fetch t i) else fetch t j := by
  rw [change, fetch_store]

@[simp] theorem fetch_change_same {α : Type} {n : Nat} (t : Table α n) (i : Fin n) (f : α → α) :
    fetch (change t i f) i = f (fetch t i) := by
  simp [change]

@[simp] theorem fetch_change_ne {α : Type} {n : Nat} (t : Table α n) {i j : Fin n} (f : α → α) (h : j ≠ i) :
    fetch (change t i f) j = fetch t j := by
  simp [change, h]

@[simp] theorem fetch_replicate {α : Type} {n : Nat} (x : α) (i : Fin n) : fetch (Vector.replicate n x) i = x := by
  simp [fetch]

@[simp] theorem mem_indices {n : Nat} (i : Fin n) : i ∈ indices n := List.mem_finRange i

@[simp] theorem mem_allLines (l : LineNo) : l ∈ allLines := by revert l; decide

@[simp] theorem mem_allChannels (c : ChannelNo) : c ∈ allChannels := by revert c; decide

@[simp] theorem index?_val {n : Nat} (i : Fin n) : index? n i.val = some i := by simp [index?]

theorem index?_none {n k : Nat} (h : n ≤ k) : index? n k = none := by simp [index?, Nat.not_lt.mpr h]

/-! ### State.setLine -/

@[simp] theorem State.setLine_pending (s : State) (l : LineNo) (x : Line) : (s.setLine l x).pending = s.pending := rfl

@[simp] theorem State.setLine_cfg (s : State) (l : LineNo) (x : Line) : (s.setLine l x).cfg = s.cfg := rfl

@[simp] theorem State.setLine_store (s : State) (l : LineNo) (x : Line) : (s.setLine l x).store = s.store := rfl

@[simp] theorem State.setLine_scan (s : State) (l : LineNo) (x : Line) : (s.setLine l x).scan = s.scan := rfl

@[simp] theorem State.setLine_jobs (s : State) (l : LineNo) (x : Line) : (s.setLine l x).jobs = s.jobs := rfl

@[simp] theorem State.setLine_routes (s : State) (l : LineNo) (x : Line) : (s.setLine l x).routes = s.routes := rfl

@[simp] theorem State.setLine_lines (s : State) (l : LineNo) (x : Line) :
    (s.setLine l x).lines = Machine.store s.lines l x := rfl

@[simp] theorem State.setLine_profiles (s : State) (l : LineNo) (x : Line) : (s.setLine l x).profiles = s.profiles := rfl

@[simp] theorem State.setLine_procs (s : State) (l : LineNo) (x : Line) : (s.setLine l x).procs = s.procs := rfl

@[simp] theorem State.setLine_slots (s : State) (l : LineNo) (x : Line) : (s.setLine l x).slots = s.slots := rfl

@[simp] theorem State.setLine_ticks (s : State) (l : LineNo) (x : Line) : (s.setLine l x).ticks = s.ticks := rfl

@[simp] theorem State.setLine_printer (s : State) (l : LineNo) (x : Line) : (s.setLine l x).printer = s.printer := rfl

@[simp] theorem State.setLine_clock (s : State) (l : LineNo) (x : Line) : (s.setLine l x).clock = s.clock := rfl

@[simp] theorem State.setLine_meters (s : State) (l : LineNo) (x : Line) : (s.setLine l x).meters = s.meters := rfl

@[simp] theorem State.setLine_accounts (s : State) (l : LineNo) (x : Line) : (s.setLine l x).accounts = s.accounts := rfl

@[simp] theorem State.setLine_charges (s : State) (l : LineNo) (x : Line) : (s.setLine l x).charges = s.charges := rfl

@[simp] theorem State.setLine_link (s : State) (l : LineNo) (x : Line) : (s.setLine l x).link = s.link := rfl

@[simp] theorem State.setLine_freeCount (s : State) (l : LineNo) (x : Line) : (s.setLine l x).freeCount = s.freeCount := rfl

@[simp] theorem State.setLine_line_same (s : State) (l : LineNo) (x : Line) : (s.setLine l x).line l = x := by
  simp [State.line]

@[simp] theorem State.setLine_line_ne (s : State) (l : LineNo) (x : Line) (k : LineNo) (h : k ≠ l) :
    (s.setLine l x).line k = s.line k := by
  simp [State.line, h]

theorem State.setLine_line (s : State) (l : LineNo) (x : Line) (k : LineNo) :
    (s.setLine l x).line k = if k = l then x else s.line k := by
  simp [State.line, fetch_store]

@[simp] theorem State.setLine_self (s : State) (l : LineNo) : s.setLine l (s.line l) = s := by
  simp [State.setLine, State.line]

@[simp] theorem State.setLine_twice (s : State) (l : LineNo) (x : Line) (y : Line) :
    (s.setLine l x).setLine l y = s.setLine l y := by
  simp [State.setLine]

@[simp] theorem State.setLine_proc (s : State) (l : LineNo) (x : Line) (k : LineNo) : (s.setLine l x).proc k = s.proc k := rfl

@[simp] theorem State.setLine_slot (s : State) (l : LineNo) (x : Line) (k : LineNo) : (s.setLine l x).slot k = s.slot k := rfl

@[simp] theorem State.setLine_meter (s : State) (l : LineNo) (x : Line) (k : LineNo) : (s.setLine l x).meter k = s.meter k := rfl

@[simp] theorem State.setLine_account (s : State) (l : LineNo) (x : Line) (k : Fin 64) : (s.setLine l x).account k = s.account k := rfl

@[simp] theorem State.setLine_job (s : State) (l : LineNo) (x : Line) (k : Fin 32) : (s.setLine l x).job k = s.job k := rfl

@[simp] theorem State.setLine_channel (s : State) (l : LineNo) (x : Line) (k : ChannelNo) : (s.setLine l x).channel k = s.channel k := rfl

@[simp] theorem State.setLine_doc (s : State) (l : LineNo) (x : Line) (k : Fin 64) : (s.setLine l x).doc k = s.doc k := rfl

@[simp] theorem State.setLine_page (s : State) (l : LineNo) (x : Line) (k : Fin 256) : (s.setLine l x).page k = s.page k := rfl

@[simp] theorem State.setLine_profile (s : State) (l : LineNo) (x : Line) (k : Fin 8) : (s.setLine l x).profile k = s.profile k := rfl

/-! ### State.setProc -/

@[simp] theorem State.setProc_pending (s : State) (l : LineNo) (x : Proc) : (s.setProc l x).pending = s.pending := rfl

@[simp] theorem State.setProc_cfg (s : State) (l : LineNo) (x : Proc) : (s.setProc l x).cfg = s.cfg := rfl

@[simp] theorem State.setProc_store (s : State) (l : LineNo) (x : Proc) : (s.setProc l x).store = s.store := rfl

@[simp] theorem State.setProc_scan (s : State) (l : LineNo) (x : Proc) : (s.setProc l x).scan = s.scan := rfl

@[simp] theorem State.setProc_jobs (s : State) (l : LineNo) (x : Proc) : (s.setProc l x).jobs = s.jobs := rfl

@[simp] theorem State.setProc_routes (s : State) (l : LineNo) (x : Proc) : (s.setProc l x).routes = s.routes := rfl

@[simp] theorem State.setProc_lines (s : State) (l : LineNo) (x : Proc) : (s.setProc l x).lines = s.lines := rfl

@[simp] theorem State.setProc_profiles (s : State) (l : LineNo) (x : Proc) : (s.setProc l x).profiles = s.profiles := rfl

@[simp] theorem State.setProc_procs (s : State) (l : LineNo) (x : Proc) :
    (s.setProc l x).procs = Machine.store s.procs l x := rfl

@[simp] theorem State.setProc_slots (s : State) (l : LineNo) (x : Proc) : (s.setProc l x).slots = s.slots := rfl

@[simp] theorem State.setProc_ticks (s : State) (l : LineNo) (x : Proc) : (s.setProc l x).ticks = s.ticks := rfl

@[simp] theorem State.setProc_printer (s : State) (l : LineNo) (x : Proc) : (s.setProc l x).printer = s.printer := rfl

@[simp] theorem State.setProc_clock (s : State) (l : LineNo) (x : Proc) : (s.setProc l x).clock = s.clock := rfl

@[simp] theorem State.setProc_meters (s : State) (l : LineNo) (x : Proc) : (s.setProc l x).meters = s.meters := rfl

@[simp] theorem State.setProc_accounts (s : State) (l : LineNo) (x : Proc) : (s.setProc l x).accounts = s.accounts := rfl

@[simp] theorem State.setProc_charges (s : State) (l : LineNo) (x : Proc) : (s.setProc l x).charges = s.charges := rfl

@[simp] theorem State.setProc_link (s : State) (l : LineNo) (x : Proc) : (s.setProc l x).link = s.link := rfl

@[simp] theorem State.setProc_freeCount (s : State) (l : LineNo) (x : Proc) : (s.setProc l x).freeCount = s.freeCount := rfl

@[simp] theorem State.setProc_line (s : State) (l : LineNo) (x : Proc) (k : LineNo) : (s.setProc l x).line k = s.line k := rfl

@[simp] theorem State.setProc_proc_same (s : State) (l : LineNo) (x : Proc) : (s.setProc l x).proc l = x := by
  simp [State.proc]

@[simp] theorem State.setProc_proc_ne (s : State) (l : LineNo) (x : Proc) (k : LineNo) (h : k ≠ l) :
    (s.setProc l x).proc k = s.proc k := by
  simp [State.proc, h]

theorem State.setProc_proc (s : State) (l : LineNo) (x : Proc) (k : LineNo) :
    (s.setProc l x).proc k = if k = l then x else s.proc k := by
  simp [State.proc, fetch_store]

@[simp] theorem State.setProc_self (s : State) (l : LineNo) : s.setProc l (s.proc l) = s := by
  simp [State.setProc, State.proc]

@[simp] theorem State.setProc_twice (s : State) (l : LineNo) (x : Proc) (y : Proc) :
    (s.setProc l x).setProc l y = s.setProc l y := by
  simp [State.setProc]

@[simp] theorem State.setProc_slot (s : State) (l : LineNo) (x : Proc) (k : LineNo) : (s.setProc l x).slot k = s.slot k := rfl

@[simp] theorem State.setProc_meter (s : State) (l : LineNo) (x : Proc) (k : LineNo) : (s.setProc l x).meter k = s.meter k := rfl

@[simp] theorem State.setProc_account (s : State) (l : LineNo) (x : Proc) (k : Fin 64) : (s.setProc l x).account k = s.account k := rfl

@[simp] theorem State.setProc_job (s : State) (l : LineNo) (x : Proc) (k : Fin 32) : (s.setProc l x).job k = s.job k := rfl

@[simp] theorem State.setProc_channel (s : State) (l : LineNo) (x : Proc) (k : ChannelNo) : (s.setProc l x).channel k = s.channel k := rfl

@[simp] theorem State.setProc_doc (s : State) (l : LineNo) (x : Proc) (k : Fin 64) : (s.setProc l x).doc k = s.doc k := rfl

@[simp] theorem State.setProc_page (s : State) (l : LineNo) (x : Proc) (k : Fin 256) : (s.setProc l x).page k = s.page k := rfl

@[simp] theorem State.setProc_profile (s : State) (l : LineNo) (x : Proc) (k : Fin 8) : (s.setProc l x).profile k = s.profile k := rfl

/-! ### State.setSlot -/

@[simp] theorem State.setSlot_pending (s : State) (l : LineNo) (x : Slot) : (s.setSlot l x).pending = s.pending := rfl

@[simp] theorem State.setSlot_cfg (s : State) (l : LineNo) (x : Slot) : (s.setSlot l x).cfg = s.cfg := rfl

@[simp] theorem State.setSlot_store (s : State) (l : LineNo) (x : Slot) : (s.setSlot l x).store = s.store := rfl

@[simp] theorem State.setSlot_scan (s : State) (l : LineNo) (x : Slot) : (s.setSlot l x).scan = s.scan := rfl

@[simp] theorem State.setSlot_jobs (s : State) (l : LineNo) (x : Slot) : (s.setSlot l x).jobs = s.jobs := rfl

@[simp] theorem State.setSlot_routes (s : State) (l : LineNo) (x : Slot) : (s.setSlot l x).routes = s.routes := rfl

@[simp] theorem State.setSlot_lines (s : State) (l : LineNo) (x : Slot) : (s.setSlot l x).lines = s.lines := rfl

@[simp] theorem State.setSlot_profiles (s : State) (l : LineNo) (x : Slot) : (s.setSlot l x).profiles = s.profiles := rfl

@[simp] theorem State.setSlot_procs (s : State) (l : LineNo) (x : Slot) : (s.setSlot l x).procs = s.procs := rfl

@[simp] theorem State.setSlot_slots (s : State) (l : LineNo) (x : Slot) :
    (s.setSlot l x).slots = Machine.store s.slots l x := rfl

@[simp] theorem State.setSlot_ticks (s : State) (l : LineNo) (x : Slot) : (s.setSlot l x).ticks = s.ticks := rfl

@[simp] theorem State.setSlot_printer (s : State) (l : LineNo) (x : Slot) : (s.setSlot l x).printer = s.printer := rfl

@[simp] theorem State.setSlot_clock (s : State) (l : LineNo) (x : Slot) : (s.setSlot l x).clock = s.clock := rfl

@[simp] theorem State.setSlot_meters (s : State) (l : LineNo) (x : Slot) : (s.setSlot l x).meters = s.meters := rfl

@[simp] theorem State.setSlot_accounts (s : State) (l : LineNo) (x : Slot) : (s.setSlot l x).accounts = s.accounts := rfl

@[simp] theorem State.setSlot_charges (s : State) (l : LineNo) (x : Slot) : (s.setSlot l x).charges = s.charges := rfl

@[simp] theorem State.setSlot_link (s : State) (l : LineNo) (x : Slot) : (s.setSlot l x).link = s.link := rfl

@[simp] theorem State.setSlot_freeCount (s : State) (l : LineNo) (x : Slot) : (s.setSlot l x).freeCount = s.freeCount := rfl

@[simp] theorem State.setSlot_line (s : State) (l : LineNo) (x : Slot) (k : LineNo) : (s.setSlot l x).line k = s.line k := rfl

@[simp] theorem State.setSlot_proc (s : State) (l : LineNo) (x : Slot) (k : LineNo) : (s.setSlot l x).proc k = s.proc k := rfl

@[simp] theorem State.setSlot_slot_same (s : State) (l : LineNo) (x : Slot) : (s.setSlot l x).slot l = x := by
  simp [State.slot]

@[simp] theorem State.setSlot_slot_ne (s : State) (l : LineNo) (x : Slot) (k : LineNo) (h : k ≠ l) :
    (s.setSlot l x).slot k = s.slot k := by
  simp [State.slot, h]

theorem State.setSlot_slot (s : State) (l : LineNo) (x : Slot) (k : LineNo) :
    (s.setSlot l x).slot k = if k = l then x else s.slot k := by
  simp [State.slot, fetch_store]

@[simp] theorem State.setSlot_self (s : State) (l : LineNo) : s.setSlot l (s.slot l) = s := by
  simp [State.setSlot, State.slot]

@[simp] theorem State.setSlot_twice (s : State) (l : LineNo) (x : Slot) (y : Slot) :
    (s.setSlot l x).setSlot l y = s.setSlot l y := by
  simp [State.setSlot]

@[simp] theorem State.setSlot_meter (s : State) (l : LineNo) (x : Slot) (k : LineNo) : (s.setSlot l x).meter k = s.meter k := rfl

@[simp] theorem State.setSlot_account (s : State) (l : LineNo) (x : Slot) (k : Fin 64) : (s.setSlot l x).account k = s.account k := rfl

@[simp] theorem State.setSlot_job (s : State) (l : LineNo) (x : Slot) (k : Fin 32) : (s.setSlot l x).job k = s.job k := rfl

@[simp] theorem State.setSlot_channel (s : State) (l : LineNo) (x : Slot) (k : ChannelNo) : (s.setSlot l x).channel k = s.channel k := rfl

@[simp] theorem State.setSlot_doc (s : State) (l : LineNo) (x : Slot) (k : Fin 64) : (s.setSlot l x).doc k = s.doc k := rfl

@[simp] theorem State.setSlot_page (s : State) (l : LineNo) (x : Slot) (k : Fin 256) : (s.setSlot l x).page k = s.page k := rfl

@[simp] theorem State.setSlot_profile (s : State) (l : LineNo) (x : Slot) (k : Fin 8) : (s.setSlot l x).profile k = s.profile k := rfl

/-! ### State.setMeter -/

@[simp] theorem State.setMeter_pending (s : State) (l : LineNo) (x : Meter) : (s.setMeter l x).pending = s.pending := rfl

@[simp] theorem State.setMeter_cfg (s : State) (l : LineNo) (x : Meter) : (s.setMeter l x).cfg = s.cfg := rfl

@[simp] theorem State.setMeter_store (s : State) (l : LineNo) (x : Meter) : (s.setMeter l x).store = s.store := rfl

@[simp] theorem State.setMeter_scan (s : State) (l : LineNo) (x : Meter) : (s.setMeter l x).scan = s.scan := rfl

@[simp] theorem State.setMeter_jobs (s : State) (l : LineNo) (x : Meter) : (s.setMeter l x).jobs = s.jobs := rfl

@[simp] theorem State.setMeter_routes (s : State) (l : LineNo) (x : Meter) : (s.setMeter l x).routes = s.routes := rfl

@[simp] theorem State.setMeter_lines (s : State) (l : LineNo) (x : Meter) : (s.setMeter l x).lines = s.lines := rfl

@[simp] theorem State.setMeter_profiles (s : State) (l : LineNo) (x : Meter) : (s.setMeter l x).profiles = s.profiles := rfl

@[simp] theorem State.setMeter_procs (s : State) (l : LineNo) (x : Meter) : (s.setMeter l x).procs = s.procs := rfl

@[simp] theorem State.setMeter_slots (s : State) (l : LineNo) (x : Meter) : (s.setMeter l x).slots = s.slots := rfl

@[simp] theorem State.setMeter_ticks (s : State) (l : LineNo) (x : Meter) : (s.setMeter l x).ticks = s.ticks := rfl

@[simp] theorem State.setMeter_printer (s : State) (l : LineNo) (x : Meter) : (s.setMeter l x).printer = s.printer := rfl

@[simp] theorem State.setMeter_clock (s : State) (l : LineNo) (x : Meter) : (s.setMeter l x).clock = s.clock := rfl

@[simp] theorem State.setMeter_meters (s : State) (l : LineNo) (x : Meter) :
    (s.setMeter l x).meters = Machine.store s.meters l x := rfl

@[simp] theorem State.setMeter_accounts (s : State) (l : LineNo) (x : Meter) : (s.setMeter l x).accounts = s.accounts := rfl

@[simp] theorem State.setMeter_charges (s : State) (l : LineNo) (x : Meter) : (s.setMeter l x).charges = s.charges := rfl

@[simp] theorem State.setMeter_link (s : State) (l : LineNo) (x : Meter) : (s.setMeter l x).link = s.link := rfl

@[simp] theorem State.setMeter_freeCount (s : State) (l : LineNo) (x : Meter) : (s.setMeter l x).freeCount = s.freeCount := rfl

@[simp] theorem State.setMeter_line (s : State) (l : LineNo) (x : Meter) (k : LineNo) : (s.setMeter l x).line k = s.line k := rfl

@[simp] theorem State.setMeter_proc (s : State) (l : LineNo) (x : Meter) (k : LineNo) : (s.setMeter l x).proc k = s.proc k := rfl

@[simp] theorem State.setMeter_slot (s : State) (l : LineNo) (x : Meter) (k : LineNo) : (s.setMeter l x).slot k = s.slot k := rfl

@[simp] theorem State.setMeter_meter_same (s : State) (l : LineNo) (x : Meter) : (s.setMeter l x).meter l = x := by
  simp [State.meter]

@[simp] theorem State.setMeter_meter_ne (s : State) (l : LineNo) (x : Meter) (k : LineNo) (h : k ≠ l) :
    (s.setMeter l x).meter k = s.meter k := by
  simp [State.meter, h]

theorem State.setMeter_meter (s : State) (l : LineNo) (x : Meter) (k : LineNo) :
    (s.setMeter l x).meter k = if k = l then x else s.meter k := by
  simp [State.meter, fetch_store]

@[simp] theorem State.setMeter_self (s : State) (l : LineNo) : s.setMeter l (s.meter l) = s := by
  simp [State.setMeter, State.meter]

@[simp] theorem State.setMeter_twice (s : State) (l : LineNo) (x : Meter) (y : Meter) :
    (s.setMeter l x).setMeter l y = s.setMeter l y := by
  simp [State.setMeter]

@[simp] theorem State.setMeter_account (s : State) (l : LineNo) (x : Meter) (k : Fin 64) : (s.setMeter l x).account k = s.account k := rfl

@[simp] theorem State.setMeter_job (s : State) (l : LineNo) (x : Meter) (k : Fin 32) : (s.setMeter l x).job k = s.job k := rfl

@[simp] theorem State.setMeter_channel (s : State) (l : LineNo) (x : Meter) (k : ChannelNo) : (s.setMeter l x).channel k = s.channel k := rfl

@[simp] theorem State.setMeter_doc (s : State) (l : LineNo) (x : Meter) (k : Fin 64) : (s.setMeter l x).doc k = s.doc k := rfl

@[simp] theorem State.setMeter_page (s : State) (l : LineNo) (x : Meter) (k : Fin 256) : (s.setMeter l x).page k = s.page k := rfl

@[simp] theorem State.setMeter_profile (s : State) (l : LineNo) (x : Meter) (k : Fin 8) : (s.setMeter l x).profile k = s.profile k := rfl

/-! ### State.setAccount -/

@[simp] theorem State.setAccount_pending (s : State) (a : Fin 64) (x : Account) : (s.setAccount a x).pending = s.pending := rfl

@[simp] theorem State.setAccount_cfg (s : State) (a : Fin 64) (x : Account) : (s.setAccount a x).cfg = s.cfg := rfl

@[simp] theorem State.setAccount_store (s : State) (a : Fin 64) (x : Account) : (s.setAccount a x).store = s.store := rfl

@[simp] theorem State.setAccount_scan (s : State) (a : Fin 64) (x : Account) : (s.setAccount a x).scan = s.scan := rfl

@[simp] theorem State.setAccount_jobs (s : State) (a : Fin 64) (x : Account) : (s.setAccount a x).jobs = s.jobs := rfl

@[simp] theorem State.setAccount_routes (s : State) (a : Fin 64) (x : Account) : (s.setAccount a x).routes = s.routes := rfl

@[simp] theorem State.setAccount_lines (s : State) (a : Fin 64) (x : Account) : (s.setAccount a x).lines = s.lines := rfl

@[simp] theorem State.setAccount_profiles (s : State) (a : Fin 64) (x : Account) : (s.setAccount a x).profiles = s.profiles := rfl

@[simp] theorem State.setAccount_procs (s : State) (a : Fin 64) (x : Account) : (s.setAccount a x).procs = s.procs := rfl

@[simp] theorem State.setAccount_slots (s : State) (a : Fin 64) (x : Account) : (s.setAccount a x).slots = s.slots := rfl

@[simp] theorem State.setAccount_ticks (s : State) (a : Fin 64) (x : Account) : (s.setAccount a x).ticks = s.ticks := rfl

@[simp] theorem State.setAccount_printer (s : State) (a : Fin 64) (x : Account) : (s.setAccount a x).printer = s.printer := rfl

@[simp] theorem State.setAccount_clock (s : State) (a : Fin 64) (x : Account) : (s.setAccount a x).clock = s.clock := rfl

@[simp] theorem State.setAccount_meters (s : State) (a : Fin 64) (x : Account) : (s.setAccount a x).meters = s.meters := rfl

@[simp] theorem State.setAccount_accounts (s : State) (a : Fin 64) (x : Account) :
    (s.setAccount a x).accounts = Machine.store s.accounts a x := rfl

@[simp] theorem State.setAccount_charges (s : State) (a : Fin 64) (x : Account) : (s.setAccount a x).charges = s.charges := rfl

@[simp] theorem State.setAccount_link (s : State) (a : Fin 64) (x : Account) : (s.setAccount a x).link = s.link := rfl

@[simp] theorem State.setAccount_freeCount (s : State) (a : Fin 64) (x : Account) : (s.setAccount a x).freeCount = s.freeCount := rfl

@[simp] theorem State.setAccount_line (s : State) (a : Fin 64) (x : Account) (k : LineNo) : (s.setAccount a x).line k = s.line k := rfl

@[simp] theorem State.setAccount_proc (s : State) (a : Fin 64) (x : Account) (k : LineNo) : (s.setAccount a x).proc k = s.proc k := rfl

@[simp] theorem State.setAccount_slot (s : State) (a : Fin 64) (x : Account) (k : LineNo) : (s.setAccount a x).slot k = s.slot k := rfl

@[simp] theorem State.setAccount_meter (s : State) (a : Fin 64) (x : Account) (k : LineNo) : (s.setAccount a x).meter k = s.meter k := rfl

@[simp] theorem State.setAccount_account_same (s : State) (a : Fin 64) (x : Account) : (s.setAccount a x).account a = x := by
  simp [State.account]

@[simp] theorem State.setAccount_account_ne (s : State) (a : Fin 64) (x : Account) (k : Fin 64) (h : k ≠ a) :
    (s.setAccount a x).account k = s.account k := by
  simp [State.account, h]

theorem State.setAccount_account (s : State) (a : Fin 64) (x : Account) (k : Fin 64) :
    (s.setAccount a x).account k = if k = a then x else s.account k := by
  simp [State.account, fetch_store]

@[simp] theorem State.setAccount_self (s : State) (a : Fin 64) : s.setAccount a (s.account a) = s := by
  simp [State.setAccount, State.account]

@[simp] theorem State.setAccount_twice (s : State) (a : Fin 64) (x : Account) (y : Account) :
    (s.setAccount a x).setAccount a y = s.setAccount a y := by
  simp [State.setAccount]

@[simp] theorem State.setAccount_job (s : State) (a : Fin 64) (x : Account) (k : Fin 32) : (s.setAccount a x).job k = s.job k := rfl

@[simp] theorem State.setAccount_channel (s : State) (a : Fin 64) (x : Account) (k : ChannelNo) : (s.setAccount a x).channel k = s.channel k := rfl

@[simp] theorem State.setAccount_doc (s : State) (a : Fin 64) (x : Account) (k : Fin 64) : (s.setAccount a x).doc k = s.doc k := rfl

@[simp] theorem State.setAccount_page (s : State) (a : Fin 64) (x : Account) (k : Fin 256) : (s.setAccount a x).page k = s.page k := rfl

@[simp] theorem State.setAccount_profile (s : State) (a : Fin 64) (x : Account) (k : Fin 8) : (s.setAccount a x).profile k = s.profile k := rfl

/-! ### State.setJob -/

@[simp] theorem State.setJob_pending (s : State) (j : Fin 32) (x : Option Job) : (s.setJob j x).pending = s.pending := rfl

@[simp] theorem State.setJob_cfg (s : State) (j : Fin 32) (x : Option Job) : (s.setJob j x).cfg = s.cfg := rfl

@[simp] theorem State.setJob_store (s : State) (j : Fin 32) (x : Option Job) : (s.setJob j x).store = s.store := rfl

@[simp] theorem State.setJob_scan (s : State) (j : Fin 32) (x : Option Job) : (s.setJob j x).scan = s.scan := rfl

@[simp] theorem State.setJob_jobs (s : State) (j : Fin 32) (x : Option Job) :
    (s.setJob j x).jobs = { s.jobs with slots := Machine.store s.jobs.slots j x } := rfl

@[simp] theorem State.setJob_routes (s : State) (j : Fin 32) (x : Option Job) : (s.setJob j x).routes = s.routes := rfl

@[simp] theorem State.setJob_lines (s : State) (j : Fin 32) (x : Option Job) : (s.setJob j x).lines = s.lines := rfl

@[simp] theorem State.setJob_profiles (s : State) (j : Fin 32) (x : Option Job) : (s.setJob j x).profiles = s.profiles := rfl

@[simp] theorem State.setJob_procs (s : State) (j : Fin 32) (x : Option Job) : (s.setJob j x).procs = s.procs := rfl

@[simp] theorem State.setJob_slots (s : State) (j : Fin 32) (x : Option Job) : (s.setJob j x).slots = s.slots := rfl

@[simp] theorem State.setJob_ticks (s : State) (j : Fin 32) (x : Option Job) : (s.setJob j x).ticks = s.ticks := rfl

@[simp] theorem State.setJob_printer (s : State) (j : Fin 32) (x : Option Job) : (s.setJob j x).printer = s.printer := rfl

@[simp] theorem State.setJob_clock (s : State) (j : Fin 32) (x : Option Job) : (s.setJob j x).clock = s.clock := rfl

@[simp] theorem State.setJob_meters (s : State) (j : Fin 32) (x : Option Job) : (s.setJob j x).meters = s.meters := rfl

@[simp] theorem State.setJob_accounts (s : State) (j : Fin 32) (x : Option Job) : (s.setJob j x).accounts = s.accounts := rfl

@[simp] theorem State.setJob_charges (s : State) (j : Fin 32) (x : Option Job) : (s.setJob j x).charges = s.charges := rfl

@[simp] theorem State.setJob_link (s : State) (j : Fin 32) (x : Option Job) : (s.setJob j x).link = s.link := rfl

@[simp] theorem State.setJob_freeCount (s : State) (j : Fin 32) (x : Option Job) : (s.setJob j x).freeCount = s.freeCount := rfl

@[simp] theorem State.setJob_line (s : State) (j : Fin 32) (x : Option Job) (k : LineNo) : (s.setJob j x).line k = s.line k := rfl

@[simp] theorem State.setJob_proc (s : State) (j : Fin 32) (x : Option Job) (k : LineNo) : (s.setJob j x).proc k = s.proc k := rfl

@[simp] theorem State.setJob_slot (s : State) (j : Fin 32) (x : Option Job) (k : LineNo) : (s.setJob j x).slot k = s.slot k := rfl

@[simp] theorem State.setJob_meter (s : State) (j : Fin 32) (x : Option Job) (k : LineNo) : (s.setJob j x).meter k = s.meter k := rfl

@[simp] theorem State.setJob_account (s : State) (j : Fin 32) (x : Option Job) (k : Fin 64) : (s.setJob j x).account k = s.account k := rfl

@[simp] theorem State.setJob_job_same (s : State) (j : Fin 32) (x : Option Job) : (s.setJob j x).job j = x := by
  simp [State.job]

@[simp] theorem State.setJob_job_ne (s : State) (j : Fin 32) (x : Option Job) (k : Fin 32) (h : k ≠ j) :
    (s.setJob j x).job k = s.job k := by
  simp [State.job, h]

theorem State.setJob_job (s : State) (j : Fin 32) (x : Option Job) (k : Fin 32) :
    (s.setJob j x).job k = if k = j then x else s.job k := by
  simp [State.job, fetch_store]

@[simp] theorem State.setJob_self (s : State) (j : Fin 32) : s.setJob j (s.job j) = s := by
  simp [State.setJob, State.job]

@[simp] theorem State.setJob_twice (s : State) (j : Fin 32) (x : Option Job) (y : Option Job) :
    (s.setJob j x).setJob j y = s.setJob j y := by
  simp [State.setJob]

@[simp] theorem State.setJob_channel (s : State) (j : Fin 32) (x : Option Job) (k : ChannelNo) : (s.setJob j x).channel k = s.channel k := rfl

@[simp] theorem State.setJob_doc (s : State) (j : Fin 32) (x : Option Job) (k : Fin 64) : (s.setJob j x).doc k = s.doc k := rfl

@[simp] theorem State.setJob_page (s : State) (j : Fin 32) (x : Option Job) (k : Fin 256) : (s.setJob j x).page k = s.page k := rfl

@[simp] theorem State.setJob_profile (s : State) (j : Fin 32) (x : Option Job) (k : Fin 8) : (s.setJob j x).profile k = s.profile k := rfl

/-! ### State.setChannel -/

@[simp] theorem State.setChannel_pending (s : State) (c : ChannelNo) (x : Channel) : (s.setChannel c x).pending = s.pending := rfl

@[simp] theorem State.setChannel_cfg (s : State) (c : ChannelNo) (x : Channel) : (s.setChannel c x).cfg = s.cfg := rfl

@[simp] theorem State.setChannel_store (s : State) (c : ChannelNo) (x : Channel) : (s.setChannel c x).store = s.store := rfl

@[simp] theorem State.setChannel_scan (s : State) (c : ChannelNo) (x : Channel) :
    (s.setChannel c x).scan = { s.scan with channels := Machine.store s.scan.channels c x } := rfl

@[simp] theorem State.setChannel_jobs (s : State) (c : ChannelNo) (x : Channel) : (s.setChannel c x).jobs = s.jobs := rfl

@[simp] theorem State.setChannel_routes (s : State) (c : ChannelNo) (x : Channel) : (s.setChannel c x).routes = s.routes := rfl

@[simp] theorem State.setChannel_lines (s : State) (c : ChannelNo) (x : Channel) : (s.setChannel c x).lines = s.lines := rfl

@[simp] theorem State.setChannel_profiles (s : State) (c : ChannelNo) (x : Channel) : (s.setChannel c x).profiles = s.profiles := rfl

@[simp] theorem State.setChannel_procs (s : State) (c : ChannelNo) (x : Channel) : (s.setChannel c x).procs = s.procs := rfl

@[simp] theorem State.setChannel_slots (s : State) (c : ChannelNo) (x : Channel) : (s.setChannel c x).slots = s.slots := rfl

@[simp] theorem State.setChannel_ticks (s : State) (c : ChannelNo) (x : Channel) : (s.setChannel c x).ticks = s.ticks := rfl

@[simp] theorem State.setChannel_printer (s : State) (c : ChannelNo) (x : Channel) : (s.setChannel c x).printer = s.printer := rfl

@[simp] theorem State.setChannel_clock (s : State) (c : ChannelNo) (x : Channel) : (s.setChannel c x).clock = s.clock := rfl

@[simp] theorem State.setChannel_meters (s : State) (c : ChannelNo) (x : Channel) : (s.setChannel c x).meters = s.meters := rfl

@[simp] theorem State.setChannel_accounts (s : State) (c : ChannelNo) (x : Channel) : (s.setChannel c x).accounts = s.accounts := rfl

@[simp] theorem State.setChannel_charges (s : State) (c : ChannelNo) (x : Channel) : (s.setChannel c x).charges = s.charges := rfl

@[simp] theorem State.setChannel_link (s : State) (c : ChannelNo) (x : Channel) : (s.setChannel c x).link = s.link := rfl

@[simp] theorem State.setChannel_freeCount (s : State) (c : ChannelNo) (x : Channel) : (s.setChannel c x).freeCount = s.freeCount := rfl

@[simp] theorem State.setChannel_line (s : State) (c : ChannelNo) (x : Channel) (k : LineNo) : (s.setChannel c x).line k = s.line k := rfl

@[simp] theorem State.setChannel_proc (s : State) (c : ChannelNo) (x : Channel) (k : LineNo) : (s.setChannel c x).proc k = s.proc k := rfl

@[simp] theorem State.setChannel_slot (s : State) (c : ChannelNo) (x : Channel) (k : LineNo) : (s.setChannel c x).slot k = s.slot k := rfl

@[simp] theorem State.setChannel_meter (s : State) (c : ChannelNo) (x : Channel) (k : LineNo) : (s.setChannel c x).meter k = s.meter k := rfl

@[simp] theorem State.setChannel_account (s : State) (c : ChannelNo) (x : Channel) (k : Fin 64) : (s.setChannel c x).account k = s.account k := rfl

@[simp] theorem State.setChannel_job (s : State) (c : ChannelNo) (x : Channel) (k : Fin 32) : (s.setChannel c x).job k = s.job k := rfl

@[simp] theorem State.setChannel_channel_same (s : State) (c : ChannelNo) (x : Channel) : (s.setChannel c x).channel c = x := by
  simp [State.channel]

@[simp] theorem State.setChannel_channel_ne (s : State) (c : ChannelNo) (x : Channel) (k : ChannelNo) (h : k ≠ c) :
    (s.setChannel c x).channel k = s.channel k := by
  simp [State.channel, h]

theorem State.setChannel_channel (s : State) (c : ChannelNo) (x : Channel) (k : ChannelNo) :
    (s.setChannel c x).channel k = if k = c then x else s.channel k := by
  simp [State.channel, fetch_store]

@[simp] theorem State.setChannel_self (s : State) (c : ChannelNo) : s.setChannel c (s.channel c) = s := by
  simp [State.setChannel, State.channel]

@[simp] theorem State.setChannel_twice (s : State) (c : ChannelNo) (x : Channel) (y : Channel) :
    (s.setChannel c x).setChannel c y = s.setChannel c y := by
  simp [State.setChannel]

@[simp] theorem State.setChannel_doc (s : State) (c : ChannelNo) (x : Channel) (k : Fin 64) : (s.setChannel c x).doc k = s.doc k := rfl

@[simp] theorem State.setChannel_page (s : State) (c : ChannelNo) (x : Channel) (k : Fin 256) : (s.setChannel c x).page k = s.page k := rfl

@[simp] theorem State.setChannel_profile (s : State) (c : ChannelNo) (x : Channel) (k : Fin 8) : (s.setChannel c x).profile k = s.profile k := rfl

/-! ### State.setTick -/

@[simp] theorem State.setTick_pending (s : State) (i : Fin 6) (n : Nat) : (s.setTick i n).pending = s.pending := rfl

@[simp] theorem State.setTick_cfg (s : State) (i : Fin 6) (n : Nat) : (s.setTick i n).cfg = s.cfg := rfl

@[simp] theorem State.setTick_store (s : State) (i : Fin 6) (n : Nat) : (s.setTick i n).store = s.store := rfl

@[simp] theorem State.setTick_scan (s : State) (i : Fin 6) (n : Nat) : (s.setTick i n).scan = s.scan := rfl

@[simp] theorem State.setTick_jobs (s : State) (i : Fin 6) (n : Nat) : (s.setTick i n).jobs = s.jobs := rfl

@[simp] theorem State.setTick_routes (s : State) (i : Fin 6) (n : Nat) : (s.setTick i n).routes = s.routes := rfl

@[simp] theorem State.setTick_lines (s : State) (i : Fin 6) (n : Nat) : (s.setTick i n).lines = s.lines := rfl

@[simp] theorem State.setTick_profiles (s : State) (i : Fin 6) (n : Nat) : (s.setTick i n).profiles = s.profiles := rfl

@[simp] theorem State.setTick_procs (s : State) (i : Fin 6) (n : Nat) : (s.setTick i n).procs = s.procs := rfl

@[simp] theorem State.setTick_slots (s : State) (i : Fin 6) (n : Nat) : (s.setTick i n).slots = s.slots := rfl

@[simp] theorem State.setTick_ticks (s : State) (i : Fin 6) (n : Nat) :
    (s.setTick i n).ticks = Machine.store s.ticks i n := rfl

@[simp] theorem State.setTick_printer (s : State) (i : Fin 6) (n : Nat) : (s.setTick i n).printer = s.printer := rfl

@[simp] theorem State.setTick_clock (s : State) (i : Fin 6) (n : Nat) : (s.setTick i n).clock = s.clock := rfl

@[simp] theorem State.setTick_meters (s : State) (i : Fin 6) (n : Nat) : (s.setTick i n).meters = s.meters := rfl

@[simp] theorem State.setTick_accounts (s : State) (i : Fin 6) (n : Nat) : (s.setTick i n).accounts = s.accounts := rfl

@[simp] theorem State.setTick_charges (s : State) (i : Fin 6) (n : Nat) : (s.setTick i n).charges = s.charges := rfl

@[simp] theorem State.setTick_link (s : State) (i : Fin 6) (n : Nat) : (s.setTick i n).link = s.link := rfl

@[simp] theorem State.setTick_freeCount (s : State) (i : Fin 6) (n : Nat) : (s.setTick i n).freeCount = s.freeCount := rfl

@[simp] theorem State.setTick_line (s : State) (i : Fin 6) (n : Nat) (k : LineNo) : (s.setTick i n).line k = s.line k := rfl

@[simp] theorem State.setTick_proc (s : State) (i : Fin 6) (n : Nat) (k : LineNo) : (s.setTick i n).proc k = s.proc k := rfl

@[simp] theorem State.setTick_slot (s : State) (i : Fin 6) (n : Nat) (k : LineNo) : (s.setTick i n).slot k = s.slot k := rfl

@[simp] theorem State.setTick_meter (s : State) (i : Fin 6) (n : Nat) (k : LineNo) : (s.setTick i n).meter k = s.meter k := rfl

@[simp] theorem State.setTick_account (s : State) (i : Fin 6) (n : Nat) (k : Fin 64) : (s.setTick i n).account k = s.account k := rfl

@[simp] theorem State.setTick_job (s : State) (i : Fin 6) (n : Nat) (k : Fin 32) : (s.setTick i n).job k = s.job k := rfl

@[simp] theorem State.setTick_channel (s : State) (i : Fin 6) (n : Nat) (k : ChannelNo) : (s.setTick i n).channel k = s.channel k := rfl

@[simp] theorem State.setTick_doc (s : State) (i : Fin 6) (n : Nat) (k : Fin 64) : (s.setTick i n).doc k = s.doc k := rfl

@[simp] theorem State.setTick_page (s : State) (i : Fin 6) (n : Nat) (k : Fin 256) : (s.setTick i n).page k = s.page k := rfl

@[simp] theorem State.setTick_profile (s : State) (i : Fin 6) (n : Nat) (k : Fin 8) : (s.setTick i n).profile k = s.profile k := rfl

/-! ### State.setDoc -/

@[simp] theorem State.setDoc_pending (s : State) (d : Fin 64) (x : Option Document) : (s.setDoc d x).pending = s.pending := rfl

@[simp] theorem State.setDoc_cfg (s : State) (d : Fin 64) (x : Option Document) : (s.setDoc d x).cfg = s.cfg := rfl

@[simp] theorem State.setDoc_store (s : State) (d : Fin 64) (x : Option Document) :
    (s.setDoc d x).store = { s.store with docs := Machine.store s.store.docs d x } := rfl

@[simp] theorem State.setDoc_scan (s : State) (d : Fin 64) (x : Option Document) : (s.setDoc d x).scan = s.scan := rfl

@[simp] theorem State.setDoc_jobs (s : State) (d : Fin 64) (x : Option Document) : (s.setDoc d x).jobs = s.jobs := rfl

@[simp] theorem State.setDoc_routes (s : State) (d : Fin 64) (x : Option Document) : (s.setDoc d x).routes = s.routes := rfl

@[simp] theorem State.setDoc_lines (s : State) (d : Fin 64) (x : Option Document) : (s.setDoc d x).lines = s.lines := rfl

@[simp] theorem State.setDoc_profiles (s : State) (d : Fin 64) (x : Option Document) : (s.setDoc d x).profiles = s.profiles := rfl

@[simp] theorem State.setDoc_procs (s : State) (d : Fin 64) (x : Option Document) : (s.setDoc d x).procs = s.procs := rfl

@[simp] theorem State.setDoc_slots (s : State) (d : Fin 64) (x : Option Document) : (s.setDoc d x).slots = s.slots := rfl

@[simp] theorem State.setDoc_ticks (s : State) (d : Fin 64) (x : Option Document) : (s.setDoc d x).ticks = s.ticks := rfl

@[simp] theorem State.setDoc_printer (s : State) (d : Fin 64) (x : Option Document) : (s.setDoc d x).printer = s.printer := rfl

@[simp] theorem State.setDoc_clock (s : State) (d : Fin 64) (x : Option Document) : (s.setDoc d x).clock = s.clock := rfl

@[simp] theorem State.setDoc_meters (s : State) (d : Fin 64) (x : Option Document) : (s.setDoc d x).meters = s.meters := rfl

@[simp] theorem State.setDoc_accounts (s : State) (d : Fin 64) (x : Option Document) : (s.setDoc d x).accounts = s.accounts := rfl

@[simp] theorem State.setDoc_charges (s : State) (d : Fin 64) (x : Option Document) : (s.setDoc d x).charges = s.charges := rfl

@[simp] theorem State.setDoc_link (s : State) (d : Fin 64) (x : Option Document) : (s.setDoc d x).link = s.link := rfl

@[simp] theorem State.setDoc_freeCount (s : State) (d : Fin 64) (x : Option Document) : (s.setDoc d x).freeCount = s.freeCount := rfl

@[simp] theorem State.setDoc_line (s : State) (d : Fin 64) (x : Option Document) (k : LineNo) : (s.setDoc d x).line k = s.line k := rfl

@[simp] theorem State.setDoc_proc (s : State) (d : Fin 64) (x : Option Document) (k : LineNo) : (s.setDoc d x).proc k = s.proc k := rfl

@[simp] theorem State.setDoc_slot (s : State) (d : Fin 64) (x : Option Document) (k : LineNo) : (s.setDoc d x).slot k = s.slot k := rfl

@[simp] theorem State.setDoc_meter (s : State) (d : Fin 64) (x : Option Document) (k : LineNo) : (s.setDoc d x).meter k = s.meter k := rfl

@[simp] theorem State.setDoc_account (s : State) (d : Fin 64) (x : Option Document) (k : Fin 64) : (s.setDoc d x).account k = s.account k := rfl

@[simp] theorem State.setDoc_job (s : State) (d : Fin 64) (x : Option Document) (k : Fin 32) : (s.setDoc d x).job k = s.job k := rfl

@[simp] theorem State.setDoc_channel (s : State) (d : Fin 64) (x : Option Document) (k : ChannelNo) : (s.setDoc d x).channel k = s.channel k := rfl

@[simp] theorem State.setDoc_doc_same (s : State) (d : Fin 64) (x : Option Document) : (s.setDoc d x).doc d = x := by
  simp [State.doc]

@[simp] theorem State.setDoc_doc_ne (s : State) (d : Fin 64) (x : Option Document) (k : Fin 64) (h : k ≠ d) :
    (s.setDoc d x).doc k = s.doc k := by
  simp [State.doc, h]

theorem State.setDoc_doc (s : State) (d : Fin 64) (x : Option Document) (k : Fin 64) :
    (s.setDoc d x).doc k = if k = d then x else s.doc k := by
  simp [State.doc, fetch_store]

@[simp] theorem State.setDoc_self (s : State) (d : Fin 64) : s.setDoc d (s.doc d) = s := by
  simp [State.setDoc, State.doc]

@[simp] theorem State.setDoc_twice (s : State) (d : Fin 64) (x : Option Document) (y : Option Document) :
    (s.setDoc d x).setDoc d y = s.setDoc d y := by
  simp [State.setDoc]

@[simp] theorem State.setDoc_page (s : State) (d : Fin 64) (x : Option Document) (k : Fin 256) : (s.setDoc d x).page k = s.page k := rfl

@[simp] theorem State.setDoc_profile (s : State) (d : Fin 64) (x : Option Document) (k : Fin 8) : (s.setDoc d x).profile k = s.profile k := rfl

/-! ### setPrinter -/

@[simp] theorem setPrinter_pending (s : State) (x : PrintChannel) : (setPrinter x s).pending = s.pending := rfl

@[simp] theorem setPrinter_cfg (s : State) (x : PrintChannel) : (setPrinter x s).cfg = s.cfg := rfl

@[simp] theorem setPrinter_store (s : State) (x : PrintChannel) : (setPrinter x s).store = s.store := rfl

@[simp] theorem setPrinter_scan (s : State) (x : PrintChannel) : (setPrinter x s).scan = s.scan := rfl

@[simp] theorem setPrinter_jobs (s : State) (x : PrintChannel) : (setPrinter x s).jobs = s.jobs := rfl

@[simp] theorem setPrinter_routes (s : State) (x : PrintChannel) : (setPrinter x s).routes = s.routes := rfl

@[simp] theorem setPrinter_lines (s : State) (x : PrintChannel) : (setPrinter x s).lines = s.lines := rfl

@[simp] theorem setPrinter_profiles (s : State) (x : PrintChannel) : (setPrinter x s).profiles = s.profiles := rfl

@[simp] theorem setPrinter_procs (s : State) (x : PrintChannel) : (setPrinter x s).procs = s.procs := rfl

@[simp] theorem setPrinter_slots (s : State) (x : PrintChannel) : (setPrinter x s).slots = s.slots := rfl

@[simp] theorem setPrinter_ticks (s : State) (x : PrintChannel) : (setPrinter x s).ticks = s.ticks := rfl

@[simp] theorem setPrinter_printer (s : State) (x : PrintChannel) :
    (setPrinter x s).printer = x := rfl

@[simp] theorem setPrinter_clock (s : State) (x : PrintChannel) : (setPrinter x s).clock = s.clock := rfl

@[simp] theorem setPrinter_meters (s : State) (x : PrintChannel) : (setPrinter x s).meters = s.meters := rfl

@[simp] theorem setPrinter_accounts (s : State) (x : PrintChannel) : (setPrinter x s).accounts = s.accounts := rfl

@[simp] theorem setPrinter_charges (s : State) (x : PrintChannel) : (setPrinter x s).charges = s.charges := rfl

@[simp] theorem setPrinter_link (s : State) (x : PrintChannel) : (setPrinter x s).link = s.link := rfl

@[simp] theorem setPrinter_freeCount (s : State) (x : PrintChannel) : (setPrinter x s).freeCount = s.freeCount := rfl

@[simp] theorem setPrinter_line (s : State) (x : PrintChannel) (k : LineNo) : (setPrinter x s).line k = s.line k := rfl

@[simp] theorem setPrinter_proc (s : State) (x : PrintChannel) (k : LineNo) : (setPrinter x s).proc k = s.proc k := rfl

@[simp] theorem setPrinter_slot (s : State) (x : PrintChannel) (k : LineNo) : (setPrinter x s).slot k = s.slot k := rfl

@[simp] theorem setPrinter_meter (s : State) (x : PrintChannel) (k : LineNo) : (setPrinter x s).meter k = s.meter k := rfl

@[simp] theorem setPrinter_account (s : State) (x : PrintChannel) (k : Fin 64) : (setPrinter x s).account k = s.account k := rfl

@[simp] theorem setPrinter_job (s : State) (x : PrintChannel) (k : Fin 32) : (setPrinter x s).job k = s.job k := rfl

@[simp] theorem setPrinter_channel (s : State) (x : PrintChannel) (k : ChannelNo) : (setPrinter x s).channel k = s.channel k := rfl

@[simp] theorem setPrinter_doc (s : State) (x : PrintChannel) (k : Fin 64) : (setPrinter x s).doc k = s.doc k := rfl

@[simp] theorem setPrinter_page (s : State) (x : PrintChannel) (k : Fin 256) : (setPrinter x s).page k = s.page k := rfl

@[simp] theorem setPrinter_profile (s : State) (x : PrintChannel) (k : Fin 8) : (setPrinter x s).profile k = s.profile k := rfl

/-! ### setClock -/

@[simp] theorem setClock_pending (s : State) (x : Clock) : (setClock x s).pending = s.pending := rfl

@[simp] theorem setClock_cfg (s : State) (x : Clock) : (setClock x s).cfg = s.cfg := rfl

@[simp] theorem setClock_store (s : State) (x : Clock) : (setClock x s).store = s.store := rfl

@[simp] theorem setClock_scan (s : State) (x : Clock) : (setClock x s).scan = s.scan := rfl

@[simp] theorem setClock_jobs (s : State) (x : Clock) : (setClock x s).jobs = s.jobs := rfl

@[simp] theorem setClock_routes (s : State) (x : Clock) : (setClock x s).routes = s.routes := rfl

@[simp] theorem setClock_lines (s : State) (x : Clock) : (setClock x s).lines = s.lines := rfl

@[simp] theorem setClock_profiles (s : State) (x : Clock) : (setClock x s).profiles = s.profiles := rfl

@[simp] theorem setClock_procs (s : State) (x : Clock) : (setClock x s).procs = s.procs := rfl

@[simp] theorem setClock_slots (s : State) (x : Clock) : (setClock x s).slots = s.slots := rfl

@[simp] theorem setClock_ticks (s : State) (x : Clock) : (setClock x s).ticks = s.ticks := rfl

@[simp] theorem setClock_printer (s : State) (x : Clock) : (setClock x s).printer = s.printer := rfl

@[simp] theorem setClock_clock (s : State) (x : Clock) :
    (setClock x s).clock = x := rfl

@[simp] theorem setClock_meters (s : State) (x : Clock) : (setClock x s).meters = s.meters := rfl

@[simp] theorem setClock_accounts (s : State) (x : Clock) : (setClock x s).accounts = s.accounts := rfl

@[simp] theorem setClock_charges (s : State) (x : Clock) : (setClock x s).charges = s.charges := rfl

@[simp] theorem setClock_link (s : State) (x : Clock) : (setClock x s).link = s.link := rfl

@[simp] theorem setClock_freeCount (s : State) (x : Clock) : (setClock x s).freeCount = s.freeCount := rfl

@[simp] theorem setClock_line (s : State) (x : Clock) (k : LineNo) : (setClock x s).line k = s.line k := rfl

@[simp] theorem setClock_proc (s : State) (x : Clock) (k : LineNo) : (setClock x s).proc k = s.proc k := rfl

@[simp] theorem setClock_slot (s : State) (x : Clock) (k : LineNo) : (setClock x s).slot k = s.slot k := rfl

@[simp] theorem setClock_meter (s : State) (x : Clock) (k : LineNo) : (setClock x s).meter k = s.meter k := rfl

@[simp] theorem setClock_account (s : State) (x : Clock) (k : Fin 64) : (setClock x s).account k = s.account k := rfl

@[simp] theorem setClock_job (s : State) (x : Clock) (k : Fin 32) : (setClock x s).job k = s.job k := rfl

@[simp] theorem setClock_channel (s : State) (x : Clock) (k : ChannelNo) : (setClock x s).channel k = s.channel k := rfl

@[simp] theorem setClock_doc (s : State) (x : Clock) (k : Fin 64) : (setClock x s).doc k = s.doc k := rfl

@[simp] theorem setClock_page (s : State) (x : Clock) (k : Fin 256) : (setClock x s).page k = s.page k := rfl

@[simp] theorem setClock_profile (s : State) (x : Clock) (k : Fin 8) : (setClock x s).profile k = s.profile k := rfl

/-! ### setRoutes -/

@[simp] theorem setRoutes_pending (s : State) (x : RouteTable) : (setRoutes x s).pending = s.pending := rfl

@[simp] theorem setRoutes_cfg (s : State) (x : RouteTable) : (setRoutes x s).cfg = s.cfg := rfl

@[simp] theorem setRoutes_store (s : State) (x : RouteTable) : (setRoutes x s).store = s.store := rfl

@[simp] theorem setRoutes_scan (s : State) (x : RouteTable) : (setRoutes x s).scan = s.scan := rfl

@[simp] theorem setRoutes_jobs (s : State) (x : RouteTable) : (setRoutes x s).jobs = s.jobs := rfl

@[simp] theorem setRoutes_routes (s : State) (x : RouteTable) :
    (setRoutes x s).routes = x := rfl

@[simp] theorem setRoutes_lines (s : State) (x : RouteTable) : (setRoutes x s).lines = s.lines := rfl

@[simp] theorem setRoutes_profiles (s : State) (x : RouteTable) : (setRoutes x s).profiles = s.profiles := rfl

@[simp] theorem setRoutes_procs (s : State) (x : RouteTable) : (setRoutes x s).procs = s.procs := rfl

@[simp] theorem setRoutes_slots (s : State) (x : RouteTable) : (setRoutes x s).slots = s.slots := rfl

@[simp] theorem setRoutes_ticks (s : State) (x : RouteTable) : (setRoutes x s).ticks = s.ticks := rfl

@[simp] theorem setRoutes_printer (s : State) (x : RouteTable) : (setRoutes x s).printer = s.printer := rfl

@[simp] theorem setRoutes_clock (s : State) (x : RouteTable) : (setRoutes x s).clock = s.clock := rfl

@[simp] theorem setRoutes_meters (s : State) (x : RouteTable) : (setRoutes x s).meters = s.meters := rfl

@[simp] theorem setRoutes_accounts (s : State) (x : RouteTable) : (setRoutes x s).accounts = s.accounts := rfl

@[simp] theorem setRoutes_charges (s : State) (x : RouteTable) : (setRoutes x s).charges = s.charges := rfl

@[simp] theorem setRoutes_link (s : State) (x : RouteTable) : (setRoutes x s).link = s.link := rfl

@[simp] theorem setRoutes_freeCount (s : State) (x : RouteTable) : (setRoutes x s).freeCount = s.freeCount := rfl

@[simp] theorem setRoutes_line (s : State) (x : RouteTable) (k : LineNo) : (setRoutes x s).line k = s.line k := rfl

@[simp] theorem setRoutes_proc (s : State) (x : RouteTable) (k : LineNo) : (setRoutes x s).proc k = s.proc k := rfl

@[simp] theorem setRoutes_slot (s : State) (x : RouteTable) (k : LineNo) : (setRoutes x s).slot k = s.slot k := rfl

@[simp] theorem setRoutes_meter (s : State) (x : RouteTable) (k : LineNo) : (setRoutes x s).meter k = s.meter k := rfl

@[simp] theorem setRoutes_account (s : State) (x : RouteTable) (k : Fin 64) : (setRoutes x s).account k = s.account k := rfl

@[simp] theorem setRoutes_job (s : State) (x : RouteTable) (k : Fin 32) : (setRoutes x s).job k = s.job k := rfl

@[simp] theorem setRoutes_channel (s : State) (x : RouteTable) (k : ChannelNo) : (setRoutes x s).channel k = s.channel k := rfl

@[simp] theorem setRoutes_doc (s : State) (x : RouteTable) (k : Fin 64) : (setRoutes x s).doc k = s.doc k := rfl

@[simp] theorem setRoutes_page (s : State) (x : RouteTable) (k : Fin 256) : (setRoutes x s).page k = s.page k := rfl

@[simp] theorem setRoutes_profile (s : State) (x : RouteTable) (k : Fin 8) : (setRoutes x s).profile k = s.profile k := rfl

/-! ### report -/

@[simp] theorem report_pending (s : State) (r : Report) : (report r s).pending = s.pending := rfl

@[simp] theorem report_cfg (s : State) (r : Report) : (report r s).cfg = s.cfg := rfl

@[simp] theorem report_store (s : State) (r : Report) : (report r s).store = s.store := rfl

@[simp] theorem report_scan (s : State) (r : Report) : (report r s).scan = s.scan := rfl

@[simp] theorem report_jobs (s : State) (r : Report) : (report r s).jobs = s.jobs := rfl

@[simp] theorem report_routes (s : State) (r : Report) : (report r s).routes = s.routes := rfl

@[simp] theorem report_lines (s : State) (r : Report) : (report r s).lines = s.lines := rfl

@[simp] theorem report_profiles (s : State) (r : Report) : (report r s).profiles = s.profiles := rfl

@[simp] theorem report_procs (s : State) (r : Report) : (report r s).procs = s.procs := rfl

@[simp] theorem report_slots (s : State) (r : Report) : (report r s).slots = s.slots := rfl

@[simp] theorem report_ticks (s : State) (r : Report) : (report r s).ticks = s.ticks := rfl

@[simp] theorem report_printer (s : State) (r : Report) : (report r s).printer = s.printer := rfl

@[simp] theorem report_clock (s : State) (r : Report) : (report r s).clock = s.clock := rfl

@[simp] theorem report_meters (s : State) (r : Report) : (report r s).meters = s.meters := rfl

@[simp] theorem report_accounts (s : State) (r : Report) : (report r s).accounts = s.accounts := rfl

@[simp] theorem report_charges (s : State) (r : Report) : (report r s).charges = s.charges := rfl

@[simp] theorem report_link (s : State) (r : Report) :
    (report r s).link = s.link.offer r := rfl

@[simp] theorem report_freeCount (s : State) (r : Report) : (report r s).freeCount = s.freeCount := rfl

@[simp] theorem report_line (s : State) (r : Report) (k : LineNo) : (report r s).line k = s.line k := rfl

@[simp] theorem report_proc (s : State) (r : Report) (k : LineNo) : (report r s).proc k = s.proc k := rfl

@[simp] theorem report_slot (s : State) (r : Report) (k : LineNo) : (report r s).slot k = s.slot k := rfl

@[simp] theorem report_meter (s : State) (r : Report) (k : LineNo) : (report r s).meter k = s.meter k := rfl

@[simp] theorem report_account (s : State) (r : Report) (k : Fin 64) : (report r s).account k = s.account k := rfl

@[simp] theorem report_job (s : State) (r : Report) (k : Fin 32) : (report r s).job k = s.job k := rfl

@[simp] theorem report_channel (s : State) (r : Report) (k : ChannelNo) : (report r s).channel k = s.channel k := rfl

@[simp] theorem report_doc (s : State) (r : Report) (k : Fin 64) : (report r s).doc k = s.doc k := rfl

@[simp] theorem report_page (s : State) (r : Report) (k : Fin 256) : (report r s).page k = s.page k := rfl

@[simp] theorem report_profile (s : State) (r : Report) (k : Fin 8) : (report r s).profile k = s.profile k := rfl

/-! ### sendCredit -/

@[simp] theorem sendCredit_pending (s : State) (c : ChannelNo) (f : CreditFrame) : (sendCredit c f s).pending = s.pending := rfl

@[simp] theorem sendCredit_cfg (s : State) (c : ChannelNo) (f : CreditFrame) : (sendCredit c f s).cfg = s.cfg := rfl

@[simp] theorem sendCredit_store (s : State) (c : ChannelNo) (f : CreditFrame) : (sendCredit c f s).store = s.store := rfl

@[simp] theorem sendCredit_scan (s : State) (c : ChannelNo) (f : CreditFrame) : (sendCredit c f s).scan = s.scan := rfl

@[simp] theorem sendCredit_jobs (s : State) (c : ChannelNo) (f : CreditFrame) : (sendCredit c f s).jobs = s.jobs := rfl

@[simp] theorem sendCredit_routes (s : State) (c : ChannelNo) (f : CreditFrame) : (sendCredit c f s).routes = s.routes := rfl

@[simp] theorem sendCredit_lines (s : State) (c : ChannelNo) (f : CreditFrame) : (sendCredit c f s).lines = s.lines := rfl

@[simp] theorem sendCredit_profiles (s : State) (c : ChannelNo) (f : CreditFrame) : (sendCredit c f s).profiles = s.profiles := rfl

@[simp] theorem sendCredit_procs (s : State) (c : ChannelNo) (f : CreditFrame) : (sendCredit c f s).procs = s.procs := rfl

@[simp] theorem sendCredit_slots (s : State) (c : ChannelNo) (f : CreditFrame) : (sendCredit c f s).slots = s.slots := rfl

@[simp] theorem sendCredit_ticks (s : State) (c : ChannelNo) (f : CreditFrame) : (sendCredit c f s).ticks = s.ticks := rfl

@[simp] theorem sendCredit_printer (s : State) (c : ChannelNo) (f : CreditFrame) : (sendCredit c f s).printer = s.printer := rfl

@[simp] theorem sendCredit_clock (s : State) (c : ChannelNo) (f : CreditFrame) : (sendCredit c f s).clock = s.clock := rfl

@[simp] theorem sendCredit_meters (s : State) (c : ChannelNo) (f : CreditFrame) : (sendCredit c f s).meters = s.meters := rfl

@[simp] theorem sendCredit_accounts (s : State) (c : ChannelNo) (f : CreditFrame) : (sendCredit c f s).accounts = s.accounts := rfl

@[simp] theorem sendCredit_charges (s : State) (c : ChannelNo) (f : CreditFrame) : (sendCredit c f s).charges = s.charges := rfl

@[simp] theorem sendCredit_link (s : State) (c : ChannelNo) (f : CreditFrame) :
    (sendCredit c f s).link = { s.link with credits := store s.link.credits c (some f) } := rfl

@[simp] theorem sendCredit_freeCount (s : State) (c : ChannelNo) (f : CreditFrame) : (sendCredit c f s).freeCount = s.freeCount := rfl

@[simp] theorem sendCredit_line (s : State) (c : ChannelNo) (f : CreditFrame) (k : LineNo) : (sendCredit c f s).line k = s.line k := rfl

@[simp] theorem sendCredit_proc (s : State) (c : ChannelNo) (f : CreditFrame) (k : LineNo) : (sendCredit c f s).proc k = s.proc k := rfl

@[simp] theorem sendCredit_slot (s : State) (c : ChannelNo) (f : CreditFrame) (k : LineNo) : (sendCredit c f s).slot k = s.slot k := rfl

@[simp] theorem sendCredit_meter (s : State) (c : ChannelNo) (f : CreditFrame) (k : LineNo) : (sendCredit c f s).meter k = s.meter k := rfl

@[simp] theorem sendCredit_account (s : State) (c : ChannelNo) (f : CreditFrame) (k : Fin 64) : (sendCredit c f s).account k = s.account k := rfl

@[simp] theorem sendCredit_job (s : State) (c : ChannelNo) (f : CreditFrame) (k : Fin 32) : (sendCredit c f s).job k = s.job k := rfl

@[simp] theorem sendCredit_channel (s : State) (c : ChannelNo) (f : CreditFrame) (k : ChannelNo) : (sendCredit c f s).channel k = s.channel k := rfl

@[simp] theorem sendCredit_doc (s : State) (c : ChannelNo) (f : CreditFrame) (k : Fin 64) : (sendCredit c f s).doc k = s.doc k := rfl

@[simp] theorem sendCredit_page (s : State) (c : ChannelNo) (f : CreditFrame) (k : Fin 256) : (sendCredit c f s).page k = s.page k := rfl

@[simp] theorem sendCredit_profile (s : State) (c : ChannelNo) (f : CreditFrame) (k : Fin 8) : (sendCredit c f s).profile k = s.profile k := rfl

/-! ### trigger -/

@[simp] theorem trigger_pending (s : State) : (trigger s).pending = s.pending := by unfold trigger; split <;> rfl

@[simp] theorem trigger_cfg (s : State) : (trigger s).cfg = s.cfg := by unfold trigger; split <;> rfl

@[simp] theorem trigger_store (s : State) : (trigger s).store = s.store := by unfold trigger; split <;> rfl

@[simp] theorem trigger_scan (s : State) : (trigger s).scan = s.scan := by unfold trigger; split <;> rfl

@[simp] theorem trigger_jobs (s : State) : (trigger s).jobs = s.jobs := by unfold trigger; split <;> rfl

@[simp] theorem trigger_lines (s : State) : (trigger s).lines = s.lines := by unfold trigger; split <;> rfl

@[simp] theorem trigger_profiles (s : State) : (trigger s).profiles = s.profiles := by unfold trigger; split <;> rfl

@[simp] theorem trigger_procs (s : State) : (trigger s).procs = s.procs := by unfold trigger; split <;> rfl

@[simp] theorem trigger_slots (s : State) : (trigger s).slots = s.slots := by unfold trigger; split <;> rfl

@[simp] theorem trigger_ticks (s : State) : (trigger s).ticks = s.ticks := by unfold trigger; split <;> rfl

@[simp] theorem trigger_printer (s : State) : (trigger s).printer = s.printer := by unfold trigger; split <;> rfl

@[simp] theorem trigger_clock (s : State) : (trigger s).clock = s.clock := by unfold trigger; split <;> rfl

@[simp] theorem trigger_meters (s : State) : (trigger s).meters = s.meters := by unfold trigger; split <;> rfl

@[simp] theorem trigger_accounts (s : State) : (trigger s).accounts = s.accounts := by unfold trigger; split <;> rfl

@[simp] theorem trigger_charges (s : State) : (trigger s).charges = s.charges := by unfold trigger; split <;> rfl

@[simp] theorem trigger_link (s : State) : (trigger s).link = s.link := by unfold trigger; split <;> rfl

@[simp] theorem trigger_freeCount (s : State) : (trigger s).freeCount = s.freeCount := by unfold trigger; split <;> rfl

@[simp] theorem trigger_line (s : State) (k : LineNo) : (trigger s).line k = s.line k := by unfold trigger; split <;> rfl

@[simp] theorem trigger_proc (s : State) (k : LineNo) : (trigger s).proc k = s.proc k := by unfold trigger; split <;> rfl

@[simp] theorem trigger_slot (s : State) (k : LineNo) : (trigger s).slot k = s.slot k := by unfold trigger; split <;> rfl

@[simp] theorem trigger_meter (s : State) (k : LineNo) : (trigger s).meter k = s.meter k := by unfold trigger; split <;> rfl

@[simp] theorem trigger_account (s : State) (k : Fin 64) : (trigger s).account k = s.account k := by unfold trigger; split <;> rfl

@[simp] theorem trigger_job (s : State) (k : Fin 32) : (trigger s).job k = s.job k := by unfold trigger; split <;> rfl

@[simp] theorem trigger_channel (s : State) (k : ChannelNo) : (trigger s).channel k = s.channel k := by unfold trigger; split <;> rfl

@[simp] theorem trigger_doc (s : State) (k : Fin 64) : (trigger s).doc k = s.doc k := by unfold trigger; split <;> rfl

@[simp] theorem trigger_page (s : State) (k : Fin 256) : (trigger s).page k = s.page k := by unfold trigger; split <;> rfl

@[simp] theorem trigger_profile (s : State) (k : Fin 8) : (trigger s).profile k = s.profile k := by unfold trigger; split <;> rfl

/-! ### startPass -/

@[simp] theorem startPass_pending (s : State) : (startPass s).pending = s.pending := rfl

@[simp] theorem startPass_cfg (s : State) : (startPass s).cfg = s.cfg := rfl

@[simp] theorem startPass_store (s : State) : (startPass s).store = s.store := rfl

@[simp] theorem startPass_scan (s : State) : (startPass s).scan = s.scan := rfl

@[simp] theorem startPass_jobs (s : State) : (startPass s).jobs = s.jobs := rfl

@[simp] theorem startPass_routes (s : State) :
    (startPass s).routes = { s.routes with passing := true, candidates := candidates s } := rfl

@[simp] theorem startPass_lines (s : State) : (startPass s).lines = s.lines := rfl

@[simp] theorem startPass_profiles (s : State) : (startPass s).profiles = s.profiles := rfl

@[simp] theorem startPass_procs (s : State) : (startPass s).procs = s.procs := rfl

@[simp] theorem startPass_slots (s : State) : (startPass s).slots = s.slots := rfl

@[simp] theorem startPass_ticks (s : State) : (startPass s).ticks = s.ticks := rfl

@[simp] theorem startPass_printer (s : State) : (startPass s).printer = s.printer := rfl

@[simp] theorem startPass_clock (s : State) : (startPass s).clock = s.clock := rfl

@[simp] theorem startPass_meters (s : State) : (startPass s).meters = s.meters := rfl

@[simp] theorem startPass_accounts (s : State) : (startPass s).accounts = s.accounts := rfl

@[simp] theorem startPass_charges (s : State) : (startPass s).charges = s.charges := rfl

@[simp] theorem startPass_link (s : State) : (startPass s).link = s.link := rfl

@[simp] theorem startPass_freeCount (s : State) : (startPass s).freeCount = s.freeCount := rfl

@[simp] theorem startPass_line (s : State) (k : LineNo) : (startPass s).line k = s.line k := rfl

@[simp] theorem startPass_proc (s : State) (k : LineNo) : (startPass s).proc k = s.proc k := rfl

@[simp] theorem startPass_slot (s : State) (k : LineNo) : (startPass s).slot k = s.slot k := rfl

@[simp] theorem startPass_meter (s : State) (k : LineNo) : (startPass s).meter k = s.meter k := rfl

@[simp] theorem startPass_account (s : State) (k : Fin 64) : (startPass s).account k = s.account k := rfl

@[simp] theorem startPass_job (s : State) (k : Fin 32) : (startPass s).job k = s.job k := rfl

@[simp] theorem startPass_channel (s : State) (k : ChannelNo) : (startPass s).channel k = s.channel k := rfl

@[simp] theorem startPass_doc (s : State) (k : Fin 64) : (startPass s).doc k = s.doc k := rfl

@[simp] theorem startPass_page (s : State) (k : Fin 256) : (startPass s).page k = s.page k := rfl

@[simp] theorem startPass_profile (s : State) (k : Fin 8) : (startPass s).profile k = s.profile k := rfl

/-! ### dropCandidates -/

@[simp] theorem dropCandidates_pending (s : State) (j : Fin 32) : (dropCandidates j s).pending = s.pending := rfl

@[simp] theorem dropCandidates_cfg (s : State) (j : Fin 32) : (dropCandidates j s).cfg = s.cfg := rfl

@[simp] theorem dropCandidates_store (s : State) (j : Fin 32) : (dropCandidates j s).store = s.store := rfl

@[simp] theorem dropCandidates_scan (s : State) (j : Fin 32) : (dropCandidates j s).scan = s.scan := rfl

@[simp] theorem dropCandidates_jobs (s : State) (j : Fin 32) : (dropCandidates j s).jobs = s.jobs := rfl

@[simp] theorem dropCandidates_routes (s : State) (j : Fin 32) :
    (dropCandidates j s).routes = { s.routes with candidates := s.routes.candidates.filter (fun c => decide (c.1 ≠ j)) } := rfl

@[simp] theorem dropCandidates_lines (s : State) (j : Fin 32) : (dropCandidates j s).lines = s.lines := rfl

@[simp] theorem dropCandidates_profiles (s : State) (j : Fin 32) : (dropCandidates j s).profiles = s.profiles := rfl

@[simp] theorem dropCandidates_procs (s : State) (j : Fin 32) : (dropCandidates j s).procs = s.procs := rfl

@[simp] theorem dropCandidates_slots (s : State) (j : Fin 32) : (dropCandidates j s).slots = s.slots := rfl

@[simp] theorem dropCandidates_ticks (s : State) (j : Fin 32) : (dropCandidates j s).ticks = s.ticks := rfl

@[simp] theorem dropCandidates_printer (s : State) (j : Fin 32) : (dropCandidates j s).printer = s.printer := rfl

@[simp] theorem dropCandidates_clock (s : State) (j : Fin 32) : (dropCandidates j s).clock = s.clock := rfl

@[simp] theorem dropCandidates_meters (s : State) (j : Fin 32) : (dropCandidates j s).meters = s.meters := rfl

@[simp] theorem dropCandidates_accounts (s : State) (j : Fin 32) : (dropCandidates j s).accounts = s.accounts := rfl

@[simp] theorem dropCandidates_charges (s : State) (j : Fin 32) : (dropCandidates j s).charges = s.charges := rfl

@[simp] theorem dropCandidates_link (s : State) (j : Fin 32) : (dropCandidates j s).link = s.link := rfl

@[simp] theorem dropCandidates_freeCount (s : State) (j : Fin 32) : (dropCandidates j s).freeCount = s.freeCount := rfl

@[simp] theorem dropCandidates_line (s : State) (j : Fin 32) (k : LineNo) : (dropCandidates j s).line k = s.line k := rfl

@[simp] theorem dropCandidates_proc (s : State) (j : Fin 32) (k : LineNo) : (dropCandidates j s).proc k = s.proc k := rfl

@[simp] theorem dropCandidates_slot (s : State) (j : Fin 32) (k : LineNo) : (dropCandidates j s).slot k = s.slot k := rfl

@[simp] theorem dropCandidates_meter (s : State) (j : Fin 32) (k : LineNo) : (dropCandidates j s).meter k = s.meter k := rfl

@[simp] theorem dropCandidates_account (s : State) (j : Fin 32) (k : Fin 64) : (dropCandidates j s).account k = s.account k := rfl

@[simp] theorem dropCandidates_job (s : State) (j : Fin 32) (k : Fin 32) : (dropCandidates j s).job k = s.job k := rfl

@[simp] theorem dropCandidates_channel (s : State) (j : Fin 32) (k : ChannelNo) : (dropCandidates j s).channel k = s.channel k := rfl

@[simp] theorem dropCandidates_doc (s : State) (j : Fin 32) (k : Fin 64) : (dropCandidates j s).doc k = s.doc k := rfl

@[simp] theorem dropCandidates_page (s : State) (j : Fin 32) (k : Fin 256) : (dropCandidates j s).page k = s.page k := rfl

@[simp] theorem dropCandidates_profile (s : State) (j : Fin 32) (k : Fin 8) : (dropCandidates j s).profile k = s.profile k := rfl

/-! ### setCoder -/

@[simp] theorem setCoder_pending (s : State) (x : CoderState) : (setCoder x s).pending = s.pending := rfl

@[simp] theorem setCoder_cfg (s : State) (x : CoderState) : (setCoder x s).cfg = s.cfg := rfl

@[simp] theorem setCoder_store (s : State) (x : CoderState) : (setCoder x s).store = s.store := rfl

@[simp] theorem setCoder_scan (s : State) (x : CoderState) :
    (setCoder x s).scan = { s.scan with coder := x } := rfl

@[simp] theorem setCoder_jobs (s : State) (x : CoderState) : (setCoder x s).jobs = s.jobs := rfl

@[simp] theorem setCoder_routes (s : State) (x : CoderState) : (setCoder x s).routes = s.routes := rfl

@[simp] theorem setCoder_lines (s : State) (x : CoderState) : (setCoder x s).lines = s.lines := rfl

@[simp] theorem setCoder_profiles (s : State) (x : CoderState) : (setCoder x s).profiles = s.profiles := rfl

@[simp] theorem setCoder_procs (s : State) (x : CoderState) : (setCoder x s).procs = s.procs := rfl

@[simp] theorem setCoder_slots (s : State) (x : CoderState) : (setCoder x s).slots = s.slots := rfl

@[simp] theorem setCoder_ticks (s : State) (x : CoderState) : (setCoder x s).ticks = s.ticks := rfl

@[simp] theorem setCoder_printer (s : State) (x : CoderState) : (setCoder x s).printer = s.printer := rfl

@[simp] theorem setCoder_clock (s : State) (x : CoderState) : (setCoder x s).clock = s.clock := rfl

@[simp] theorem setCoder_meters (s : State) (x : CoderState) : (setCoder x s).meters = s.meters := rfl

@[simp] theorem setCoder_accounts (s : State) (x : CoderState) : (setCoder x s).accounts = s.accounts := rfl

@[simp] theorem setCoder_charges (s : State) (x : CoderState) : (setCoder x s).charges = s.charges := rfl

@[simp] theorem setCoder_link (s : State) (x : CoderState) : (setCoder x s).link = s.link := rfl

@[simp] theorem setCoder_freeCount (s : State) (x : CoderState) : (setCoder x s).freeCount = s.freeCount := rfl

@[simp] theorem setCoder_line (s : State) (x : CoderState) (k : LineNo) : (setCoder x s).line k = s.line k := rfl

@[simp] theorem setCoder_proc (s : State) (x : CoderState) (k : LineNo) : (setCoder x s).proc k = s.proc k := rfl

@[simp] theorem setCoder_slot (s : State) (x : CoderState) (k : LineNo) : (setCoder x s).slot k = s.slot k := rfl

@[simp] theorem setCoder_meter (s : State) (x : CoderState) (k : LineNo) : (setCoder x s).meter k = s.meter k := rfl

@[simp] theorem setCoder_account (s : State) (x : CoderState) (k : Fin 64) : (setCoder x s).account k = s.account k := rfl

@[simp] theorem setCoder_job (s : State) (x : CoderState) (k : Fin 32) : (setCoder x s).job k = s.job k := rfl

@[simp] theorem setCoder_channel (s : State) (x : CoderState) (k : ChannelNo) : (setCoder x s).channel k = s.channel k := rfl

@[simp] theorem setCoder_doc (s : State) (x : CoderState) (k : Fin 64) : (setCoder x s).doc k = s.doc k := rfl

@[simp] theorem setCoder_page (s : State) (x : CoderState) (k : Fin 256) : (setCoder x s).page k = s.page k := rfl

@[simp] theorem setCoder_profile (s : State) (x : CoderState) (k : Fin 8) : (setCoder x s).profile k = s.profile k := rfl

/-- A trigger sets passing, sets rerun where a pass was in progress, and has a pass that it starts take its candidates (R98, R99). -/
theorem trigger_routes (s : State) :
    (trigger s).routes = { s.routes with
      passing := true, rerun := s.routes.rerun || s.routes.passing,
      candidates := if s.routes.passing then s.routes.candidates else candidates s } := by
  unfold trigger startPass
  cases h : s.routes.passing <;> simp [h]

/-! ### The report queue (R209) -/

theorem Link.offer_room (k : Link) (r : Report) (h : k.reports.length < 64) :
    k.offer r = { k with reports := k.reports ++ [⟨r, k.gap⟩], gap := false } := by simp [Link.offer, h]

theorem Link.offer_full (k : Link) (r : Report) (h : 64 ≤ k.reports.length) : k.offer r = { k with gap := true } := by
  simp [Link.offer, Nat.not_lt.mpr h]

@[simp] theorem Link.offer_bytes (k : Link) (r : Report) : (k.offer r).bytes = k.bytes := by unfold Link.offer; split <;> rfl

@[simp] theorem Link.offer_orders (k : Link) (r : Report) : (k.offer r).orders = k.orders := by unfold Link.offer; split <;> rfl

@[simp] theorem Link.offer_inHand (k : Link) (r : Report) : (k.offer r).inHand = k.inHand := by unfold Link.offer; split <;> rfl

@[simp] theorem Link.offer_replies (k : Link) (r : Report) : (k.offer r).replies = k.replies := by unfold Link.offer; split <;> rfl

@[simp] theorem Link.offer_last (k : Link) (r : Report) : (k.offer r).last = k.last := by unfold Link.offer; split <;> rfl

@[simp] theorem Link.offer_credits (k : Link) (r : Report) : (k.offer r).credits = k.credits := by unfold Link.offer; split <;> rfl

@[simp] theorem Link.offer_sending (k : Link) (r : Report) : (k.offer r).sending = k.sending := by unfold Link.offer; split <;> rfl

end Sys2Proof.Machine
end

