-- ==== Sys2Proof/Laws/Memory.lean ====
section
/-! SUPPORT. The page memory: a read after a write, the canonical form kept by every operation that writes it, and the
operations on the store that do not. -/

namespace Sys2Proof.Machine

/-! ### The canonical form -/

theorem Memory.wf_cons (k : Nat) (v : Byte) (m : Memory) :
    Memory.wf ((k, v) :: m) = true ↔ v ≠ Config.unwrittenByte ∧ (∀ e ∈ m, k < e.1) ∧ m.wf = true := by
  induction m generalizing k v with
  | nil => simp [Memory.wf]
  | cons e m ih =>
    obtain ⟨k', v'⟩ := e
    have ih' := ih k' v'
    simp only [Memory.wf, Bool.and_eq_true, decide_eq_true_eq, List.mem_cons, forall_eq_or_imp]
    constructor
    · rintro ⟨⟨hv, hk⟩, hm⟩
      refine ⟨hv, ⟨hk, fun x hx => ?_⟩, hm⟩
      have h2 := (ih'.mp hm).2.1 x hx
      omega
    · rintro ⟨hv, ⟨hk, _⟩, hm⟩
      exact ⟨⟨hv, hk⟩, hm⟩

/-- An address below every entry reads as an unwritten byte. -/
theorem Memory.read_below (m : Memory) (a : Nat) (h : ∀ e ∈ m, a < e.1) : m.read a = Config.unwrittenByte := by
  cases m with
  | nil => rfl
  | cons e m =>
    obtain ⟨k, v⟩ := e
    have hk : a < k := h (k, v) (by simp)
    simp [Memory.read, hk, Nat.ne_of_lt hk]

/-- The entries after a write: the address written, or one that stood before. -/
theorem Memory.mem_write {m : Memory} {a : Nat} {b : Byte} {e : Host.Cell} (h : e ∈ m.write a b) : e.1 = a ∨ e ∈ m := by
  induction m with
  | nil =>
    simp only [Memory.write] at h
    split at h <;> simp_all
  | cons c m ih =>
    obtain ⟨k, v⟩ := c
    simp only [Memory.write] at h
    split at h
    · split at h
      · exact .inr h
      · rcases List.mem_cons.mp h with rfl | h
        · exact .inl rfl
        · exact .inr h
    · split at h
      · split at h
        · exact .inr (List.mem_cons_of_mem _ h)
        · rcases List.mem_cons.mp h with rfl | h
          · exact .inl rfl
          · exact .inr (List.mem_cons_of_mem _ h)
      · rcases List.mem_cons.mp h with rfl | h
        · exact .inr (by simp)
        · rcases ih h with h | h
          · exact .inl h
          · exact .inr (List.mem_cons_of_mem _ h)

/-- A write keeps the canonical form. -/
theorem Memory.write_wf {m : Memory} (h : m.wf = true) (a : Nat) (b : Byte) : (m.write a b).wf = true := by
  induction m with
  | nil =>
    simp only [Memory.write]
    split <;> simp_all [Memory.wf]
  | cons c m ih =>
    obtain ⟨k, v⟩ := c
    obtain ⟨hv, hk, hm⟩ := (Memory.wf_cons k v m).mp h
    simp only [Memory.write]
    split
    · rename_i hak
      split
      · exact h
      · rename_i hb
        refine (Memory.wf_cons _ _ _).mpr ⟨hb, ?_, h⟩
        intro e he
        rcases List.mem_cons.mp he with rfl | he
        · exact hak
        · exact Nat.lt_trans hak (hk e he)
    · split
      · rename_i _ hak
        split
        · exact hm
        · rename_i hb
          exact (Memory.wf_cons _ _ _).mpr ⟨hb, fun e he => hak ▸ hk e he, hm⟩
      · rename_i h1 h2
        refine (Memory.wf_cons _ _ _).mpr ⟨hv, ?_, ih hm⟩
        intro e he
        rcases Memory.mem_write he with he | he
        · omega
        · exact hk e he

/-- Reading after a write: the byte written at its address, and what stood there elsewhere. -/
theorem Memory.read_write {m : Memory} (h : m.wf = true) (a c : Nat) (b : Byte) :
    (m.write a b).read c = if c = a then b else m.read c := by
  induction m with
  | nil =>
    by_cases hb : b = Config.unwrittenByte <;> by_cases hc : c = a <;> simp [Memory.write, Memory.read, hb, hc]
  | cons e m ih =>
    obtain ⟨k, v⟩ := e
    obtain ⟨_, hk, hm⟩ := (Memory.wf_cons k v m).mp h
    have below : ∀ x, x ≤ k → Memory.read m x = Config.unwrittenByte := fun x hx =>
      Memory.read_below m x (fun e he => Nat.lt_of_le_of_lt hx (hk e he))
    simp only [Memory.write]
    split
    · rename_i hak
      split
      · rename_i hb
        by_cases hc : c = a
        · subst hc; simp [Memory.read, Nat.ne_of_lt hak, hak, hb]
        · simp [hc]
      · by_cases hc : c = a
        · simp [Memory.read, hc]
        · by_cases hca : c < a
          · have : c < k := by omega
            simp [Memory.read, hc, hca, this, Nat.ne_of_lt this]
          · simp [Memory.read, hc, hca]
    · split
      · rename_i _ hak
        subst hak
        split
        · rename_i hb
          by_cases hc : c = a
          · subst hc; simp [below c (Nat.le_refl c), hb]
          · by_cases hca : c < a
            · simp [Memory.read, hc, hca, below c (Nat.le_of_lt hca)]
            · simp [Memory.read, hc, hca]
        · by_cases hc : c = a
          · simp [Memory.read, hc]
          · simp [Memory.read, hc]
      · rename_i h1 h2
        have h3 : a ≠ k := h2
        simp only [Memory.read]
        by_cases hck : c = k
        · have hca : ¬ c = a := fun e => h3 (e.symm.trans hck)
          simp [hck, Ne.symm h3]
        · by_cases hlt : c < k
          · have hca : ¬ c = a := by omega
            simp [hck, hlt, hca]
          · simp [hck, hlt, ih hm]

/-- Canonical memories that read alike are equal. -/
theorem Memory.eq_of_read {m n : Memory} (hm : m.wf = true) (hn : n.wf = true) (h : ∀ a, m.read a = n.read a) : m = n := by
  induction m generalizing n with
  | nil =>
    cases n with
    | nil => rfl
    | cons e n =>
      obtain ⟨k, v⟩ := e
      have := h k
      simp [Memory.read] at this
      exact absurd this.symm ((Memory.wf_cons k v n).mp hn).1
  | cons e m ih =>
    obtain ⟨k, v⟩ := e
    obtain ⟨hv, hk, hm'⟩ := (Memory.wf_cons k v m).mp hm
    cases n with
    | nil =>
      have := h k
      simp [Memory.read] at this
      exact absurd this hv
    | cons f n =>
      obtain ⟨j, w⟩ := f
      obtain ⟨hw, hj, hn'⟩ := (Memory.wf_cons j w n).mp hn
      have hkj : k = j := by
        rcases Nat.lt_trichotomy k j with hlt | heq | hgt
        · have := h k
          simp [Memory.read, hlt, Nat.ne_of_lt hlt] at this
          exact absurd this hv
        · exact heq
        · have := h j
          simp [Memory.read, hgt, Nat.ne_of_lt hgt] at this
          exact absurd this.symm hw
      subst hkj
      have hvw : v = w := by simpa [Memory.read] using h k
      subst hvw
      have : m = n := by
        refine ih hm' hn' (fun a => ?_)
        by_cases ha : a ≤ k
        · rw [Memory.read_below m a (fun e he => Nat.lt_of_le_of_lt ha (hk e he)),
            Memory.read_below n a (fun e he => Nat.lt_of_le_of_lt ha (hj e he))]
        · have h1 : a ≠ k := by omega
          have h2 : ¬ a < k := by omega
          simpa [Memory.read, h1, h2] using h a
      rw [this]

/-! ### Pages -/

theorem Memory.writePage_wf (chain : List Nat) {m : Memory} (h : m.wf = true) (off : Nat) (bs : List Byte) :
    (Memory.writePage chain m off bs).wf = true := by
  induction bs generalizing m off with
  | nil => exact h
  | cons b bs ih => exact ih (Memory.write_wf h _ _) _

/-- Bytes outside the written part of a page read as before. -/
theorem Memory.read_writePage_ne (chain : List Nat) {m : Memory} (h : m.wf = true) (off : Nat) (bs : List Byte) (a : Nat)
    (ha : ∀ i, i < bs.length → pageAddress chain (off + i) ≠ a) : (Memory.writePage chain m off bs).read a = m.read a := by
  induction bs generalizing m off with
  | nil => rfl
  | cons b bs ih =>
    rw [Memory.writePage, ih (Memory.write_wf h _ _), Memory.read_write h, if_neg]
    · exact fun e => ha 0 (by simp) e.symm
    · intro i hi
      have := ha (i + 1) (by simpa using hi)
      rwa [Nat.add_assoc, Nat.add_comm 1 i]

/-- The bytes written to a page read back in order, its addresses being distinct. -/
theorem Memory.read_writePage (chain : List Nat) {m : Memory} (h : m.wf = true) (off : Nat) (bs : List Byte) (i : Nat)
    (hi : i < bs.length)
    (hd : ∀ p q, off ≤ p → p < q → q < off + bs.length → pageAddress chain p ≠ pageAddress chain q) :
    (Memory.writePage chain m off bs).read (pageAddress chain (off + i)) = bs[i] := by
  induction bs generalizing m off i with
  | nil => simp at hi
  | cons b bs ih =>
    have hlen : (b :: bs).length = bs.length + 1 := rfl
    have hw := Memory.write_wf h (pageAddress chain off) b
    rw [Memory.writePage]
    cases i with
    | zero =>
      rw [Memory.read_writePage_ne chain hw, Nat.add_zero, Memory.read_write h, if_pos rfl]
      · rfl
      · intro j hj
        exact (hd off (off + 1 + j) (by omega) (by omega) (by omega)).symm
    | succ i =>
      have := ih hw (off + 1) i (by omega) (fun p q h1 h2 h3 => hd p q (by omega) h2 (by omega))
      rw [show off + (i + 1) = off + 1 + i by omega, this]
      rfl

/-- Bytes of one chain lie at distinct addresses, where its blocks are distinct. -/
theorem pageAddress_inj {chain : List Nat} (h : chain.Nodup) {p q : Nat} (hp : p < chain.length * 2048)
    (hq : q < chain.length * 2048) (e : pageAddress chain p = pageAddress chain q) : p = q := by
  have hp' : p / 2048 < chain.length := by omega
  have hq' : q / 2048 < chain.length := by omega
  simp only [pageAddress, List.getD_eq_getElem _ _ hp', List.getD_eq_getElem _ _ hq'] at e
  have hb : chain[p / 2048] = chain[q / 2048] := by omega
  have := (List.Nodup.getElem_inj_iff h).mp hb
  omega

/-! ### The store's operations and its memory -/

@[simp] theorem Store.settle_mem (st : Store) (p : Fin 256) : (st.settle p).mem = st.mem := by
  simp only [Store.settle]
  split <;> rfl

@[simp] theorem Store.settleAll_mem (st : Store) (ps : List (Fin 256)) : (st.settleAll ps).mem = st.mem := by
  induction ps generalizing st with
  | nil => rfl
  | cons p ps ih => exact (ih (st.settle p)).trans (st.settle_mem p)

@[simp] theorem Store.setPage_mem (st : Store) (p : Fin 256) (x : Page) : (st.setPage p x).mem = st.mem := rfl
@[simp] theorem Store.setDocument_mem (st : Store) (d : Fin 64) (x : Option Document) : (st.setDocument d x).mem = st.mem := rfl
@[simp] theorem Store.changeDoc_mem (st : Store) (d : Fin 64) (f : Document → Document) : (st.changeDoc d f).mem = st.mem := rfl
@[simp] theorem Store.dropClaims_mem (st : Store) (f : Claim → Bool) : (st.dropClaims f).mem = st.mem := by
  simp [Store.dropClaims]
@[simp] theorem Store.dropHolder_mem (st : Store) (h : Holder) : (st.dropHolder h).mem = st.mem := by
  simp [Store.dropHolder]
@[simp] theorem Store.claimDocument_mem (st : Store) (h : Holder) (d : Fin 64) : (st.claimDocument h d).mem = st.mem := by
  unfold Store.claimDocument; split <;> rfl
@[simp] theorem Store.useClaim_mem (st : Store) (h : Holder) (k : Nat) : (st.useClaim h k).mem = st.mem := rfl
@[simp] theorem Store.endUse_mem (st : Store) (h : Holder) (a b c : Bool) : (st.endUse h a b c).mem = st.mem := by
  unfold Store.endUse; split <;> simp
@[simp] theorem Store.freeDocument_mem (st : Store) (d : Fin 64) : (st.freeDocument d).mem = st.mem := by
  unfold Store.freeDocument; split <;> simp
@[simp] theorem Store.freeIfDone_mem (st : Store) (d : Fin 64) : (st.freeIfDone d).mem = st.mem := by
  unfold Store.freeIfDone
  split
  · rfl
  · split <;> simp
@[simp] theorem Store.mapPage_mem (st : Store) (p : Fin 256) (w : Nat) (r : Resolution) (d : Fin 64) (hs : List Holder) :
    (st.mapPage p w r d hs).mem = st.mem := by
  unfold Store.mapPage; split <;> rfl
@[simp] theorem Store.takeReplacement_mem (st : Store) (p : Fin 256) (w : Nat) (r : Resolution) (d : Fin 64) (k : Nat) :
    (st.takeReplacement p w r d k).mem = st.mem := rfl
@[simp] theorem Store.sealPage_mem (st : Store) (p : Fin 256) (a b : Bool) : (st.sealPage p a b).mem = st.mem := rfl
@[simp] theorem Store.remap_mem (st : Store) (p : Fin 256) (d : Fin 64) (k : Nat) : (st.remap p d k).mem = st.mem := by
  unfold Store.remap; split <;> simp
@[simp] theorem Store.discard_mem (st : Store) (p : Fin 256) : (st.discard p).mem = st.mem := by
  simp [Store.discard]
@[simp] theorem Store.refill_mem (st : Store) (p : Fin 256) : (st.refill p).mem = st.mem := rfl
@[simp] theorem Store.restarted_mem (st : Store) : st.restarted.mem = st.mem := rfl

/-- Everything an append can do: the page was FILLING, and its bytes are written under its chain, or under its chain with
the head of the free list taken (R2, R6). -/
theorem Store.append_cases {st u : Store} {reserve : Nat} {purpose : Purpose} {p : Fin 256} {bytes : List Byte}
    {kind : AppendKind} (h : st.append reserve purpose p bytes kind = some u) :
    let x := fetch st.pages p
    x.state = .filling ∧
      ((x.length + bytes.length ≤ x.chain.length * 2048 ∧
          u = { st with mem := Memory.writePage x.chain st.mem x.length bytes,
                        pages := Machine.store st.pages p (x.appended x.chain bytes.length kind) }) ∨
        (x.chain.length * 2048 < x.length + bytes.length ∧ st.grantsBlock reserve purpose = true ∧
          ∃ b rest, st.freeList = b :: rest ∧
            u = { st with mem := Memory.writePage (x.chain ++ [b]) st.mem x.length bytes, freeList := rest,
                          pages := Machine.store st.pages p (x.appended (x.chain ++ [b]) bytes.length kind) })) := by
  unfold Store.append at h
  simp only at h
  split at h
  · cases h
  · rename_i hf
    refine ⟨by simpa using hf, ?_⟩
    split at h
    · rename_i hl
      exact .inl ⟨hl, (Option.some.inj h).symm⟩
    · rename_i hl
      split at h
      · rename_i hg
        split at h
        · cases h
        · rename_i b rest hr
          exact .inr ⟨Nat.lt_of_not_le hl, hg, b, rest, hr, (Option.some.inj h).symm⟩
      · cases h

/-- An append keeps the canonical form. -/
theorem Store.append_wf {st u : Store} {reserve : Nat} {purpose : Purpose} {p : Fin 256} {bytes : List Byte}
    {kind : AppendKind} (h : st.append reserve purpose p bytes kind = some u) (hw : st.mem.wf = true) : u.mem.wf = true := by
  obtain ⟨_, ⟨_, rfl⟩ | ⟨_, _, b, rest, _, rfl⟩⟩ := Store.append_cases h
  · exact Memory.writePage_wf _ hw _ _
  · exact Memory.writePage_wf _ hw _ _

/-- The memory of the state after reset is canonical: nothing is listed. -/
theorem State.reset_mem_wf : State.reset.store.mem.wf = true := rfl

end Sys2Proof.Machine
end

