-- ==== Sys2Proof/Laws/Store.lean ====
section
/-! SUPPORT. What the shared operations of the Page Memory Controller and of the credits can do: each operation said once, with
what it leaves as it was (R1 to R26, R52, R58). -/

namespace Sys2Proof.Machine

/-! ### Settling a page (R17) -/

/-- Everything settling can do: nothing, or the page becomes FREE and its chain joins the tail of the free list. -/
theorem Store.settle_cases (st : Store) (p : Fin 256) :
    st.settle p = st ∨
      (((fetch st.pages p).state = .sealed ∨ (fetch st.pages p).state = .void) ∧ (fetch st.pages p).mapped = false ∧
        st.claimCount p = 0 ∧
        st.settle p = { st with pages := Machine.store st.pages p .blank, freeList := st.freeList ++ (fetch st.pages p).chain }) := by
  simp only [Store.settle]
  split
  · rename_i h
    exact .inr ⟨h.1, h.2.1, h.2.2, rfl⟩
  · exact .inl rfl

@[simp] theorem Store.settle_frame (st : Store) (p : Fin 256) :
    (st.settle p).blocks = st.blocks ∧ (st.settle p).docs = st.docs ∧ (st.settle p).claims = st.claims := by
  rcases st.settle_cases p with h | ⟨_, _, _, h⟩ <;> rw [h] <;> simp

@[simp] theorem Store.settle_page_ne (st : Store) {p q : Fin 256} (h : q ≠ p) :
    fetch (st.settle p).pages q = fetch st.pages q := by
  rcases st.settle_cases p with e | ⟨_, _, _, e⟩ <;> rw [e] <;> simp [h]

@[simp] theorem Store.settleAll_frame (st : Store) (ps : List (Fin 256)) :
    (st.settleAll ps).blocks = st.blocks ∧ (st.settleAll ps).docs = st.docs ∧ (st.settleAll ps).claims = st.claims := by
  induction ps generalizing st with
  | nil => exact ⟨rfl, rfl, rfl⟩
  | cons p ps ih =>
    have h := ih (st.settle p)
    simpa [Store.settleAll] using h

theorem Store.settleAll_page_ne (st : Store) (ps : List (Fin 256)) {q : Fin 256} (h : q ∉ ps) :
    fetch (st.settleAll ps).pages q = fetch st.pages q := by
  induction ps generalizing st with
  | nil => rfl
  | cons p ps ih =>
    simp only [List.mem_cons, not_or] at h
    exact (ih (st.settle p) h.2).trans (st.settle_page_ne h.1)

/-- The free list only grows at its tail when pages are looked at. -/
theorem Store.settle_freeList (st : Store) (p : Fin 256) : st.freeList <+: (st.settle p).freeList := by
  rcases st.settle_cases p with e | ⟨_, _, _, e⟩ <;> rw [e]
  exact List.prefix_append _ _

theorem Store.settleAll_freeList (st : Store) (ps : List (Fin 256)) : st.freeList <+: (st.settleAll ps).freeList := by
  induction ps generalizing st with
  | nil => exact List.prefix_refl _
  | cons p ps ih => exact (st.settle_freeList p).trans (ih (st.settle p))

/-! ### What the other operations on the store leave -/

@[simp] theorem Store.changeDoc_frame (st : Store) (d : Fin 64) (f : Document → Document) :
    (st.changeDoc d f).blocks = st.blocks ∧ (st.changeDoc d f).freeList = st.freeList ∧ (st.changeDoc d f).pages = st.pages ∧
      (st.changeDoc d f).claims = st.claims ∧ (st.changeDoc d f).docs = change st.docs d (Option.map f) := ⟨rfl, rfl, rfl, rfl, rfl⟩

@[simp] theorem Store.useClaim_frame (st : Store) (h : Holder) (k : Nat) :
    (st.useClaim h k).blocks = st.blocks ∧ (st.useClaim h k).freeList = st.freeList ∧ (st.useClaim h k).pages = st.pages ∧
      (st.useClaim h k).docs = st.docs := ⟨rfl, rfl, rfl, rfl⟩

@[simp] theorem Store.claimDocument_frame (st : Store) (h : Holder) (d : Fin 64) :
    (st.claimDocument h d).blocks = st.blocks ∧ (st.claimDocument h d).freeList = st.freeList ∧
      (st.claimDocument h d).pages = st.pages ∧ (st.claimDocument h d).docs = st.docs := by
  unfold Store.claimDocument
  split <;> exact ⟨rfl, rfl, rfl, rfl⟩

@[simp] theorem Store.dropClaims_frame (st : Store) (gone : Claim → Bool) :
    (st.dropClaims gone).blocks = st.blocks ∧ (st.dropClaims gone).docs = st.docs ∧
      (st.dropClaims gone).claims = st.claims.filter (fun c => !gone c) := by
  simp [Store.dropClaims]

@[simp] theorem Store.dropHolder_frame (st : Store) (h : Holder) :
    (st.dropHolder h).blocks = st.blocks ∧ (st.dropHolder h).docs = st.docs ∧
      (st.dropHolder h).claims = st.claims.filter (fun c => !(decide (c.holder = h) && !c.inUse)) := by
  simp [Store.dropHolder]

@[simp] theorem Store.endUse_frame (st : Store) (h : Holder) (a b c : Bool) :
    (st.endUse h a b c).blocks = st.blocks ∧ (st.endUse h a b c).docs = st.docs := by
  unfold Store.endUse
  split <;> simp

/-- With no claim in use the end of a use changes nothing. -/
theorem Store.endUse_none (st : Store) (h : Holder) (a b c : Bool) (hn : st.usedClaim h = none) : st.endUse h a b c = st := by
  simp [Store.endUse, hn]

@[simp] theorem Store.sealPage_frame (st : Store) (p : Fin 256) (a b : Bool) :
    (st.sealPage p a b).blocks = st.blocks ∧ (st.sealPage p a b).freeList = st.freeList ∧
      (st.sealPage p a b).docs = st.docs ∧ (st.sealPage p a b).claims = st.claims ∧
      (st.sealPage p a b).pages = change st.pages p (fun x =>
        { x with state := .sealed, truncated := x.truncated || a, damaged := x.damaged || b }) := ⟨rfl, rfl, rfl, rfl, rfl⟩

@[simp] theorem Store.discard_frame (st : Store) (p : Fin 256) : (st.discard p).blocks = st.blocks := by
  simp [Store.discard]

theorem Store.discard_page_ne (st : Store) {p q : Fin 256} (h : q ≠ p) : fetch (st.discard p).pages q = fetch st.pages q := by
  simp [Store.discard, h]

theorem Store.mapPage_some {st : Store} {d : Fin 64} {x : Document} (h : fetch st.docs d = some x) (p : Fin 256) (w : Nat)
    (r : Resolution) (hs : List Holder) :
    st.mapPage p w r d hs =
      { st with pages := Machine.store st.pages p (.taken w r d x.slots.length true 0),
                docs := Machine.store st.docs d (some { x with slots := x.slots ++ [p] }),
                claims := st.claims ++ hs.map (fun h => ⟨h, d, x.slots.length, p, false, false⟩) } := by
  simp [Store.mapPage, h]

@[simp] theorem Store.freeDocument_frame (st : Store) (d : Fin 64) :
    (st.freeDocument d).blocks = st.blocks ∧ (st.freeDocument d).claims = st.claims := by
  unfold Store.freeDocument
  split <;> simp

/-- A document is freed exactly where it is released and no job names it (R11). -/
theorem Store.freeIfDone_some {st : Store} {d : Fin 64} {x : Document} (h : fetch st.docs d = some x) :
    st.freeIfDone d = if x.released = true ∧ x.jobCount = 0 then st.freeDocument d else st := by
  simp [Store.freeIfDone, h]

/-- Everything an append leaves (R6): the other pages, the documents and the claims. -/
theorem Store.append_frame {st u : Store} {reserve : Nat} {purpose : Purpose} {p : Fin 256} {bytes : List Byte}
    {kind : AppendKind} (h : st.append reserve purpose p bytes kind = some u) :
    u.blocks = st.blocks ∧ u.docs = st.docs ∧ u.claims = st.claims ∧ (∀ q, q ≠ p → fetch u.pages q = fetch st.pages q) := by
  obtain ⟨_, ⟨_, rfl⟩ | ⟨_, _, b, rest, _, rfl⟩⟩ := Store.append_cases h
  · exact ⟨rfl, rfl, rfl, fun q hq => by simp [hq]⟩
  · exact ⟨rfl, rfl, rfl, fun q hq => by simp [hq]⟩

/-- An append to a FILLING page whose bytes fit its chain is granted (R6). -/
theorem Store.append_fits {st : Store} {reserve : Nat} {purpose : Purpose} {p : Fin 256} {bytes : List Byte} {kind : AppendKind}
    (hs : (fetch st.pages p).state = .filling)
    (hf : (fetch st.pages p).length + bytes.length ≤ (fetch st.pages p).chain.length * 2048) :
    st.append reserve purpose p bytes kind =
      some { st with
        mem := Memory.writePage (fetch st.pages p).chain st.mem (fetch st.pages p).length bytes,
        pages := Machine.store st.pages p ((fetch st.pages p).appended (fetch st.pages p).chain bytes.length kind) } := by
  simp [Store.append, hs, hf]

/-- An append whose block is refused by R2 does nothing. -/
theorem Store.append_refused {st : Store} {reserve : Nat} {purpose : Purpose} {p : Fin 256} {bytes : List Byte} {kind : AppendKind}
    (hf : (fetch st.pages p).chain.length * 2048 < (fetch st.pages p).length + bytes.length)
    (hg : st.grantsBlock reserve purpose = false) : st.append reserve purpose p bytes kind = none := by
  simp [Store.append, hg, Nat.not_le.mpr hf]

/-! ### Credits and stalls (R52, R58) -/

/-- Everything a look at the grant condition can do: nothing, or a raised limit with its CREDIT frame. -/
theorem grant_cases (c : ChannelNo) (s : State) :
    ((s.channel c).mayGrant = false ∧ grant c s = s) ∨
      ((s.channel c).mayGrant = true ∧
        grant c s = sendCredit c ⟨(s.channel c).number, min 4095 ((s.channel c).expected + 4 - (s.channel c).staging.length),
            (s.channel c).expected, false⟩
          (s.setChannel c { s.channel c with
            limit := min 4095 ((s.channel c).expected + 4 - (s.channel c).staging.length) })) := by
  cases h : (s.channel c).mayGrant <;> simp [grant, h]

@[simp] theorem grant_channel_ne {c e : ChannelNo} (s : State) (h : e ≠ c) : (grant c s).channel e = s.channel e := by
  rcases grant_cases c s with ⟨_, g⟩ | ⟨_, g⟩ <;> rw [g] <;> simp [h]

theorem endStall_idle (c : ChannelNo) (s : State) (h : (s.channel c).stalled = false) : endStall c s = s := by
  simp [endStall, h]

@[simp] theorem endStall_channel_ne {c e : ChannelNo} (s : State) (h : e ≠ c) : (endStall c s).channel e = s.channel e := by
  simp only [endStall]
  split <;> simp [h]

/-- The notice of room in the store passes by a channel that is not stalled. -/
theorem endStalls_channel (s : State) (e : ChannelNo) (h : (s.channel e).stalled = false) :
    (endStalls s).channel e = s.channel e := by
  have key : ∀ (l : List ChannelNo) (s : State), (s.channel e).stalled = false →
      (l.foldl (fun s c => endStall c s) s).channel e = s.channel e := by
    intro l
    induction l with
    | nil => intro s _; rfl
    | cons c l ih =>
      intro s hs
      have h1 : (endStall c s).channel e = s.channel e := by
        by_cases hc : e = c
        · subst hc; rw [endStall_idle e s hs]
        · exact endStall_channel_ne s hc
      rw [List.foldl_cons, ih _ (by rw [h1]; exact hs), h1]
  exact key allChannels s h

/-- A change of the store that does not pass the reserve only changes the store (R2). -/
theorem withStore_plain (f : Store → Store) (s : State)
    (h : ¬(s.store.freeCount ≤ s.cfg.reserve ∧ s.cfg.reserve < (f s.store).freeCount)) :
    withStore f s = { s with store := f s.store } := by
  simp only [withStore]
  rw [if_neg h]

/-- A change of the store that leaves the free list as it was only changes the store. -/
theorem withStore_same (f : Store → Store) (s : State) (h : (f s.store).freeList = s.store.freeList) :
    withStore f s = { s with store := f s.store } := by
  apply withStore_plain
  simp only [Store.freeCount, h]
  omega

theorem withStore_channel (f : Store → Store) (s : State) (e : ChannelNo) (h : (s.channel e).stalled = false) :
    (withStore f s).channel e = s.channel e := by
  simp only [withStore]
  split
  · exact endStalls_channel _ e h
  · rfl

end Sys2Proof.Machine
end

