-- ==== Sys2Proof/Laws/Frames.lean ====
section
/-! SUPPORT. What each shared operation on the state leaves as it was: one lemma per operation, naming every field it never
changes. The lemmas are simp rules, so that a frame needs no unfolding. -/

namespace Sys2Proof.Machine

/-- What every step of a fold keeps, the fold keeps. -/
theorem foldl_keep {α β γ : Type} (g : α → γ) (f : α → β → α) (h : ∀ a b, g (f a b) = g a) (l : List β) (a : α) :
    g (l.foldl f a) = g a := by
  induction l generalizing a with
  | nil => rfl
  | cons b l ih => exact (ih (f a b)).trans (h a b)

/-! ### Ops -/

@[simp] theorem grant_frame (c : ChannelNo) (s : State) :
    (grant c s).pending = s.pending ∧ (grant c s).cfg = s.cfg ∧ (grant c s).store = s.store ∧ (grant c s).jobs = s.jobs ∧
    (grant c s).routes = s.routes ∧ (grant c s).lines = s.lines ∧ (grant c s).profiles = s.profiles ∧
    (grant c s).procs = s.procs ∧ (grant c s).slots = s.slots ∧ (grant c s).ticks = s.ticks ∧
    (grant c s).printer = s.printer ∧ (grant c s).clock = s.clock ∧ (grant c s).meters = s.meters ∧
    (grant c s).accounts = s.accounts ∧ (grant c s).charges = s.charges ∧ (grant c s).freeCount = s.freeCount := by
  unfold grant
  dsimp only
  (repeat' split) <;> simp

@[simp] theorem endStall_frame (c : ChannelNo) (s : State) :
    (endStall c s).pending = s.pending ∧ (endStall c s).cfg = s.cfg ∧ (endStall c s).store = s.store ∧
    (endStall c s).jobs = s.jobs ∧ (endStall c s).routes = s.routes ∧ (endStall c s).lines = s.lines ∧
    (endStall c s).profiles = s.profiles ∧ (endStall c s).procs = s.procs ∧ (endStall c s).slots = s.slots ∧
    (endStall c s).ticks = s.ticks ∧ (endStall c s).printer = s.printer ∧ (endStall c s).clock = s.clock ∧
    (endStall c s).meters = s.meters ∧ (endStall c s).accounts = s.accounts ∧ (endStall c s).charges = s.charges ∧
    (endStall c s).freeCount = s.freeCount := by
  unfold endStall
  dsimp only
  (repeat' split) <;> simp

@[simp] theorem endStalls_frame (s : State) :
    (endStalls s).pending = s.pending ∧ (endStalls s).cfg = s.cfg ∧ (endStalls s).store = s.store ∧
    (endStalls s).jobs = s.jobs ∧ (endStalls s).routes = s.routes ∧ (endStalls s).lines = s.lines ∧
    (endStalls s).profiles = s.profiles ∧ (endStalls s).procs = s.procs ∧ (endStalls s).slots = s.slots ∧
    (endStalls s).ticks = s.ticks ∧ (endStalls s).printer = s.printer ∧ (endStalls s).clock = s.clock ∧
    (endStalls s).meters = s.meters ∧ (endStalls s).accounts = s.accounts ∧ (endStalls s).charges = s.charges ∧
    (endStalls s).freeCount = s.freeCount := by
  unfold endStalls
  refine ⟨?_, ?_, ?_, ?_, ?_, ?_, ?_, ?_, ?_, ?_, ?_, ?_, ?_, ?_, ?_, ?_⟩ <;>
    exact foldl_keep _ _ (by intros; (repeat' split) <;> simp) _ _

@[simp] theorem withStore_frame (f : Store → Store) (s : State) :
    (withStore f s).pending = s.pending ∧ (withStore f s).cfg = s.cfg ∧ (withStore f s).jobs = s.jobs ∧
    (withStore f s).routes = s.routes ∧ (withStore f s).lines = s.lines ∧ (withStore f s).profiles = s.profiles ∧
    (withStore f s).procs = s.procs ∧ (withStore f s).slots = s.slots ∧ (withStore f s).ticks = s.ticks ∧
    (withStore f s).printer = s.printer ∧ (withStore f s).clock = s.clock ∧ (withStore f s).meters = s.meters ∧
    (withStore f s).accounts = s.accounts ∧ (withStore f s).charges = s.charges ∧
    (withStore f s).freeCount = s.freeCount := by
  unfold withStore
  dsimp only
  (repeat' split) <;> simp

@[simp] theorem addJob_frame (d : Fin 64) (s : State) :
    (addJob d s).pending = s.pending ∧ (addJob d s).cfg = s.cfg ∧ (addJob d s).scan = s.scan ∧ (addJob d s).jobs = s.jobs ∧
    (addJob d s).routes = s.routes ∧ (addJob d s).lines = s.lines ∧ (addJob d s).profiles = s.profiles ∧
    (addJob d s).procs = s.procs ∧ (addJob d s).slots = s.slots ∧ (addJob d s).ticks = s.ticks ∧
    (addJob d s).printer = s.printer ∧ (addJob d s).clock = s.clock ∧ (addJob d s).meters = s.meters ∧
    (addJob d s).accounts = s.accounts ∧ (addJob d s).charges = s.charges ∧ (addJob d s).link = s.link ∧
    (addJob d s).freeCount = s.freeCount := by
  unfold addJob
  (repeat' split) <;> simp

@[simp] theorem dropJob_frame (d : Fin 64) (s : State) :
    (dropJob d s).pending = s.pending ∧ (dropJob d s).cfg = s.cfg ∧ (dropJob d s).jobs = s.jobs ∧
    (dropJob d s).routes = s.routes ∧ (dropJob d s).lines = s.lines ∧ (dropJob d s).profiles = s.profiles ∧
    (dropJob d s).procs = s.procs ∧ (dropJob d s).slots = s.slots ∧ (dropJob d s).ticks = s.ticks ∧
    (dropJob d s).printer = s.printer ∧ (dropJob d s).clock = s.clock ∧ (dropJob d s).meters = s.meters ∧
    (dropJob d s).accounts = s.accounts ∧ (dropJob d s).charges = s.charges ∧ (dropJob d s).freeCount = s.freeCount := by
  unfold dropJob
  (repeat' split) <;> simp

@[simp] theorem releaseDoc_frame (d : Fin 64) (s : State) :
    (releaseDoc d s).pending = s.pending ∧ (releaseDoc d s).cfg = s.cfg ∧ (releaseDoc d s).jobs = s.jobs ∧
    (releaseDoc d s).routes = s.routes ∧ (releaseDoc d s).lines = s.lines ∧ (releaseDoc d s).profiles = s.profiles ∧
    (releaseDoc d s).procs = s.procs ∧ (releaseDoc d s).slots = s.slots ∧ (releaseDoc d s).ticks = s.ticks ∧
    (releaseDoc d s).printer = s.printer ∧ (releaseDoc d s).clock = s.clock ∧ (releaseDoc d s).meters = s.meters ∧
    (releaseDoc d s).accounts = s.accounts ∧ (releaseDoc d s).charges = s.charges ∧
    (releaseDoc d s).freeCount = s.freeCount := by
  unfold releaseDoc
  (repeat' split) <;> simp

/-! ### JobOps -/

@[simp] theorem changeSend_frame (j : Fin 32) (f : SendJob → SendJob) (s : State) :
    (changeSend j f s).pending = s.pending ∧ (changeSend j f s).cfg = s.cfg ∧ (changeSend j f s).store = s.store ∧
    (changeSend j f s).scan = s.scan ∧ (changeSend j f s).routes = s.routes ∧ (changeSend j f s).lines = s.lines ∧
    (changeSend j f s).profiles = s.profiles ∧ (changeSend j f s).procs = s.procs ∧ (changeSend j f s).slots = s.slots ∧
    (changeSend j f s).ticks = s.ticks ∧ (changeSend j f s).printer = s.printer ∧ (changeSend j f s).clock = s.clock ∧
    (changeSend j f s).meters = s.meters ∧ (changeSend j f s).accounts = s.accounts ∧
    (changeSend j f s).charges = s.charges ∧ (changeSend j f s).link = s.link ∧
    (changeSend j f s).freeCount = s.freeCount := by
  unfold changeSend
  (repeat' split) <;> simp

@[simp] theorem changePrint_frame (j : Fin 32) (f : PrintJob → PrintJob) (s : State) :
    (changePrint j f s).pending = s.pending ∧ (changePrint j f s).cfg = s.cfg ∧ (changePrint j f s).store = s.store ∧
    (changePrint j f s).scan = s.scan ∧ (changePrint j f s).routes = s.routes ∧ (changePrint j f s).lines = s.lines ∧
    (changePrint j f s).profiles = s.profiles ∧ (changePrint j f s).procs = s.procs ∧ (changePrint j f s).slots = s.slots ∧
    (changePrint j f s).ticks = s.ticks ∧ (changePrint j f s).printer = s.printer ∧ (changePrint j f s).clock = s.clock ∧
    (changePrint j f s).meters = s.meters ∧ (changePrint j f s).accounts = s.accounts ∧
    (changePrint j f s).charges = s.charges ∧ (changePrint j f s).link = s.link ∧
    (changePrint j f s).freeCount = s.freeCount := by
  unfold changePrint
  (repeat' split) <;> simp

@[simp] theorem changeReceive_frame (j : Fin 32) (f : ReceiveJob → ReceiveJob) (s : State) :
    (changeReceive j f s).pending = s.pending ∧ (changeReceive j f s).cfg = s.cfg ∧ (changeReceive j f s).store = s.store ∧
    (changeReceive j f s).scan = s.scan ∧ (changeReceive j f s).routes = s.routes ∧ (changeReceive j f s).lines = s.lines ∧
    (changeReceive j f s).profiles = s.profiles ∧ (changeReceive j f s).procs = s.procs ∧
    (changeReceive j f s).slots = s.slots ∧ (changeReceive j f s).ticks = s.ticks ∧
    (changeReceive j f s).printer = s.printer ∧ (changeReceive j f s).clock = s.clock ∧
    (changeReceive j f s).meters = s.meters ∧ (changeReceive j f s).accounts = s.accounts ∧
    (changeReceive j f s).charges = s.charges ∧ (changeReceive j f s).link = s.link ∧
    (changeReceive j f s).freeCount = s.freeCount := by
  unfold changeReceive
  (repeat' split) <;> simp

@[simp] theorem changeDest_frame (j : Fin 32) (d : Nat) (f : Dest → Dest) (s : State) :
    (changeDest j d f s).pending = s.pending ∧ (changeDest j d f s).cfg = s.cfg ∧ (changeDest j d f s).store = s.store ∧
    (changeDest j d f s).scan = s.scan ∧ (changeDest j d f s).routes = s.routes ∧ (changeDest j d f s).lines = s.lines ∧
    (changeDest j d f s).profiles = s.profiles ∧ (changeDest j d f s).procs = s.procs ∧
    (changeDest j d f s).slots = s.slots ∧ (changeDest j d f s).ticks = s.ticks ∧ (changeDest j d f s).printer = s.printer ∧
    (changeDest j d f s).clock = s.clock ∧ (changeDest j d f s).meters = s.meters ∧
    (changeDest j d f s).accounts = s.accounts ∧ (changeDest j d f s).charges = s.charges ∧
    (changeDest j d f s).link = s.link ∧ (changeDest j d f s).freeCount = s.freeCount := by
  unfold changeDest
  (repeat' split) <;> simp

@[simp] theorem createJob_frame (j : Fin 32) (job : Job) (s : State) :
    (createJob j job s).pending = s.pending ∧ (createJob j job s).cfg = s.cfg ∧ (createJob j job s).store = s.store ∧
    (createJob j job s).scan = s.scan ∧ (createJob j job s).routes = s.routes ∧ (createJob j job s).lines = s.lines ∧
    (createJob j job s).profiles = s.profiles ∧ (createJob j job s).procs = s.procs ∧ (createJob j job s).slots = s.slots ∧
    (createJob j job s).ticks = s.ticks ∧ (createJob j job s).printer = s.printer ∧ (createJob j job s).clock = s.clock ∧
    (createJob j job s).meters = s.meters ∧ (createJob j job s).accounts = s.accounts ∧
    (createJob j job s).charges = s.charges ∧ (createJob j job s).link = s.link ∧
    (createJob j job s).freeCount = s.freeCount := by
  unfold createJob
  (repeat' split) <;> simp

@[simp] theorem createPrint_frame (j : Fin 32) (d : Fin 64) (b : PrintJob) (s : State) :
    (createPrint j d b s).pending = s.pending ∧ (createPrint j d b s).cfg = s.cfg ∧ (createPrint j d b s).scan = s.scan ∧
    (createPrint j d b s).routes = s.routes ∧ (createPrint j d b s).lines = s.lines ∧
    (createPrint j d b s).profiles = s.profiles ∧ (createPrint j d b s).procs = s.procs ∧
    (createPrint j d b s).slots = s.slots ∧ (createPrint j d b s).ticks = s.ticks ∧
    (createPrint j d b s).printer = s.printer ∧ (createPrint j d b s).clock = s.clock ∧
    (createPrint j d b s).meters = s.meters ∧ (createPrint j d b s).accounts = s.accounts ∧
    (createPrint j d b s).charges = s.charges ∧ (createPrint j d b s).link = s.link ∧
    (createPrint j d b s).freeCount = s.freeCount := by
  unfold createPrint
  (repeat' split) <;> simp

@[simp] theorem serveOwedAt_frame (s : State) (r : Fin 32) :
    (serveOwedAt s r).pending = s.pending ∧ (serveOwedAt s r).cfg = s.cfg ∧ (serveOwedAt s r).routes = s.routes ∧
    (serveOwedAt s r).lines = s.lines ∧ (serveOwedAt s r).profiles = s.profiles ∧ (serveOwedAt s r).procs = s.procs ∧
    (serveOwedAt s r).slots = s.slots ∧ (serveOwedAt s r).ticks = s.ticks ∧ (serveOwedAt s r).printer = s.printer ∧
    (serveOwedAt s r).clock = s.clock ∧ (serveOwedAt s r).meters = s.meters ∧ (serveOwedAt s r).accounts = s.accounts ∧
    (serveOwedAt s r).charges = s.charges ∧ (serveOwedAt s r).freeCount = s.freeCount := by
  unfold serveOwedAt
  dsimp only
  (repeat' split) <;> simp

@[simp] theorem foldl_serveOwedAt_frame (l : List (Fin 32)) (s : State) :
    (l.foldl serveOwedAt s).pending = s.pending ∧ (l.foldl serveOwedAt s).cfg = s.cfg ∧
    (l.foldl serveOwedAt s).routes = s.routes ∧ (l.foldl serveOwedAt s).lines = s.lines ∧
    (l.foldl serveOwedAt s).profiles = s.profiles ∧ (l.foldl serveOwedAt s).procs = s.procs ∧
    (l.foldl serveOwedAt s).slots = s.slots ∧ (l.foldl serveOwedAt s).ticks = s.ticks ∧
    (l.foldl serveOwedAt s).printer = s.printer ∧ (l.foldl serveOwedAt s).clock = s.clock ∧
    (l.foldl serveOwedAt s).meters = s.meters ∧ (l.foldl serveOwedAt s).accounts = s.accounts ∧
    (l.foldl serveOwedAt s).charges = s.charges ∧ (l.foldl serveOwedAt s).freeCount = s.freeCount := by
  refine ⟨?_, ?_, ?_, ?_, ?_, ?_, ?_, ?_, ?_, ?_, ?_, ?_, ?_, ?_⟩ <;> exact foldl_keep _ _ (by simp) _ _

@[simp] theorem serveOwed_frame (s : State) :
    (serveOwed s).pending = s.pending ∧ (serveOwed s).cfg = s.cfg ∧ (serveOwed s).routes = s.routes ∧
    (serveOwed s).lines = s.lines ∧ (serveOwed s).profiles = s.profiles ∧ (serveOwed s).procs = s.procs ∧
    (serveOwed s).slots = s.slots ∧ (serveOwed s).ticks = s.ticks ∧ (serveOwed s).printer = s.printer ∧
    (serveOwed s).clock = s.clock ∧ (serveOwed s).meters = s.meters ∧ (serveOwed s).accounts = s.accounts ∧
    (serveOwed s).charges = s.charges ∧ (serveOwed s).freeCount = s.freeCount := by
  unfold serveOwed
  (repeat' split) <;> simp

@[simp] theorem freeJob_frame (j : Fin 32) (s : State) :
    (freeJob j s).pending = s.pending ∧ (freeJob j s).cfg = s.cfg ∧ (freeJob j s).routes = s.routes ∧
    (freeJob j s).lines = s.lines ∧ (freeJob j s).profiles = s.profiles ∧ (freeJob j s).procs = s.procs ∧
    (freeJob j s).slots = s.slots ∧ (freeJob j s).ticks = s.ticks ∧ (freeJob j s).printer = s.printer ∧
    (freeJob j s).clock = s.clock ∧ (freeJob j s).meters = s.meters ∧ (freeJob j s).accounts = s.accounts ∧
    (freeJob j s).charges = s.charges ∧ (freeJob j s).freeCount = s.freeCount := by
  unfold freeJob
  (repeat' split) <;> simp

@[simp] theorem becomeOwed_frame (j : Fin 32) (d : Fin 64) (b : ReceiveJob) (s : State) :
    (becomeOwed j d b s).pending = s.pending ∧ (becomeOwed j d b s).cfg = s.cfg ∧ (becomeOwed j d b s).routes = s.routes ∧
    (becomeOwed j d b s).lines = s.lines ∧ (becomeOwed j d b s).profiles = s.profiles ∧
    (becomeOwed j d b s).procs = s.procs ∧ (becomeOwed j d b s).slots = s.slots ∧ (becomeOwed j d b s).ticks = s.ticks ∧
    (becomeOwed j d b s).printer = s.printer ∧ (becomeOwed j d b s).clock = s.clock ∧
    (becomeOwed j d b s).meters = s.meters ∧ (becomeOwed j d b s).accounts = s.accounts ∧
    (becomeOwed j d b s).charges = s.charges ∧ (becomeOwed j d b s).freeCount = s.freeCount := by
  unfold becomeOwed
  dsimp only
  (repeat' split) <;> simp

@[simp] theorem offerDone_frame (j : Fin 32) (s : State) :
    (offerDone j s).pending = s.pending ∧ (offerDone j s).cfg = s.cfg ∧ (offerDone j s).routes = s.routes ∧
    (offerDone j s).lines = s.lines ∧ (offerDone j s).profiles = s.profiles ∧ (offerDone j s).procs = s.procs ∧
    (offerDone j s).slots = s.slots ∧ (offerDone j s).ticks = s.ticks ∧ (offerDone j s).printer = s.printer ∧
    (offerDone j s).clock = s.clock ∧ (offerDone j s).meters = s.meters ∧ (offerDone j s).accounts = s.accounts ∧
    (offerDone j s).charges = s.charges ∧ (offerDone j s).freeCount = s.freeCount := by
  unfold offerDone
  (repeat' split) <;> simp

@[simp] theorem finishJob_frame (j : Fin 32) (s : State) :
    (finishJob j s).pending = s.pending ∧ (finishJob j s).cfg = s.cfg ∧ (finishJob j s).routes = s.routes ∧
    (finishJob j s).lines = s.lines ∧ (finishJob j s).profiles = s.profiles ∧ (finishJob j s).procs = s.procs ∧
    (finishJob j s).slots = s.slots ∧ (finishJob j s).ticks = s.ticks ∧ (finishJob j s).printer = s.printer ∧
    (finishJob j s).clock = s.clock ∧ (finishJob j s).meters = s.meters ∧ (finishJob j s).accounts = s.accounts ∧
    (finishJob j s).charges = s.charges ∧ (finishJob j s).freeCount = s.freeCount := by
  unfold finishJob
  (repeat' split) <;> simp

@[simp] theorem finishIfFinal_frame (j : Fin 32) (s : State) :
    (finishIfFinal j s).pending = s.pending ∧ (finishIfFinal j s).cfg = s.cfg ∧ (finishIfFinal j s).routes = s.routes ∧
    (finishIfFinal j s).lines = s.lines ∧ (finishIfFinal j s).profiles = s.profiles ∧ (finishIfFinal j s).procs = s.procs ∧
    (finishIfFinal j s).slots = s.slots ∧ (finishIfFinal j s).ticks = s.ticks ∧ (finishIfFinal j s).printer = s.printer ∧
    (finishIfFinal j s).clock = s.clock ∧ (finishIfFinal j s).meters = s.meters ∧
    (finishIfFinal j s).accounts = s.accounts ∧ (finishIfFinal j s).charges = s.charges ∧
    (finishIfFinal j s).freeCount = s.freeCount := by
  unfold finishIfFinal
  (repeat' split) <;> simp

@[simp] theorem reportDest_frame (j : Fin 32) (d : Nat) (atEnd : Option (LineNo × Nat)) (s : State) :
    (reportDest j d atEnd s).pending = s.pending ∧ (reportDest j d atEnd s).cfg = s.cfg ∧
    (reportDest j d atEnd s).store = s.store ∧ (reportDest j d atEnd s).scan = s.scan ∧
    (reportDest j d atEnd s).jobs = s.jobs ∧ (reportDest j d atEnd s).routes = s.routes ∧
    (reportDest j d atEnd s).lines = s.lines ∧ (reportDest j d atEnd s).profiles = s.profiles ∧
    (reportDest j d atEnd s).procs = s.procs ∧ (reportDest j d atEnd s).slots = s.slots ∧
    (reportDest j d atEnd s).ticks = s.ticks ∧ (reportDest j d atEnd s).printer = s.printer ∧
    (reportDest j d atEnd s).clock = s.clock ∧ (reportDest j d atEnd s).meters = s.meters ∧
    (reportDest j d atEnd s).accounts = s.accounts ∧ (reportDest j d atEnd s).charges = s.charges ∧
    (reportDest j d atEnd s).freeCount = s.freeCount := by
  unfold reportDest
  (repeat' split) <;> simp

@[simp] theorem finalDest_frame (j : Fin 32) (d : Nat) (st : DestState) (why : Reason) (s : State) :
    (finalDest j d st why s).pending = s.pending ∧ (finalDest j d st why s).cfg = s.cfg ∧
    (finalDest j d st why s).routes = s.routes ∧ (finalDest j d st why s).lines = s.lines ∧
    (finalDest j d st why s).profiles = s.profiles ∧ (finalDest j d st why s).procs = s.procs ∧
    (finalDest j d st why s).slots = s.slots ∧ (finalDest j d st why s).ticks = s.ticks ∧
    (finalDest j d st why s).printer = s.printer ∧ (finalDest j d st why s).clock = s.clock ∧
    (finalDest j d st why s).meters = s.meters ∧ (finalDest j d st why s).accounts = s.accounts ∧
    (finalDest j d st why s).charges = s.charges ∧ (finalDest j d st why s).freeCount = s.freeCount := by
  unfold finalDest
  (repeat' split) <;> simp

@[simp] theorem cancelDest_frame (j : Fin 32) (d : Nat) (st : DestState) (why : Reason) (s : State) :
    (cancelDest j d st why s).pending = s.pending ∧ (cancelDest j d st why s).cfg = s.cfg ∧
    (cancelDest j d st why s).routes = s.routes ∧ (cancelDest j d st why s).lines = s.lines ∧
    (cancelDest j d st why s).profiles = s.profiles ∧ (cancelDest j d st why s).procs = s.procs ∧
    (cancelDest j d st why s).slots = s.slots ∧ (cancelDest j d st why s).ticks = s.ticks ∧
    (cancelDest j d st why s).printer = s.printer ∧ (cancelDest j d st why s).clock = s.clock ∧
    (cancelDest j d st why s).meters = s.meters ∧ (cancelDest j d st why s).accounts = s.accounts ∧
    (cancelDest j d st why s).charges = s.charges ∧ (cancelDest j d st why s).freeCount = s.freeCount := by
  unfold cancelDest
  (repeat' split) <;> simp

@[simp] theorem attemptEnd_frame (j : Fin 32) (d : Nat) (l : LineNo) (why : Reason) (delivered : Nat) (s : State) :
    (attemptEnd j d l why delivered s).pending = s.pending ∧ (attemptEnd j d l why delivered s).cfg = s.cfg ∧
    (attemptEnd j d l why delivered s).routes = s.routes ∧ (attemptEnd j d l why delivered s).lines = s.lines ∧
    (attemptEnd j d l why delivered s).profiles = s.profiles ∧ (attemptEnd j d l why delivered s).procs = s.procs ∧
    (attemptEnd j d l why delivered s).slots = s.slots ∧ (attemptEnd j d l why delivered s).ticks = s.ticks ∧
    (attemptEnd j d l why delivered s).printer = s.printer ∧ (attemptEnd j d l why delivered s).clock = s.clock ∧
    (attemptEnd j d l why delivered s).meters = s.meters ∧ (attemptEnd j d l why delivered s).accounts = s.accounts ∧
    (attemptEnd j d l why delivered s).charges = s.charges ∧ (attemptEnd j d l why delivered s).freeCount = s.freeCount := by
  unfold attemptEnd
  (repeat' split) <;> simp

@[simp] theorem readyDest_frame (j : Fin 32) (d : Nat) (s : State) :
    (readyDest j d s).pending = s.pending ∧ (readyDest j d s).cfg = s.cfg ∧ (readyDest j d s).store = s.store ∧
    (readyDest j d s).scan = s.scan ∧ (readyDest j d s).routes = s.routes ∧ (readyDest j d s).lines = s.lines ∧
    (readyDest j d s).profiles = s.profiles ∧ (readyDest j d s).procs = s.procs ∧ (readyDest j d s).slots = s.slots ∧
    (readyDest j d s).ticks = s.ticks ∧ (readyDest j d s).printer = s.printer ∧ (readyDest j d s).clock = s.clock ∧
    (readyDest j d s).meters = s.meters ∧ (readyDest j d s).accounts = s.accounts ∧ (readyDest j d s).charges = s.charges ∧
    (readyDest j d s).link = s.link ∧ (readyDest j d s).freeCount = s.freeCount := by
  unfold readyDest
  (repeat' split) <;> simp

@[simp] theorem jobsSecond_frame (s : State) :
    (jobsSecond s).pending = s.pending ∧ (jobsSecond s).cfg = s.cfg ∧ (jobsSecond s).store = s.store ∧
    (jobsSecond s).scan = s.scan ∧ (jobsSecond s).lines = s.lines ∧ (jobsSecond s).profiles = s.profiles ∧
    (jobsSecond s).procs = s.procs ∧ (jobsSecond s).slots = s.slots ∧ (jobsSecond s).ticks = s.ticks ∧
    (jobsSecond s).printer = s.printer ∧ (jobsSecond s).clock = s.clock ∧ (jobsSecond s).meters = s.meters ∧
    (jobsSecond s).accounts = s.accounts ∧ (jobsSecond s).charges = s.charges ∧ (jobsSecond s).link = s.link ∧
    (jobsSecond s).freeCount = s.freeCount := by
  unfold jobsSecond
  refine ⟨?_, ?_, ?_, ?_, ?_, ?_, ?_, ?_, ?_, ?_, ?_, ?_, ?_, ?_, ?_, ?_⟩ <;>
    (split <;> first | rfl | (simp; done) | (simp; exact foldl_keep _ _ (by intros; simp) _ _))

@[simp] theorem accountLeft_frame (a : Fin 64) (s : State) :
    (accountLeft a s).pending = s.pending ∧ (accountLeft a s).cfg = s.cfg ∧ (accountLeft a s).store = s.store ∧
    (accountLeft a s).scan = s.scan ∧ (accountLeft a s).lines = s.lines ∧ (accountLeft a s).profiles = s.profiles ∧
    (accountLeft a s).procs = s.procs ∧ (accountLeft a s).slots = s.slots ∧ (accountLeft a s).ticks = s.ticks ∧
    (accountLeft a s).printer = s.printer ∧ (accountLeft a s).clock = s.clock ∧ (accountLeft a s).meters = s.meters ∧
    (accountLeft a s).accounts = s.accounts ∧ (accountLeft a s).charges = s.charges ∧ (accountLeft a s).link = s.link ∧
    (accountLeft a s).freeCount = s.freeCount := by
  unfold accountLeft
  refine ⟨?_, ?_, ?_, ?_, ?_, ?_, ?_, ?_, ?_, ?_, ?_, ?_, ?_, ?_, ?_, ?_⟩ <;>
    (simp; exact foldl_keep _ _ (by intros; simp) _ _)

@[simp] theorem cancelWaiting_frame (d : Fin 64) (s : State) :
    (cancelWaiting d s).pending = s.pending ∧ (cancelWaiting d s).cfg = s.cfg ∧ (cancelWaiting d s).routes = s.routes ∧
    (cancelWaiting d s).lines = s.lines ∧ (cancelWaiting d s).profiles = s.profiles ∧ (cancelWaiting d s).procs = s.procs ∧
    (cancelWaiting d s).slots = s.slots ∧ (cancelWaiting d s).ticks = s.ticks ∧ (cancelWaiting d s).printer = s.printer ∧
    (cancelWaiting d s).clock = s.clock ∧ (cancelWaiting d s).meters = s.meters ∧
    (cancelWaiting d s).accounts = s.accounts ∧ (cancelWaiting d s).charges = s.charges ∧
    (cancelWaiting d s).freeCount = s.freeCount := by
  unfold cancelWaiting
  refine ⟨?_, ?_, ?_, ?_, ?_, ?_, ?_, ?_, ?_, ?_, ?_, ?_, ?_, ?_⟩ <;>
    exact foldl_keep _ _ (by
      intros
      (repeat' split) <;> first | (simp; done) | (simp; exact foldl_keep _ _ (by intros; (repeat' split) <;> simp) _ _)) _ _

/-! ### MeterOps -/

@[simp] theorem putAccount_frame (n : Fin 64) (a : Account) (s : State) :
    (putAccount n a s).pending = s.pending ∧ (putAccount n a s).cfg = s.cfg ∧ (putAccount n a s).store = s.store ∧
    (putAccount n a s).scan = s.scan ∧ (putAccount n a s).jobs = s.jobs ∧ (putAccount n a s).routes = s.routes ∧
    (putAccount n a s).lines = s.lines ∧ (putAccount n a s).profiles = s.profiles ∧ (putAccount n a s).procs = s.procs ∧
    (putAccount n a s).slots = s.slots ∧ (putAccount n a s).ticks = s.ticks ∧ (putAccount n a s).printer = s.printer ∧
    (putAccount n a s).clock = s.clock ∧ (putAccount n a s).meters = s.meters ∧ (putAccount n a s).charges = s.charges ∧
    (putAccount n a s).freeCount = s.freeCount := by
  unfold putAccount
  (repeat' split) <;> simp

@[simp] theorem postAccount_frame (n : Fin 64) (k : Nat) (s : State) :
    (postAccount n k s).pending = s.pending ∧ (postAccount n k s).cfg = s.cfg ∧ (postAccount n k s).store = s.store ∧
    (postAccount n k s).scan = s.scan ∧ (postAccount n k s).jobs = s.jobs ∧ (postAccount n k s).routes = s.routes ∧
    (postAccount n k s).lines = s.lines ∧ (postAccount n k s).profiles = s.profiles ∧ (postAccount n k s).procs = s.procs ∧
    (postAccount n k s).slots = s.slots ∧ (postAccount n k s).ticks = s.ticks ∧ (postAccount n k s).printer = s.printer ∧
    (postAccount n k s).clock = s.clock ∧ (postAccount n k s).meters = s.meters ∧ (postAccount n k s).charges = s.charges ∧
    (postAccount n k s).freeCount = s.freeCount := by
  unfold postAccount
  (repeat' split) <;> simp

@[simp] theorem meterPost_frame (l : LineNo) (k : Nat) (s : State) :
    (meterPost l k s).pending = s.pending ∧ (meterPost l k s).cfg = s.cfg ∧ (meterPost l k s).store = s.store ∧
    (meterPost l k s).scan = s.scan ∧ (meterPost l k s).jobs = s.jobs ∧ (meterPost l k s).routes = s.routes ∧
    (meterPost l k s).lines = s.lines ∧ (meterPost l k s).profiles = s.profiles ∧ (meterPost l k s).procs = s.procs ∧
    (meterPost l k s).slots = s.slots ∧ (meterPost l k s).ticks = s.ticks ∧ (meterPost l k s).printer = s.printer ∧
    (meterPost l k s).clock = s.clock ∧ (meterPost l k s).charges = s.charges ∧
    (meterPost l k s).freeCount = s.freeCount := by
  unfold meterPost
  (repeat' split) <;> simp

@[simp] theorem meterStart_frame (l : LineNo) (zone : Fin 8) (account : Fin 64) (s : State) :
    (meterStart l zone account s).pending = s.pending ∧ (meterStart l zone account s).cfg = s.cfg ∧
    (meterStart l zone account s).store = s.store ∧ (meterStart l zone account s).scan = s.scan ∧
    (meterStart l zone account s).jobs = s.jobs ∧ (meterStart l zone account s).routes = s.routes ∧
    (meterStart l zone account s).lines = s.lines ∧ (meterStart l zone account s).profiles = s.profiles ∧
    (meterStart l zone account s).procs = s.procs ∧ (meterStart l zone account s).slots = s.slots ∧
    (meterStart l zone account s).ticks = s.ticks ∧ (meterStart l zone account s).printer = s.printer ∧
    (meterStart l zone account s).clock = s.clock ∧ (meterStart l zone account s).charges = s.charges ∧
    (meterStart l zone account s).freeCount = s.freeCount := by
  unfold meterStart
  (repeat' split) <;> simp

@[simp] theorem meterBoundary_frame (l : LineNo) (s : State) :
    (meterBoundary l s).pending = s.pending ∧ (meterBoundary l s).cfg = s.cfg ∧ (meterBoundary l s).store = s.store ∧
    (meterBoundary l s).scan = s.scan ∧ (meterBoundary l s).jobs = s.jobs ∧ (meterBoundary l s).routes = s.routes ∧
    (meterBoundary l s).lines = s.lines ∧ (meterBoundary l s).profiles = s.profiles ∧ (meterBoundary l s).procs = s.procs ∧
    (meterBoundary l s).slots = s.slots ∧ (meterBoundary l s).ticks = s.ticks ∧ (meterBoundary l s).printer = s.printer ∧
    (meterBoundary l s).clock = s.clock ∧ (meterBoundary l s).charges = s.charges ∧
    (meterBoundary l s).freeCount = s.freeCount := by
  unfold meterBoundary
  (repeat' split) <;> simp

@[simp] theorem meterSecond_frame (l : LineNo) (s : State) :
    (meterSecond l s).pending = s.pending ∧ (meterSecond l s).cfg = s.cfg ∧ (meterSecond l s).store = s.store ∧
    (meterSecond l s).scan = s.scan ∧ (meterSecond l s).jobs = s.jobs ∧ (meterSecond l s).routes = s.routes ∧
    (meterSecond l s).lines = s.lines ∧ (meterSecond l s).profiles = s.profiles ∧ (meterSecond l s).procs = s.procs ∧
    (meterSecond l s).slots = s.slots ∧ (meterSecond l s).ticks = s.ticks ∧ (meterSecond l s).printer = s.printer ∧
    (meterSecond l s).clock = s.clock ∧ (meterSecond l s).charges = s.charges ∧
    (meterSecond l s).freeCount = s.freeCount := by
  unfold meterSecond
  dsimp only
  (repeat' split) <;> simp

@[simp] theorem fillCharge_frame (l : LineNo) (r : ChargeRecord) (s : State) :
    (fillCharge l r s).pending = s.pending ∧ (fillCharge l r s).cfg = s.cfg ∧ (fillCharge l r s).store = s.store ∧
    (fillCharge l r s).scan = s.scan ∧ (fillCharge l r s).jobs = s.jobs ∧ (fillCharge l r s).routes = s.routes ∧
    (fillCharge l r s).lines = s.lines ∧ (fillCharge l r s).profiles = s.profiles ∧ (fillCharge l r s).procs = s.procs ∧
    (fillCharge l r s).slots = s.slots ∧ (fillCharge l r s).ticks = s.ticks ∧ (fillCharge l r s).printer = s.printer ∧
    (fillCharge l r s).clock = s.clock ∧ (fillCharge l r s).meters = s.meters ∧ (fillCharge l r s).accounts = s.accounts ∧
    (fillCharge l r s).freeCount = s.freeCount := by
  unfold fillCharge
  (repeat' split) <;> simp

@[simp] theorem chargeAnswered_frame (l : LineNo) (a : Admission) (why : Reason) (delivered : Nat) (name : Name) (s : State) :
    (chargeAnswered l a why delivered name s).pending = s.pending ∧ (chargeAnswered l a why delivered name s).cfg = s.cfg ∧
    (chargeAnswered l a why delivered name s).store = s.store ∧ (chargeAnswered l a why delivered name s).scan = s.scan ∧
    (chargeAnswered l a why delivered name s).jobs = s.jobs ∧ (chargeAnswered l a why delivered name s).routes = s.routes ∧
    (chargeAnswered l a why delivered name s).lines = s.lines ∧
    (chargeAnswered l a why delivered name s).profiles = s.profiles ∧
    (chargeAnswered l a why delivered name s).procs = s.procs ∧ (chargeAnswered l a why delivered name s).slots = s.slots ∧
    (chargeAnswered l a why delivered name s).ticks = s.ticks ∧
    (chargeAnswered l a why delivered name s).printer = s.printer ∧
    (chargeAnswered l a why delivered name s).clock = s.clock ∧
    (chargeAnswered l a why delivered name s).accounts = s.accounts ∧
    (chargeAnswered l a why delivered name s).freeCount = s.freeCount := by
  unfold chargeAnswered
  (repeat' split) <;> simp

@[simp] theorem chargeUnanswered_frame (l : LineNo) (s : State) :
    (chargeUnanswered l s).pending = s.pending ∧ (chargeUnanswered l s).cfg = s.cfg ∧
    (chargeUnanswered l s).store = s.store ∧ (chargeUnanswered l s).scan = s.scan ∧ (chargeUnanswered l s).jobs = s.jobs ∧
    (chargeUnanswered l s).routes = s.routes ∧ (chargeUnanswered l s).lines = s.lines ∧
    (chargeUnanswered l s).profiles = s.profiles ∧ (chargeUnanswered l s).procs = s.procs ∧
    (chargeUnanswered l s).slots = s.slots ∧ (chargeUnanswered l s).ticks = s.ticks ∧
    (chargeUnanswered l s).printer = s.printer ∧ (chargeUnanswered l s).clock = s.clock ∧
    (chargeUnanswered l s).meters = s.meters ∧ (chargeUnanswered l s).accounts = s.accounts ∧
    (chargeUnanswered l s).link = s.link ∧ (chargeUnanswered l s).freeCount = s.freeCount := by
  unfold chargeUnanswered
  (repeat' split) <;> simp

/-! ### LineOps -/

@[simp] theorem beginCaller_frame (l : LineNo) (next : Nat) (s : State) :
    (beginCaller l next s).pending = s.pending ∧ (beginCaller l next s).cfg = s.cfg ∧
    (beginCaller l next s).store = s.store ∧ (beginCaller l next s).scan = s.scan ∧ (beginCaller l next s).jobs = s.jobs ∧
    (beginCaller l next s).routes = s.routes ∧ (beginCaller l next s).lines = s.lines ∧
    (beginCaller l next s).profiles = s.profiles ∧ (beginCaller l next s).ticks = s.ticks ∧
    (beginCaller l next s).printer = s.printer ∧ (beginCaller l next s).clock = s.clock ∧
    (beginCaller l next s).meters = s.meters ∧ (beginCaller l next s).accounts = s.accounts ∧
    (beginCaller l next s).charges = s.charges ∧ (beginCaller l next s).link = s.link ∧
    (beginCaller l next s).freeCount = s.freeCount := by
  unfold beginCaller
  (repeat' split) <;> simp

@[simp] theorem dialOn_frame (l : LineNo) (a : Admission) (st : DialStep) (s : State) :
    (dialOn l a st s).pending = s.pending ∧ (dialOn l a st s).cfg = s.cfg ∧ (dialOn l a st s).store = s.store ∧
    (dialOn l a st s).scan = s.scan ∧ (dialOn l a st s).jobs = s.jobs ∧ (dialOn l a st s).routes = s.routes ∧
    (dialOn l a st s).profiles = s.profiles ∧ (dialOn l a st s).ticks = s.ticks ∧ (dialOn l a st s).printer = s.printer ∧
    (dialOn l a st s).clock = s.clock ∧ (dialOn l a st s).meters = s.meters ∧ (dialOn l a st s).accounts = s.accounts ∧
    (dialOn l a st s).charges = s.charges ∧ (dialOn l a st s).link = s.link ∧ (dialOn l a st s).freeCount = s.freeCount := by
  unfold dialOn
  (repeat' split) <;> simp

@[simp] theorem seizeLine_frame (l : LineNo) (a : Admission) (s : State) :
    (seizeLine l a s).pending = s.pending ∧ (seizeLine l a s).cfg = s.cfg ∧ (seizeLine l a s).store = s.store ∧
    (seizeLine l a s).scan = s.scan ∧ (seizeLine l a s).jobs = s.jobs ∧ (seizeLine l a s).routes = s.routes ∧
    (seizeLine l a s).profiles = s.profiles ∧ (seizeLine l a s).ticks = s.ticks ∧ (seizeLine l a s).printer = s.printer ∧
    (seizeLine l a s).clock = s.clock ∧ (seizeLine l a s).meters = s.meters ∧ (seizeLine l a s).accounts = s.accounts ∧
    (seizeLine l a s).charges = s.charges ∧ (seizeLine l a s).link = s.link ∧ (seizeLine l a s).freeCount = s.freeCount := by
  unfold seizeLine
  (repeat' split) <;> simp

@[simp] theorem endUseOfLine_frame (l : LineNo) (s : State) :
    (endUseOfLine l s).pending = s.pending ∧ (endUseOfLine l s).cfg = s.cfg ∧ (endUseOfLine l s).store = s.store ∧
    (endUseOfLine l s).scan = s.scan ∧ (endUseOfLine l s).jobs = s.jobs ∧ (endUseOfLine l s).profiles = s.profiles ∧
    (endUseOfLine l s).procs = s.procs ∧ (endUseOfLine l s).slots = s.slots ∧ (endUseOfLine l s).ticks = s.ticks ∧
    (endUseOfLine l s).printer = s.printer ∧ (endUseOfLine l s).clock = s.clock ∧ (endUseOfLine l s).meters = s.meters ∧
    (endUseOfLine l s).accounts = s.accounts ∧ (endUseOfLine l s).charges = s.charges ∧ (endUseOfLine l s).link = s.link ∧
    (endUseOfLine l s).freeCount = s.freeCount := by
  unfold endUseOfLine
  dsimp only
  (repeat' split) <;> simp

@[simp] theorem lowerCounts_frame (a : Admission) (s : State) :
    (lowerCounts a s).pending = s.pending ∧ (lowerCounts a s).cfg = s.cfg ∧ (lowerCounts a s).store = s.store ∧
    (lowerCounts a s).scan = s.scan ∧ (lowerCounts a s).jobs = s.jobs ∧ (lowerCounts a s).lines = s.lines ∧
    (lowerCounts a s).profiles = s.profiles ∧ (lowerCounts a s).procs = s.procs ∧ (lowerCounts a s).slots = s.slots ∧
    (lowerCounts a s).ticks = s.ticks ∧ (lowerCounts a s).printer = s.printer ∧ (lowerCounts a s).clock = s.clock ∧
    (lowerCounts a s).meters = s.meters ∧ (lowerCounts a s).charges = s.charges ∧ (lowerCounts a s).link = s.link ∧
    (lowerCounts a s).freeCount = s.freeCount := by
  unfold lowerCounts
  (repeat' split) <;> simp

@[simp] theorem settleCharge_frame (l : LineNo) (a : Admission) (answered : Bool) (why : Reason) (delivered : Nat) (name : Name) (s : State) :
    (settleCharge l a answered why delivered name s).pending = s.pending ∧
    (settleCharge l a answered why delivered name s).cfg = s.cfg ∧
    (settleCharge l a answered why delivered name s).store = s.store ∧
    (settleCharge l a answered why delivered name s).scan = s.scan ∧
    (settleCharge l a answered why delivered name s).jobs = s.jobs ∧
    (settleCharge l a answered why delivered name s).routes = s.routes ∧
    (settleCharge l a answered why delivered name s).lines = s.lines ∧
    (settleCharge l a answered why delivered name s).profiles = s.profiles ∧
    (settleCharge l a answered why delivered name s).procs = s.procs ∧
    (settleCharge l a answered why delivered name s).slots = s.slots ∧
    (settleCharge l a answered why delivered name s).ticks = s.ticks ∧
    (settleCharge l a answered why delivered name s).printer = s.printer ∧
    (settleCharge l a answered why delivered name s).clock = s.clock ∧
    (settleCharge l a answered why delivered name s).accounts = s.accounts ∧
    (settleCharge l a answered why delivered name s).freeCount = s.freeCount := by
  unfold settleCharge
  (repeat' split) <;> simp

@[simp] theorem releaseContext_frame (l : LineNo) (why : Reason) (delivered : Nat) (name : Name) (s : State) :
    (releaseContext l why delivered name s).pending = s.pending ∧ (releaseContext l why delivered name s).cfg = s.cfg ∧
    (releaseContext l why delivered name s).store = s.store ∧ (releaseContext l why delivered name s).scan = s.scan ∧
    (releaseContext l why delivered name s).jobs = s.jobs ∧ (releaseContext l why delivered name s).profiles = s.profiles ∧
    (releaseContext l why delivered name s).procs = s.procs ∧ (releaseContext l why delivered name s).ticks = s.ticks ∧
    (releaseContext l why delivered name s).printer = s.printer ∧ (releaseContext l why delivered name s).clock = s.clock ∧
    (releaseContext l why delivered name s).freeCount = s.freeCount := by
  unfold releaseContext
  dsimp only
  (repeat' split) <;> simp

@[simp] theorem releaseLine_frame (l : LineNo) (why : Reason) (delivered : Nat) (name : Name) (s : State) :
    (releaseLine l why delivered name s).pending = s.pending ∧ (releaseLine l why delivered name s).cfg = s.cfg ∧
    (releaseLine l why delivered name s).profiles = s.profiles ∧ (releaseLine l why delivered name s).procs = s.procs ∧
    (releaseLine l why delivered name s).ticks = s.ticks ∧ (releaseLine l why delivered name s).printer = s.printer ∧
    (releaseLine l why delivered name s).clock = s.clock ∧ (releaseLine l why delivered name s).freeCount = s.freeCount := by
  unfold releaseLine
  dsimp only
  (repeat' split) <;> simp

@[simp] theorem releaseAtRestart_frame (l : LineNo) (delivered : Nat) (name : Name) (s : State) :
    (releaseAtRestart l delivered name s).pending = s.pending ∧ (releaseAtRestart l delivered name s).cfg = s.cfg ∧
    (releaseAtRestart l delivered name s).store = s.store ∧ (releaseAtRestart l delivered name s).scan = s.scan ∧
    (releaseAtRestart l delivered name s).jobs = s.jobs ∧ (releaseAtRestart l delivered name s).profiles = s.profiles ∧
    (releaseAtRestart l delivered name s).procs = s.procs ∧ (releaseAtRestart l delivered name s).ticks = s.ticks ∧
    (releaseAtRestart l delivered name s).printer = s.printer ∧ (releaseAtRestart l delivered name s).clock = s.clock ∧
    (releaseAtRestart l delivered name s).freeCount = s.freeCount := by
  unfold releaseAtRestart
  (repeat' split) <;> simp

/-! ### OrderOps -/

@[simp] theorem orderIntake_frame (o : Order) (s : State) :
    (orderIntake o s).pending = s.pending ∧ (orderIntake o s).cfg = s.cfg ∧ (orderIntake o s).store = s.store ∧
    (orderIntake o s).scan = s.scan ∧ (orderIntake o s).jobs = s.jobs ∧ (orderIntake o s).routes = s.routes ∧
    (orderIntake o s).lines = s.lines ∧ (orderIntake o s).profiles = s.profiles ∧ (orderIntake o s).procs = s.procs ∧
    (orderIntake o s).slots = s.slots ∧ (orderIntake o s).ticks = s.ticks ∧ (orderIntake o s).printer = s.printer ∧
    (orderIntake o s).clock = s.clock ∧ (orderIntake o s).meters = s.meters ∧ (orderIntake o s).accounts = s.accounts ∧
    (orderIntake o s).charges = s.charges ∧ (orderIntake o s).freeCount = s.freeCount := by
  unfold orderIntake
  (repeat' split) <;> simp

/-! ### PrintOps -/

@[simp] theorem endPrintUse_frame (j : Fin 32) (success last : Bool) (s : State) :
    (endPrintUse j success last s).pending = s.pending ∧ (endPrintUse j success last s).cfg = s.cfg ∧
    (endPrintUse j success last s).jobs = s.jobs ∧ (endPrintUse j success last s).routes = s.routes ∧
    (endPrintUse j success last s).lines = s.lines ∧ (endPrintUse j success last s).profiles = s.profiles ∧
    (endPrintUse j success last s).procs = s.procs ∧ (endPrintUse j success last s).slots = s.slots ∧
    (endPrintUse j success last s).ticks = s.ticks ∧ (endPrintUse j success last s).printer = s.printer ∧
    (endPrintUse j success last s).clock = s.clock ∧ (endPrintUse j success last s).meters = s.meters ∧
    (endPrintUse j success last s).accounts = s.accounts ∧ (endPrintUse j success last s).charges = s.charges ∧
    (endPrintUse j success last s).freeCount = s.freeCount := by
  unfold endPrintUse
  (repeat' split) <;> simp

@[simp] theorem finishPage_frame (s : State) :
    (finishPage s).pending = s.pending ∧ (finishPage s).cfg = s.cfg ∧ (finishPage s).routes = s.routes ∧
    (finishPage s).lines = s.lines ∧ (finishPage s).profiles = s.profiles ∧ (finishPage s).procs = s.procs ∧
    (finishPage s).slots = s.slots ∧ (finishPage s).ticks = s.ticks ∧ (finishPage s).clock = s.clock ∧
    (finishPage s).meters = s.meters ∧ (finishPage s).accounts = s.accounts ∧ (finishPage s).charges = s.charges ∧
    (finishPage s).freeCount = s.freeCount := by
  unfold finishPage
  (repeat' split) <;> simp

@[simp] theorem decodePrint_frame (s : State) :
    (decodePrint s).pending = s.pending ∧ (decodePrint s).cfg = s.cfg ∧ (decodePrint s).routes = s.routes ∧
    (decodePrint s).lines = s.lines ∧ (decodePrint s).profiles = s.profiles ∧ (decodePrint s).procs = s.procs ∧
    (decodePrint s).slots = s.slots ∧ (decodePrint s).ticks = s.ticks ∧ (decodePrint s).clock = s.clock ∧
    (decodePrint s).meters = s.meters ∧ (decodePrint s).accounts = s.accounts ∧ (decodePrint s).charges = s.charges ∧
    (decodePrint s).freeCount = s.freeCount := by
  unfold decodePrint
  (repeat' split) <;> simp

@[simp] theorem beginPrint_frame (j : Fin 32) (d : Fin 64) (b : PrintJob) (p : Fin 256) (s : State) :
    (beginPrint j d b p s).pending = s.pending ∧ (beginPrint j d b p s).cfg = s.cfg ∧
    (beginPrint j d b p s).routes = s.routes ∧ (beginPrint j d b p s).lines = s.lines ∧
    (beginPrint j d b p s).profiles = s.profiles ∧ (beginPrint j d b p s).procs = s.procs ∧
    (beginPrint j d b p s).slots = s.slots ∧ (beginPrint j d b p s).ticks = s.ticks ∧
    (beginPrint j d b p s).clock = s.clock ∧ (beginPrint j d b p s).meters = s.meters ∧
    (beginPrint j d b p s).accounts = s.accounts ∧ (beginPrint j d b p s).charges = s.charges ∧
    (beginPrint j d b p s).freeCount = s.freeCount := by
  unfold beginPrint
  (repeat' split) <;> simp

@[simp] theorem endPrintJob_frame (j : Fin 32) (s : State) :
    (endPrintJob j s).pending = s.pending ∧ (endPrintJob j s).cfg = s.cfg ∧ (endPrintJob j s).routes = s.routes ∧
    (endPrintJob j s).lines = s.lines ∧ (endPrintJob j s).profiles = s.profiles ∧ (endPrintJob j s).procs = s.procs ∧
    (endPrintJob j s).slots = s.slots ∧ (endPrintJob j s).ticks = s.ticks ∧ (endPrintJob j s).printer = s.printer ∧
    (endPrintJob j s).clock = s.clock ∧ (endPrintJob j s).meters = s.meters ∧ (endPrintJob j s).accounts = s.accounts ∧
    (endPrintJob j s).charges = s.charges ∧ (endPrintJob j s).freeCount = s.freeCount := by
  unfold endPrintJob
  (repeat' split) <;> simp

@[simp] theorem completePrint_frame (j : Fin 32) (d : Fin 64) (b : PrintJob) (s : State) :
    (completePrint j d b s).pending = s.pending ∧ (completePrint j d b s).cfg = s.cfg ∧
    (completePrint j d b s).routes = s.routes ∧ (completePrint j d b s).lines = s.lines ∧
    (completePrint j d b s).profiles = s.profiles ∧ (completePrint j d b s).procs = s.procs ∧
    (completePrint j d b s).slots = s.slots ∧ (completePrint j d b s).ticks = s.ticks ∧
    (completePrint j d b s).printer = s.printer ∧ (completePrint j d b s).clock = s.clock ∧
    (completePrint j d b s).meters = s.meters ∧ (completePrint j d b s).accounts = s.accounts ∧
    (completePrint j d b s).charges = s.charges ∧ (completePrint j d b s).freeCount = s.freeCount := by
  unfold completePrint
  (repeat' split) <;> simp

@[simp] theorem waitPage_frame (j : Fin 32) (s : State) :
    (waitPage j s).pending = s.pending ∧ (waitPage j s).cfg = s.cfg ∧ (waitPage j s).store = s.store ∧
    (waitPage j s).scan = s.scan ∧ (waitPage j s).jobs = s.jobs ∧ (waitPage j s).routes = s.routes ∧
    (waitPage j s).lines = s.lines ∧ (waitPage j s).profiles = s.profiles ∧ (waitPage j s).procs = s.procs ∧
    (waitPage j s).slots = s.slots ∧ (waitPage j s).ticks = s.ticks ∧ (waitPage j s).clock = s.clock ∧
    (waitPage j s).meters = s.meters ∧ (waitPage j s).accounts = s.accounts ∧ (waitPage j s).charges = s.charges ∧
    (waitPage j s).link = s.link ∧ (waitPage j s).freeCount = s.freeCount := by
  unfold waitPage
  (repeat' split) <;> simp

@[simp] theorem lookAtHead_frame (fuel : Nat) (s : State) :
    (lookAtHead fuel s).pending = s.pending ∧ (lookAtHead fuel s).cfg = s.cfg ∧ (lookAtHead fuel s).routes = s.routes ∧
    (lookAtHead fuel s).lines = s.lines ∧ (lookAtHead fuel s).profiles = s.profiles ∧ (lookAtHead fuel s).procs = s.procs ∧
    (lookAtHead fuel s).slots = s.slots ∧ (lookAtHead fuel s).ticks = s.ticks ∧ (lookAtHead fuel s).clock = s.clock ∧
    (lookAtHead fuel s).meters = s.meters ∧ (lookAtHead fuel s).accounts = s.accounts ∧
    (lookAtHead fuel s).charges = s.charges ∧ (lookAtHead fuel s).freeCount = s.freeCount := by
  induction fuel generalizing s with
  | zero => simp [lookAtHead]
  | succ fuel ih =>
    unfold lookAtHead
    (repeat' split) <;> simp [ih]

@[simp] theorem printerLook_frame (s : State) :
    (printerLook s).pending = s.pending ∧ (printerLook s).cfg = s.cfg ∧ (printerLook s).routes = s.routes ∧
    (printerLook s).lines = s.lines ∧ (printerLook s).profiles = s.profiles ∧ (printerLook s).procs = s.procs ∧
    (printerLook s).slots = s.slots ∧ (printerLook s).ticks = s.ticks ∧ (printerLook s).clock = s.clock ∧
    (printerLook s).meters = s.meters ∧ (printerLook s).accounts = s.accounts ∧ (printerLook s).charges = s.charges ∧
    (printerLook s).freeCount = s.freeCount := by
  unfold printerLook
  (repeat' split) <;> simp

@[simp] theorem stopPage_frame (e : Ending) (s : State) :
    (stopPage e s).pending = s.pending ∧ (stopPage e s).cfg = s.cfg ∧ (stopPage e s).jobs = s.jobs ∧
    (stopPage e s).routes = s.routes ∧ (stopPage e s).lines = s.lines ∧ (stopPage e s).profiles = s.profiles ∧
    (stopPage e s).procs = s.procs ∧ (stopPage e s).slots = s.slots ∧ (stopPage e s).ticks = s.ticks ∧
    (stopPage e s).clock = s.clock ∧ (stopPage e s).meters = s.meters ∧ (stopPage e s).accounts = s.accounts ∧
    (stopPage e s).charges = s.charges ∧ (stopPage e s).freeCount = s.freeCount := by
  unfold stopPage
  (repeat' split) <;> simp

@[simp] theorem stopCancelled_frame (s : State) :
    (stopCancelled s).pending = s.pending ∧ (stopCancelled s).cfg = s.cfg ∧ (stopCancelled s).routes = s.routes ∧
    (stopCancelled s).lines = s.lines ∧ (stopCancelled s).profiles = s.profiles ∧ (stopCancelled s).procs = s.procs ∧
    (stopCancelled s).slots = s.slots ∧ (stopCancelled s).ticks = s.ticks ∧ (stopCancelled s).clock = s.clock ∧
    (stopCancelled s).meters = s.meters ∧ (stopCancelled s).accounts = s.accounts ∧ (stopCancelled s).charges = s.charges ∧
    (stopCancelled s).freeCount = s.freeCount := by
  unfold stopCancelled
  (repeat' split) <;> simp

@[simp] theorem cancelPrint_frame (j : Fin 32) (s : State) :
    (cancelPrint j s).pending = s.pending ∧ (cancelPrint j s).cfg = s.cfg ∧ (cancelPrint j s).routes = s.routes ∧
    (cancelPrint j s).lines = s.lines ∧ (cancelPrint j s).profiles = s.profiles ∧ (cancelPrint j s).procs = s.procs ∧
    (cancelPrint j s).slots = s.slots ∧ (cancelPrint j s).ticks = s.ticks ∧ (cancelPrint j s).clock = s.clock ∧
    (cancelPrint j s).meters = s.meters ∧ (cancelPrint j s).accounts = s.accounts ∧ (cancelPrint j s).charges = s.charges ∧
    (cancelPrint j s).freeCount = s.freeCount := by
  unfold cancelPrint
  dsimp only
  (repeat' split) <;> simp

@[simp] theorem printWithdrawn_frame (p : Fin 256) (s : State) :
    (printWithdrawn p s).pending = s.pending ∧ (printWithdrawn p s).cfg = s.cfg ∧ (printWithdrawn p s).routes = s.routes ∧
    (printWithdrawn p s).lines = s.lines ∧ (printWithdrawn p s).profiles = s.profiles ∧
    (printWithdrawn p s).procs = s.procs ∧ (printWithdrawn p s).slots = s.slots ∧ (printWithdrawn p s).ticks = s.ticks ∧
    (printWithdrawn p s).clock = s.clock ∧ (printWithdrawn p s).meters = s.meters ∧
    (printWithdrawn p s).accounts = s.accounts ∧ (printWithdrawn p s).charges = s.charges ∧
    (printWithdrawn p s).freeCount = s.freeCount := by
  unfold printWithdrawn
  (repeat' split) <;> simp

@[simp] theorem takePaperOut_frame (s : State) :
    (takePaperOut s).pending = s.pending ∧ (takePaperOut s).cfg = s.cfg ∧ (takePaperOut s).routes = s.routes ∧
    (takePaperOut s).lines = s.lines ∧ (takePaperOut s).profiles = s.profiles ∧ (takePaperOut s).procs = s.procs ∧
    (takePaperOut s).slots = s.slots ∧ (takePaperOut s).ticks = s.ticks ∧ (takePaperOut s).clock = s.clock ∧
    (takePaperOut s).meters = s.meters ∧ (takePaperOut s).accounts = s.accounts ∧ (takePaperOut s).charges = s.charges ∧
    (takePaperOut s).freeCount = s.freeCount := by
  unfold takePaperOut
  dsimp only
  (repeat' split) <;> simp

@[simp] theorem takePaperReady_frame (s : State) :
    (takePaperReady s).pending = s.pending ∧ (takePaperReady s).cfg = s.cfg ∧ (takePaperReady s).routes = s.routes ∧
    (takePaperReady s).lines = s.lines ∧ (takePaperReady s).profiles = s.profiles ∧ (takePaperReady s).procs = s.procs ∧
    (takePaperReady s).slots = s.slots ∧ (takePaperReady s).ticks = s.ticks ∧ (takePaperReady s).clock = s.clock ∧
    (takePaperReady s).meters = s.meters ∧ (takePaperReady s).accounts = s.accounts ∧
    (takePaperReady s).charges = s.charges ∧ (takePaperReady s).freeCount = s.freeCount := by
  unfold takePaperReady
  dsimp only
  (repeat' split) <;> simp

@[simp] theorem takePrinterCredit_frame (n : Nat) (s : State) :
    (takePrinterCredit n s).pending = s.pending ∧ (takePrinterCredit n s).cfg = s.cfg ∧
    (takePrinterCredit n s).routes = s.routes ∧ (takePrinterCredit n s).lines = s.lines ∧
    (takePrinterCredit n s).profiles = s.profiles ∧ (takePrinterCredit n s).procs = s.procs ∧
    (takePrinterCredit n s).slots = s.slots ∧ (takePrinterCredit n s).ticks = s.ticks ∧
    (takePrinterCredit n s).clock = s.clock ∧ (takePrinterCredit n s).meters = s.meters ∧
    (takePrinterCredit n s).accounts = s.accounts ∧ (takePrinterCredit n s).charges = s.charges ∧
    (takePrinterCredit n s).freeCount = s.freeCount := by
  unfold takePrinterCredit
  dsimp only
  (repeat' split) <;> simp

@[simp] theorem printSilent_frame (s : State) :
    (printSilent s).pending = s.pending ∧ (printSilent s).cfg = s.cfg ∧ (printSilent s).store = s.store ∧
    (printSilent s).scan = s.scan ∧ (printSilent s).jobs = s.jobs ∧ (printSilent s).routes = s.routes ∧
    (printSilent s).lines = s.lines ∧ (printSilent s).profiles = s.profiles ∧ (printSilent s).procs = s.procs ∧
    (printSilent s).slots = s.slots ∧ (printSilent s).ticks = s.ticks ∧ (printSilent s).clock = s.clock ∧
    (printSilent s).meters = s.meters ∧ (printSilent s).accounts = s.accounts ∧ (printSilent s).charges = s.charges ∧
    (printSilent s).freeCount = s.freeCount := by
  unfold printSilent
  (repeat' split) <;> simp

@[simp] theorem printerFrameGone_frame (s : State) :
    (printerFrameGone s).pending = s.pending ∧ (printerFrameGone s).cfg = s.cfg ∧ (printerFrameGone s).routes = s.routes ∧
    (printerFrameGone s).lines = s.lines ∧ (printerFrameGone s).profiles = s.profiles ∧
    (printerFrameGone s).procs = s.procs ∧ (printerFrameGone s).slots = s.slots ∧ (printerFrameGone s).ticks = s.ticks ∧
    (printerFrameGone s).clock = s.clock ∧ (printerFrameGone s).meters = s.meters ∧
    (printerFrameGone s).accounts = s.accounts ∧ (printerFrameGone s).charges = s.charges ∧
    (printerFrameGone s).freeCount = s.freeCount := by
  unfold printerFrameGone
  dsimp only
  (repeat' split) <;> simp

@[simp] theorem restartPrinter_frame (s : State) :
    (restartPrinter s).pending = s.pending ∧ (restartPrinter s).cfg = s.cfg ∧ (restartPrinter s).store = s.store ∧
    (restartPrinter s).scan = s.scan ∧ (restartPrinter s).jobs = s.jobs ∧ (restartPrinter s).routes = s.routes ∧
    (restartPrinter s).lines = s.lines ∧ (restartPrinter s).profiles = s.profiles ∧ (restartPrinter s).procs = s.procs ∧
    (restartPrinter s).slots = s.slots ∧ (restartPrinter s).ticks = s.ticks ∧ (restartPrinter s).clock = s.clock ∧
    (restartPrinter s).meters = s.meters ∧ (restartPrinter s).accounts = s.accounts ∧
    (restartPrinter s).charges = s.charges ∧ (restartPrinter s).link = s.link ∧
    (restartPrinter s).freeCount = s.freeCount := by
  unfold restartPrinter
  dsimp only
  (repeat' split) <;> simp

/-! ### CallOps -/

@[simp] theorem say_frame (l : LineNo) (m : Message) (s : State) :
    (say l m s).pending = s.pending ∧ (say l m s).cfg = s.cfg ∧ (say l m s).store = s.store ∧ (say l m s).scan = s.scan ∧
    (say l m s).jobs = s.jobs ∧ (say l m s).routes = s.routes ∧ (say l m s).lines = s.lines ∧
    (say l m s).profiles = s.profiles ∧ (say l m s).ticks = s.ticks ∧ (say l m s).printer = s.printer ∧
    (say l m s).clock = s.clock ∧ (say l m s).meters = s.meters ∧ (say l m s).accounts = s.accounts ∧
    (say l m s).charges = s.charges ∧ (say l m s).link = s.link ∧ (say l m s).freeCount = s.freeCount := by
  unfold say
  (repeat' split) <;> simp

@[simp] theorem sayTrial_frame (l : LineNo) (rate : Nat) (s : State) :
    (sayTrial l rate s).pending = s.pending ∧ (sayTrial l rate s).cfg = s.cfg ∧ (sayTrial l rate s).store = s.store ∧
    (sayTrial l rate s).scan = s.scan ∧ (sayTrial l rate s).jobs = s.jobs ∧ (sayTrial l rate s).routes = s.routes ∧
    (sayTrial l rate s).lines = s.lines ∧ (sayTrial l rate s).profiles = s.profiles ∧ (sayTrial l rate s).procs = s.procs ∧
    (sayTrial l rate s).ticks = s.ticks ∧ (sayTrial l rate s).printer = s.printer ∧ (sayTrial l rate s).clock = s.clock ∧
    (sayTrial l rate s).meters = s.meters ∧ (sayTrial l rate s).accounts = s.accounts ∧
    (sayTrial l rate s).charges = s.charges ∧ (sayTrial l rate s).link = s.link ∧
    (sayTrial l rate s).freeCount = s.freeCount := by
  unfold sayTrial
  (repeat' split) <;> simp

@[simp] theorem sayChoice_frame (l : LineNo) (s : State) :
    (sayChoice l s).pending = s.pending ∧ (sayChoice l s).cfg = s.cfg ∧ (sayChoice l s).store = s.store ∧
    (sayChoice l s).scan = s.scan ∧ (sayChoice l s).jobs = s.jobs ∧ (sayChoice l s).routes = s.routes ∧
    (sayChoice l s).lines = s.lines ∧ (sayChoice l s).profiles = s.profiles ∧ (sayChoice l s).ticks = s.ticks ∧
    (sayChoice l s).printer = s.printer ∧ (sayChoice l s).clock = s.clock ∧ (sayChoice l s).meters = s.meters ∧
    (sayChoice l s).accounts = s.accounts ∧ (sayChoice l s).charges = s.charges ∧ (sayChoice l s).link = s.link ∧
    (sayChoice l s).freeCount = s.freeCount := by
  unfold sayChoice
  (repeat' split) <;> simp

@[simp] theorem setCommand_frame (l : LineNo) (c : ModuleCommand) (rate : Nat) (s : State) :
    (setCommand l c rate s).pending = s.pending ∧ (setCommand l c rate s).cfg = s.cfg ∧
    (setCommand l c rate s).store = s.store ∧ (setCommand l c rate s).scan = s.scan ∧
    (setCommand l c rate s).jobs = s.jobs ∧ (setCommand l c rate s).routes = s.routes ∧
    (setCommand l c rate s).lines = s.lines ∧ (setCommand l c rate s).profiles = s.profiles ∧
    (setCommand l c rate s).procs = s.procs ∧ (setCommand l c rate s).ticks = s.ticks ∧
    (setCommand l c rate s).printer = s.printer ∧ (setCommand l c rate s).clock = s.clock ∧
    (setCommand l c rate s).meters = s.meters ∧ (setCommand l c rate s).accounts = s.accounts ∧
    (setCommand l c rate s).charges = s.charges ∧ (setCommand l c rate s).link = s.link ∧
    (setCommand l c rate s).freeCount = s.freeCount := by
  unfold setCommand
  (repeat' split) <;> simp

@[simp] theorem enter_frame (l : LineNo) (ph : Phase) (c : TimeoutClass) (s : State) :
    (enter l ph c s).pending = s.pending ∧ (enter l ph c s).cfg = s.cfg ∧ (enter l ph c s).store = s.store ∧
    (enter l ph c s).scan = s.scan ∧ (enter l ph c s).jobs = s.jobs ∧ (enter l ph c s).routes = s.routes ∧
    (enter l ph c s).lines = s.lines ∧ (enter l ph c s).profiles = s.profiles ∧ (enter l ph c s).slots = s.slots ∧
    (enter l ph c s).ticks = s.ticks ∧ (enter l ph c s).printer = s.printer ∧ (enter l ph c s).clock = s.clock ∧
    (enter l ph c s).meters = s.meters ∧ (enter l ph c s).accounts = s.accounts ∧ (enter l ph c s).charges = s.charges ∧
    (enter l ph c s).link = s.link ∧ (enter l ph c s).freeCount = s.freeCount := by
  unfold enter
  (repeat' split) <;> simp

@[simp] theorem endSendUse_frame (a : Admission) (success : Bool) (s : State) :
    (endSendUse a success s).pending = s.pending ∧ (endSendUse a success s).cfg = s.cfg ∧
    (endSendUse a success s).jobs = s.jobs ∧ (endSendUse a success s).routes = s.routes ∧
    (endSendUse a success s).lines = s.lines ∧ (endSendUse a success s).profiles = s.profiles ∧
    (endSendUse a success s).procs = s.procs ∧ (endSendUse a success s).slots = s.slots ∧
    (endSendUse a success s).ticks = s.ticks ∧ (endSendUse a success s).printer = s.printer ∧
    (endSendUse a success s).clock = s.clock ∧ (endSendUse a success s).meters = s.meters ∧
    (endSendUse a success s).accounts = s.accounts ∧ (endSendUse a success s).charges = s.charges ∧
    (endSendUse a success s).freeCount = s.freeCount := by
  unfold endSendUse
  (repeat' split) <;> simp

@[simp] theorem quitCaller_frame (l : LineNo) (why : Reason) (s : State) :
    (quitCaller l why s).pending = s.pending ∧ (quitCaller l why s).cfg = s.cfg ∧ (quitCaller l why s).jobs = s.jobs ∧
    (quitCaller l why s).routes = s.routes ∧ (quitCaller l why s).lines = s.lines ∧
    (quitCaller l why s).profiles = s.profiles ∧ (quitCaller l why s).slots = s.slots ∧
    (quitCaller l why s).ticks = s.ticks ∧ (quitCaller l why s).printer = s.printer ∧ (quitCaller l why s).clock = s.clock ∧
    (quitCaller l why s).meters = s.meters ∧ (quitCaller l why s).accounts = s.accounts ∧
    (quitCaller l why s).charges = s.charges ∧ (quitCaller l why s).freeCount = s.freeCount := by
  unfold quitCaller
  (repeat' split) <;> simp

@[simp] theorem release_frame (l : LineNo) (r : ReleaseRequest) (s : State) :
    (release l r s).pending = s.pending ∧ (release l r s).cfg = s.cfg ∧ (release l r s).profiles = s.profiles ∧
    (release l r s).procs = s.procs ∧ (release l r s).ticks = s.ticks ∧ (release l r s).clock = s.clock ∧
    (release l r s).freeCount = s.freeCount := by
  unfold release
  (repeat' split) <;> simp

@[simp] theorem dropCall_frame (l : LineNo) (why : Reason) (s : State) :
    (dropCall l why s).pending = s.pending ∧ (dropCall l why s).cfg = s.cfg ∧ (dropCall l why s).profiles = s.profiles ∧
    (dropCall l why s).ticks = s.ticks ∧ (dropCall l why s).clock = s.clock ∧
    (dropCall l why s).freeCount = s.freeCount := by
  unfold dropCall
  (repeat' split) <;> simp

@[simp] theorem closeCall_frame (l : LineNo) (why : Reason) (s : State) :
    (closeCall l why s).pending = s.pending ∧ (closeCall l why s).cfg = s.cfg ∧ (closeCall l why s).jobs = s.jobs ∧
    (closeCall l why s).routes = s.routes ∧ (closeCall l why s).lines = s.lines ∧
    (closeCall l why s).profiles = s.profiles ∧ (closeCall l why s).ticks = s.ticks ∧
    (closeCall l why s).printer = s.printer ∧ (closeCall l why s).clock = s.clock ∧ (closeCall l why s).meters = s.meters ∧
    (closeCall l why s).accounts = s.accounts ∧ (closeCall l why s).charges = s.charges ∧
    (closeCall l why s).freeCount = s.freeCount := by
  unfold closeCall
  (repeat' split) <;> simp

@[simp] theorem refill_frame (l : LineNo) (s : State) :
    (refill l s).pending = s.pending ∧ (refill l s).cfg = s.cfg ∧ (refill l s).store = s.store ∧
    (refill l s).scan = s.scan ∧ (refill l s).jobs = s.jobs ∧ (refill l s).routes = s.routes ∧
    (refill l s).lines = s.lines ∧ (refill l s).profiles = s.profiles ∧ (refill l s).slots = s.slots ∧
    (refill l s).ticks = s.ticks ∧ (refill l s).printer = s.printer ∧ (refill l s).clock = s.clock ∧
    (refill l s).meters = s.meters ∧ (refill l s).accounts = s.accounts ∧ (refill l s).charges = s.charges ∧
    (refill l s).link = s.link ∧ (refill l s).freeCount = s.freeCount := by
  unfold refill
  (repeat' split) <;> simp

@[simp] theorem sendChoice_frame (l : LineNo) (p : Fin 256) (s : State) :
    (sendChoice l p s).pending = s.pending ∧ (sendChoice l p s).cfg = s.cfg ∧ (sendChoice l p s).jobs = s.jobs ∧
    (sendChoice l p s).routes = s.routes ∧ (sendChoice l p s).lines = s.lines ∧ (sendChoice l p s).profiles = s.profiles ∧
    (sendChoice l p s).ticks = s.ticks ∧ (sendChoice l p s).printer = s.printer ∧ (sendChoice l p s).clock = s.clock ∧
    (sendChoice l p s).meters = s.meters ∧ (sendChoice l p s).accounts = s.accounts ∧
    (sendChoice l p s).charges = s.charges ∧ (sendChoice l p s).freeCount = s.freeCount := by
  unfold sendChoice
  dsimp only
  (repeat' split) <;> simp

@[simp] theorem beginPage_frame (l : LineNo) (s : State) :
    (beginPage l s).pending = s.pending ∧ (beginPage l s).cfg = s.cfg ∧ (beginPage l s).scan = s.scan ∧
    (beginPage l s).jobs = s.jobs ∧ (beginPage l s).routes = s.routes ∧ (beginPage l s).lines = s.lines ∧
    (beginPage l s).profiles = s.profiles ∧ (beginPage l s).ticks = s.ticks ∧ (beginPage l s).printer = s.printer ∧
    (beginPage l s).clock = s.clock ∧ (beginPage l s).meters = s.meters ∧ (beginPage l s).accounts = s.accounts ∧
    (beginPage l s).charges = s.charges ∧ (beginPage l s).link = s.link ∧ (beginPage l s).freeCount = s.freeCount := by
  unfold beginPage
  dsimp only
  (repeat' split) <;> simp

@[simp] theorem beginUnasked_frame (l : LineNo) (p : Fin 256) (s : State) :
    (beginUnasked l p s).pending = s.pending ∧ (beginUnasked l p s).cfg = s.cfg ∧ (beginUnasked l p s).scan = s.scan ∧
    (beginUnasked l p s).jobs = s.jobs ∧ (beginUnasked l p s).routes = s.routes ∧ (beginUnasked l p s).lines = s.lines ∧
    (beginUnasked l p s).profiles = s.profiles ∧ (beginUnasked l p s).ticks = s.ticks ∧
    (beginUnasked l p s).printer = s.printer ∧ (beginUnasked l p s).clock = s.clock ∧
    (beginUnasked l p s).meters = s.meters ∧ (beginUnasked l p s).accounts = s.accounts ∧
    (beginUnasked l p s).charges = s.charges ∧ (beginUnasked l p s).link = s.link ∧
    (beginUnasked l p s).freeCount = s.freeCount := by
  unfold beginUnasked
  dsimp only
  (repeat' split) <;> simp

@[simp] theorem closedEmpty_frame (l : LineNo) (s : State) :
    (closedEmpty l s).pending = s.pending ∧ (closedEmpty l s).cfg = s.cfg ∧ (closedEmpty l s).profiles = s.profiles ∧
    (closedEmpty l s).ticks = s.ticks ∧ (closedEmpty l s).clock = s.clock ∧ (closedEmpty l s).freeCount = s.freeCount := by
  unfold closedEmpty
  dsimp only
  (repeat' split) <;> simp

@[simp] theorem lookFirst_frame (l : LineNo) (s : State) :
    (lookFirst l s).pending = s.pending ∧ (lookFirst l s).cfg = s.cfg ∧ (lookFirst l s).profiles = s.profiles ∧
    (lookFirst l s).ticks = s.ticks ∧ (lookFirst l s).clock = s.clock ∧ (lookFirst l s).freeCount = s.freeCount := by
  unfold lookFirst
  dsimp only
  (repeat' split) <;> simp

@[simp] theorem sendPageEnd_frame (l : LineNo) (k : PageEndKind) (s : State) :
    (sendPageEnd l k s).pending = s.pending ∧ (sendPageEnd l k s).cfg = s.cfg ∧ (sendPageEnd l k s).store = s.store ∧
    (sendPageEnd l k s).scan = s.scan ∧ (sendPageEnd l k s).jobs = s.jobs ∧ (sendPageEnd l k s).routes = s.routes ∧
    (sendPageEnd l k s).lines = s.lines ∧ (sendPageEnd l k s).profiles = s.profiles ∧ (sendPageEnd l k s).ticks = s.ticks ∧
    (sendPageEnd l k s).printer = s.printer ∧ (sendPageEnd l k s).clock = s.clock ∧ (sendPageEnd l k s).meters = s.meters ∧
    (sendPageEnd l k s).accounts = s.accounts ∧ (sendPageEnd l k s).charges = s.charges ∧
    (sendPageEnd l k s).link = s.link ∧ (sendPageEnd l k s).freeCount = s.freeCount := by
  unfold sendPageEnd
  (repeat' split) <;> simp

@[simp] theorem pageEndChoice_frame (l : LineNo) (s : State) :
    (pageEndChoice l s).pending = s.pending ∧ (pageEndChoice l s).cfg = s.cfg ∧ (pageEndChoice l s).store = s.store ∧
    (pageEndChoice l s).scan = s.scan ∧ (pageEndChoice l s).jobs = s.jobs ∧ (pageEndChoice l s).routes = s.routes ∧
    (pageEndChoice l s).lines = s.lines ∧ (pageEndChoice l s).profiles = s.profiles ∧ (pageEndChoice l s).ticks = s.ticks ∧
    (pageEndChoice l s).printer = s.printer ∧ (pageEndChoice l s).clock = s.clock ∧ (pageEndChoice l s).meters = s.meters ∧
    (pageEndChoice l s).accounts = s.accounts ∧ (pageEndChoice l s).charges = s.charges ∧
    (pageEndChoice l s).link = s.link ∧ (pageEndChoice l s).freeCount = s.freeCount := by
  unfold pageEndChoice
  dsimp only
  (repeat' split) <;> simp

@[simp] theorem followPage_frame (l : LineNo) (s : State) :
    (followPage l s).pending = s.pending ∧ (followPage l s).cfg = s.cfg ∧ (followPage l s).store = s.store ∧
    (followPage l s).scan = s.scan ∧ (followPage l s).jobs = s.jobs ∧ (followPage l s).routes = s.routes ∧
    (followPage l s).lines = s.lines ∧ (followPage l s).profiles = s.profiles ∧ (followPage l s).slots = s.slots ∧
    (followPage l s).ticks = s.ticks ∧ (followPage l s).printer = s.printer ∧ (followPage l s).clock = s.clock ∧
    (followPage l s).meters = s.meters ∧ (followPage l s).accounts = s.accounts ∧ (followPage l s).charges = s.charges ∧
    (followPage l s).link = s.link ∧ (followPage l s).freeCount = s.freeCount := by
  unfold followPage
  (repeat' split) <;> simp

@[simp] theorem callerNews_frame (d : Fin 64) (s : State) (l : LineNo) :
    (callerNews d s l).pending = s.pending ∧ (callerNews d s l).cfg = s.cfg ∧ (callerNews d s l).profiles = s.profiles ∧
    (callerNews d s l).ticks = s.ticks ∧ (callerNews d s l).clock = s.clock ∧
    (callerNews d s l).freeCount = s.freeCount := by
  unfold callerNews
  (repeat' split) <;> simp

@[simp] theorem foldl_callerNews_frame (d : Fin 64) (l : List LineNo) (s : State) :
    (l.foldl (callerNews d) s).pending = s.pending ∧ (l.foldl (callerNews d) s).cfg = s.cfg ∧
    (l.foldl (callerNews d) s).profiles = s.profiles ∧ (l.foldl (callerNews d) s).ticks = s.ticks ∧
    (l.foldl (callerNews d) s).clock = s.clock ∧ (l.foldl (callerNews d) s).freeCount = s.freeCount := by
  refine ⟨?_, ?_, ?_, ?_, ?_, ?_⟩ <;> exact foldl_keep _ _ (by simp) _ _

@[simp] theorem documentNews_frame (d : Fin 64) (s : State) :
    (documentNews d s).pending = s.pending ∧ (documentNews d s).cfg = s.cfg ∧ (documentNews d s).profiles = s.profiles ∧
    (documentNews d s).ticks = s.ticks ∧ (documentNews d s).clock = s.clock ∧
    (documentNews d s).freeCount = s.freeCount := by
  unfold documentNews
  (repeat' split) <;> simp

@[simp] theorem callerPageGone_frame (p : Fin 256) (s : State) (l : LineNo) :
    (callerPageGone p s l).pending = s.pending ∧ (callerPageGone p s l).cfg = s.cfg ∧ (callerPageGone p s l).jobs = s.jobs ∧
    (callerPageGone p s l).routes = s.routes ∧ (callerPageGone p s l).lines = s.lines ∧
    (callerPageGone p s l).profiles = s.profiles ∧ (callerPageGone p s l).ticks = s.ticks ∧
    (callerPageGone p s l).printer = s.printer ∧ (callerPageGone p s l).clock = s.clock ∧
    (callerPageGone p s l).meters = s.meters ∧ (callerPageGone p s l).accounts = s.accounts ∧
    (callerPageGone p s l).charges = s.charges ∧ (callerPageGone p s l).freeCount = s.freeCount := by
  unfold callerPageGone
  dsimp only
  (repeat' split) <;> simp

@[simp] theorem foldl_callerPageGone_frame (p : Fin 256) (l : List LineNo) (s : State) :
    (l.foldl (callerPageGone p) s).pending = s.pending ∧ (l.foldl (callerPageGone p) s).cfg = s.cfg ∧
    (l.foldl (callerPageGone p) s).jobs = s.jobs ∧ (l.foldl (callerPageGone p) s).routes = s.routes ∧
    (l.foldl (callerPageGone p) s).lines = s.lines ∧ (l.foldl (callerPageGone p) s).profiles = s.profiles ∧
    (l.foldl (callerPageGone p) s).ticks = s.ticks ∧ (l.foldl (callerPageGone p) s).printer = s.printer ∧
    (l.foldl (callerPageGone p) s).clock = s.clock ∧ (l.foldl (callerPageGone p) s).meters = s.meters ∧
    (l.foldl (callerPageGone p) s).accounts = s.accounts ∧ (l.foldl (callerPageGone p) s).charges = s.charges ∧
    (l.foldl (callerPageGone p) s).freeCount = s.freeCount := by
  refine ⟨?_, ?_, ?_, ?_, ?_, ?_, ?_, ?_, ?_, ?_, ?_, ?_, ?_⟩ <;> exact foldl_keep _ _ (by simp) _ _

@[simp] theorem callersPageGone_frame (p : Fin 256) (s : State) :
    (callersPageGone p s).pending = s.pending ∧ (callersPageGone p s).cfg = s.cfg ∧ (callersPageGone p s).jobs = s.jobs ∧
    (callersPageGone p s).routes = s.routes ∧ (callersPageGone p s).lines = s.lines ∧
    (callersPageGone p s).profiles = s.profiles ∧ (callersPageGone p s).ticks = s.ticks ∧
    (callersPageGone p s).printer = s.printer ∧ (callersPageGone p s).clock = s.clock ∧
    (callersPageGone p s).meters = s.meters ∧ (callersPageGone p s).accounts = s.accounts ∧
    (callersPageGone p s).charges = s.charges ∧ (callersPageGone p s).freeCount = s.freeCount := by
  unfold callersPageGone
  (repeat' split) <;> simp

@[simp] theorem nextPage_frame (l : LineNo) (k : PageEndKind) (s : State) :
    (nextPage l k s).pending = s.pending ∧ (nextPage l k s).cfg = s.cfg ∧ (nextPage l k s).profiles = s.profiles ∧
    (nextPage l k s).ticks = s.ticks ∧ (nextPage l k s).clock = s.clock ∧ (nextPage l k s).freeCount = s.freeCount := by
  unfold nextPage
  (repeat' split) <;> simp

@[simp] theorem goodVerdict_frame (l : LineNo) (a : Admission) (s : State) :
    (goodVerdict l a s).pending = s.pending ∧ (goodVerdict l a s).cfg = s.cfg ∧ (goodVerdict l a s).routes = s.routes ∧
    (goodVerdict l a s).lines = s.lines ∧ (goodVerdict l a s).profiles = s.profiles ∧ (goodVerdict l a s).slots = s.slots ∧
    (goodVerdict l a s).ticks = s.ticks ∧ (goodVerdict l a s).printer = s.printer ∧ (goodVerdict l a s).clock = s.clock ∧
    (goodVerdict l a s).meters = s.meters ∧ (goodVerdict l a s).accounts = s.accounts ∧
    (goodVerdict l a s).charges = s.charges ∧ (goodVerdict l a s).freeCount = s.freeCount := by
  unfold goodVerdict
  dsimp only
  (repeat' split) <;> simp

@[simp] theorem takeGood_frame (l : LineNo) (s : State) :
    (takeGood l s).pending = s.pending ∧ (takeGood l s).cfg = s.cfg ∧ (takeGood l s).profiles = s.profiles ∧
    (takeGood l s).ticks = s.ticks ∧ (takeGood l s).clock = s.clock ∧ (takeGood l s).freeCount = s.freeCount := by
  unfold takeGood
  dsimp only
  (repeat' split) <;> simp

@[simp] theorem sendAgain_frame (l : LineNo) (s : State) :
    (sendAgain l s).pending = s.pending ∧ (sendAgain l s).cfg = s.cfg ∧ (sendAgain l s).jobs = s.jobs ∧
    (sendAgain l s).routes = s.routes ∧ (sendAgain l s).lines = s.lines ∧ (sendAgain l s).profiles = s.profiles ∧
    (sendAgain l s).ticks = s.ticks ∧ (sendAgain l s).printer = s.printer ∧ (sendAgain l s).clock = s.clock ∧
    (sendAgain l s).meters = s.meters ∧ (sendAgain l s).accounts = s.accounts ∧ (sendAgain l s).charges = s.charges ∧
    (sendAgain l s).freeCount = s.freeCount := by
  unfold sendAgain
  dsimp only
  (repeat' split) <;> simp

@[simp] theorem takeResend_frame (l : LineNo) (s : State) :
    (takeResend l s).pending = s.pending ∧ (takeResend l s).cfg = s.cfg ∧ (takeResend l s).jobs = s.jobs ∧
    (takeResend l s).routes = s.routes ∧ (takeResend l s).lines = s.lines ∧ (takeResend l s).profiles = s.profiles ∧
    (takeResend l s).ticks = s.ticks ∧ (takeResend l s).printer = s.printer ∧ (takeResend l s).clock = s.clock ∧
    (takeResend l s).meters = s.meters ∧ (takeResend l s).accounts = s.accounts ∧ (takeResend l s).charges = s.charges ∧
    (takeResend l s).freeCount = s.freeCount := by
  unfold takeResend
  dsimp only
  (repeat' split) <;> simp

@[simp] theorem takeAbility_frame (l : LineNo) (a : Abilities) (s : State) :
    (takeAbility l a s).pending = s.pending ∧ (takeAbility l a s).cfg = s.cfg ∧ (takeAbility l a s).profiles = s.profiles ∧
    (takeAbility l a s).ticks = s.ticks ∧ (takeAbility l a s).clock = s.clock ∧
    (takeAbility l a s).freeCount = s.freeCount := by
  unfold takeAbility
  (repeat' split) <;> simp

@[simp] theorem takeTrialBad_frame (l : LineNo) (s : State) :
    (takeTrialBad l s).pending = s.pending ∧ (takeTrialBad l s).cfg = s.cfg ∧ (takeTrialBad l s).jobs = s.jobs ∧
    (takeTrialBad l s).routes = s.routes ∧ (takeTrialBad l s).lines = s.lines ∧ (takeTrialBad l s).profiles = s.profiles ∧
    (takeTrialBad l s).ticks = s.ticks ∧ (takeTrialBad l s).printer = s.printer ∧ (takeTrialBad l s).clock = s.clock ∧
    (takeTrialBad l s).meters = s.meters ∧ (takeTrialBad l s).accounts = s.accounts ∧
    (takeTrialBad l s).charges = s.charges ∧ (takeTrialBad l s).freeCount = s.freeCount := by
  unfold takeTrialBad
  dsimp only
  (repeat' split) <;> simp

/-! ### ReceiveOps -/

@[simp] theorem beginCalled_frame (l : LineNo) (s : State) :
    (beginCalled l s).pending = s.pending ∧ (beginCalled l s).cfg = s.cfg ∧ (beginCalled l s).store = s.store ∧
    (beginCalled l s).scan = s.scan ∧ (beginCalled l s).jobs = s.jobs ∧ (beginCalled l s).routes = s.routes ∧
    (beginCalled l s).lines = s.lines ∧ (beginCalled l s).profiles = s.profiles ∧ (beginCalled l s).ticks = s.ticks ∧
    (beginCalled l s).printer = s.printer ∧ (beginCalled l s).clock = s.clock ∧ (beginCalled l s).meters = s.meters ∧
    (beginCalled l s).accounts = s.accounts ∧ (beginCalled l s).charges = s.charges ∧ (beginCalled l s).link = s.link ∧
    (beginCalled l s).freeCount = s.freeCount := by
  unfold beginCalled
  (repeat' split) <;> simp

@[simp] theorem createReception_frame (l : LineNo) (j : Fin 32) (d : Fin 64) (p : Fin 256) (s : State) :
    (createReception l j d p s).pending = s.pending ∧ (createReception l j d p s).cfg = s.cfg ∧
    (createReception l j d p s).scan = s.scan ∧ (createReception l j d p s).routes = s.routes ∧
    (createReception l j d p s).lines = s.lines ∧ (createReception l j d p s).profiles = s.profiles ∧
    (createReception l j d p s).procs = s.procs ∧ (createReception l j d p s).slots = s.slots ∧
    (createReception l j d p s).ticks = s.ticks ∧ (createReception l j d p s).printer = s.printer ∧
    (createReception l j d p s).clock = s.clock ∧ (createReception l j d p s).meters = s.meters ∧
    (createReception l j d p s).accounts = s.accounts ∧ (createReception l j d p s).charges = s.charges ∧
    (createReception l j d p s).link = s.link ∧ (createReception l j d p s).freeCount = s.freeCount := by
  unfold createReception
  dsimp only
  (repeat' split) <;> simp

@[simp] theorem answerLine_frame (l : LineNo) (j : Fin 32) (d : Fin 64) (p : Fin 256) (s : State) :
    (answerLine l j d p s).pending = s.pending ∧ (answerLine l j d p s).cfg = s.cfg ∧
    (answerLine l j d p s).routes = s.routes ∧ (answerLine l j d p s).profiles = s.profiles ∧
    (answerLine l j d p s).ticks = s.ticks ∧ (answerLine l j d p s).clock = s.clock ∧
    (answerLine l j d p s).meters = s.meters ∧ (answerLine l j d p s).accounts = s.accounts ∧
    (answerLine l j d p s).charges = s.charges ∧ (answerLine l j d p s).freeCount = s.freeCount := by
  unfold answerLine
  dsimp only
  (repeat' split) <;> simp

@[simp] theorem considerAnswer_frame (l : LineNo) (s : State) :
    (considerAnswer l s).pending = s.pending ∧ (considerAnswer l s).cfg = s.cfg ∧ (considerAnswer l s).routes = s.routes ∧
    (considerAnswer l s).profiles = s.profiles ∧ (considerAnswer l s).ticks = s.ticks ∧
    (considerAnswer l s).clock = s.clock ∧ (considerAnswer l s).meters = s.meters ∧
    (considerAnswer l s).accounts = s.accounts ∧ (considerAnswer l s).charges = s.charges ∧
    (considerAnswer l s).freeCount = s.freeCount := by
  unfold considerAnswer
  dsimp only
  (repeat' split) <;> simp

@[simp] theorem closeReceived_frame (d : Fin 64) (s : State) :
    (closeReceived d s).pending = s.pending ∧ (closeReceived d s).cfg = s.cfg ∧ (closeReceived d s).jobs = s.jobs ∧
    (closeReceived d s).routes = s.routes ∧ (closeReceived d s).lines = s.lines ∧
    (closeReceived d s).profiles = s.profiles ∧ (closeReceived d s).procs = s.procs ∧ (closeReceived d s).slots = s.slots ∧
    (closeReceived d s).ticks = s.ticks ∧ (closeReceived d s).printer = s.printer ∧ (closeReceived d s).clock = s.clock ∧
    (closeReceived d s).meters = s.meters ∧ (closeReceived d s).accounts = s.accounts ∧
    (closeReceived d s).charges = s.charges ∧ (closeReceived d s).freeCount = s.freeCount := by
  unfold closeReceived
  dsimp only
  (repeat' split) <;> simp

@[simp] theorem finishReception_frame (j : Fin 32) (d : Fin 64) (why : Reason) (s : State) :
    (finishReception j d why s).pending = s.pending ∧ (finishReception j d why s).cfg = s.cfg ∧
    (finishReception j d why s).routes = s.routes ∧ (finishReception j d why s).lines = s.lines ∧
    (finishReception j d why s).profiles = s.profiles ∧ (finishReception j d why s).procs = s.procs ∧
    (finishReception j d why s).slots = s.slots ∧ (finishReception j d why s).ticks = s.ticks ∧
    (finishReception j d why s).printer = s.printer ∧ (finishReception j d why s).clock = s.clock ∧
    (finishReception j d why s).meters = s.meters ∧ (finishReception j d why s).accounts = s.accounts ∧
    (finishReception j d why s).charges = s.charges ∧ (finishReception j d why s).freeCount = s.freeCount := by
  unfold finishReception
  (repeat' split) <;> simp

@[simp] theorem discardReceived_frame (l : LineNo) (s : State) :
    (discardReceived l s).pending = s.pending ∧ (discardReceived l s).cfg = s.cfg ∧ (discardReceived l s).jobs = s.jobs ∧
    (discardReceived l s).routes = s.routes ∧ (discardReceived l s).lines = s.lines ∧
    (discardReceived l s).profiles = s.profiles ∧ (discardReceived l s).procs = s.procs ∧
    (discardReceived l s).slots = s.slots ∧ (discardReceived l s).ticks = s.ticks ∧
    (discardReceived l s).printer = s.printer ∧ (discardReceived l s).clock = s.clock ∧
    (discardReceived l s).meters = s.meters ∧ (discardReceived l s).accounts = s.accounts ∧
    (discardReceived l s).charges = s.charges ∧ (discardReceived l s).freeCount = s.freeCount := by
  unfold discardReceived
  (repeat' split) <;> simp

@[simp] theorem quitCalled_frame (l : LineNo) (why : Reason) (s : State) :
    (quitCalled l why s).pending = s.pending ∧ (quitCalled l why s).cfg = s.cfg ∧
    (quitCalled l why s).profiles = s.profiles ∧ (quitCalled l why s).ticks = s.ticks ∧
    (quitCalled l why s).clock = s.clock ∧ (quitCalled l why s).freeCount = s.freeCount := by
  unfold quitCalled
  dsimp only
  (repeat' split) <;> simp

@[simp] theorem closeReception_frame (l : LineNo) (why : Reason) (s : State) :
    (closeReception l why s).pending = s.pending ∧ (closeReception l why s).cfg = s.cfg ∧
    (closeReception l why s).profiles = s.profiles ∧ (closeReception l why s).ticks = s.ticks ∧
    (closeReception l why s).clock = s.clock ∧ (closeReception l why s).freeCount = s.freeCount := by
  unfold closeReception
  (repeat' split) <;> simp

@[simp] theorem dropReception_frame (l : LineNo) (why : Reason) (s : State) :
    (dropReception l why s).pending = s.pending ∧ (dropReception l why s).cfg = s.cfg ∧
    (dropReception l why s).profiles = s.profiles ∧ (dropReception l why s).ticks = s.ticks ∧
    (dropReception l why s).clock = s.clock ∧ (dropReception l why s).freeCount = s.freeCount := by
  unfold dropReception
  (repeat' split) <;> simp

@[simp] theorem storeLine_frame (l : LineNo) (dec : DecodedLine) (s : State) :
    (storeLine l dec s).pending = s.pending ∧ (storeLine l dec s).cfg = s.cfg ∧ (storeLine l dec s).profiles = s.profiles ∧
    (storeLine l dec s).ticks = s.ticks ∧ (storeLine l dec s).clock = s.clock ∧
    (storeLine l dec s).freeCount = s.freeCount := by
  unfold storeLine
  dsimp only
  (repeat' split) <;> simp

@[simp] theorem feedByte_frame (l : LineNo) (b : Byte) (s : State) :
    (feedByte l b s).pending = s.pending ∧ (feedByte l b s).cfg = s.cfg ∧ (feedByte l b s).profiles = s.profiles ∧
    (feedByte l b s).ticks = s.ticks ∧ (feedByte l b s).clock = s.clock ∧ (feedByte l b s).freeCount = s.freeCount := by
  unfold feedByte
  dsimp only
  (repeat' split) <;> simp

@[simp] theorem takeReceivedPage_frame (l : LineNo) (s : State) :
    (takeReceivedPage l s).pending = s.pending ∧ (takeReceivedPage l s).cfg = s.cfg ∧
    (takeReceivedPage l s).profiles = s.profiles ∧ (takeReceivedPage l s).ticks = s.ticks ∧
    (takeReceivedPage l s).clock = s.clock ∧ (takeReceivedPage l s).freeCount = s.freeCount := by
  unfold takeReceivedPage
  dsimp only
  (repeat' split) <;> simp

@[simp] theorem beginReceived_frame (l : LineNo) (s : State) :
    (beginReceived l s).pending = s.pending ∧ (beginReceived l s).cfg = s.cfg ∧ (beginReceived l s).profiles = s.profiles ∧
    (beginReceived l s).ticks = s.ticks ∧ (beginReceived l s).clock = s.clock ∧
    (beginReceived l s).freeCount = s.freeCount := by
  unfold beginReceived
  dsimp only
  (repeat' split) <;> simp

@[simp] theorem takeDataByte_frame (l : LineNo) (b : Byte) (s : State) :
    (takeDataByte l b s).pending = s.pending ∧ (takeDataByte l b s).cfg = s.cfg ∧
    (takeDataByte l b s).profiles = s.profiles ∧ (takeDataByte l b s).ticks = s.ticks ∧
    (takeDataByte l b s).clock = s.clock ∧ (takeDataByte l b s).freeCount = s.freeCount := by
  unfold takeDataByte
  dsimp only
  (repeat' split) <;> simp

@[simp] theorem cutOffLine_frame (l : LineNo) (s : State) :
    (cutOffLine l s).pending = s.pending ∧ (cutOffLine l s).cfg = s.cfg ∧ (cutOffLine l s).profiles = s.profiles ∧
    (cutOffLine l s).ticks = s.ticks ∧ (cutOffLine l s).clock = s.clock ∧ (cutOffLine l s).freeCount = s.freeCount := by
  unfold cutOffLine
  dsimp only
  (repeat' split) <;> simp

@[simp] theorem endReceivedPage_frame (l : LineNo) (s : State) :
    (endReceivedPage l s).pending = s.pending ∧ (endReceivedPage l s).cfg = s.cfg ∧
    (endReceivedPage l s).profiles = s.profiles ∧ (endReceivedPage l s).ticks = s.ticks ∧
    (endReceivedPage l s).clock = s.clock ∧ (endReceivedPage l s).freeCount = s.freeCount := by
  unfold endReceivedPage
  dsimp only
  (repeat' split) <;> simp

@[simp] theorem takeDataEnd_frame (l : LineNo) (s : State) :
    (takeDataEnd l s).pending = s.pending ∧ (takeDataEnd l s).cfg = s.cfg ∧ (takeDataEnd l s).profiles = s.profiles ∧
    (takeDataEnd l s).ticks = s.ticks ∧ (takeDataEnd l s).clock = s.clock ∧ (takeDataEnd l s).freeCount = s.freeCount := by
  unfold takeDataEnd
  (repeat' split) <;> simp

@[simp] theorem sayVerdict_frame (l : LineNo) (v : Verdict) (s : State) :
    (sayVerdict l v s).pending = s.pending ∧ (sayVerdict l v s).cfg = s.cfg ∧ (sayVerdict l v s).store = s.store ∧
    (sayVerdict l v s).scan = s.scan ∧ (sayVerdict l v s).jobs = s.jobs ∧ (sayVerdict l v s).routes = s.routes ∧
    (sayVerdict l v s).lines = s.lines ∧ (sayVerdict l v s).profiles = s.profiles ∧ (sayVerdict l v s).ticks = s.ticks ∧
    (sayVerdict l v s).printer = s.printer ∧ (sayVerdict l v s).clock = s.clock ∧ (sayVerdict l v s).meters = s.meters ∧
    (sayVerdict l v s).accounts = s.accounts ∧ (sayVerdict l v s).charges = s.charges ∧ (sayVerdict l v s).link = s.link ∧
    (sayVerdict l v s).freeCount = s.freeCount := by
  unfold sayVerdict
  (repeat' split) <;> simp

@[simp] theorem afterGood_frame (l : LineNo) (k : PageEndKind) (s : State) :
    (afterGood l k s).pending = s.pending ∧ (afterGood l k s).cfg = s.cfg ∧ (afterGood l k s).store = s.store ∧
    (afterGood l k s).scan = s.scan ∧ (afterGood l k s).jobs = s.jobs ∧ (afterGood l k s).routes = s.routes ∧
    (afterGood l k s).lines = s.lines ∧ (afterGood l k s).profiles = s.profiles ∧ (afterGood l k s).slots = s.slots ∧
    (afterGood l k s).ticks = s.ticks ∧ (afterGood l k s).printer = s.printer ∧ (afterGood l k s).clock = s.clock ∧
    (afterGood l k s).meters = s.meters ∧ (afterGood l k s).accounts = s.accounts ∧ (afterGood l k s).charges = s.charges ∧
    (afterGood l k s).link = s.link ∧ (afterGood l k s).freeCount = s.freeCount := by
  unfold afterGood
  (repeat' split) <;> simp

@[simp] theorem judgeGood_frame (l : LineNo) (k : PageEndKind) (p : Fin 256) (damaged : Bool) (s : State) :
    (judgeGood l k p damaged s).pending = s.pending ∧ (judgeGood l k p damaged s).cfg = s.cfg ∧
    (judgeGood l k p damaged s).profiles = s.profiles ∧ (judgeGood l k p damaged s).ticks = s.ticks ∧
    (judgeGood l k p damaged s).clock = s.clock ∧ (judgeGood l k p damaged s).freeCount = s.freeCount := by
  unfold judgeGood
  dsimp only
  (repeat' split) <;> simp

@[simp] theorem judgeResend_frame (l : LineNo) (p : Fin 256) (s : State) :
    (judgeResend l p s).pending = s.pending ∧ (judgeResend l p s).cfg = s.cfg ∧ (judgeResend l p s).jobs = s.jobs ∧
    (judgeResend l p s).routes = s.routes ∧ (judgeResend l p s).lines = s.lines ∧
    (judgeResend l p s).profiles = s.profiles ∧ (judgeResend l p s).ticks = s.ticks ∧
    (judgeResend l p s).printer = s.printer ∧ (judgeResend l p s).clock = s.clock ∧ (judgeResend l p s).meters = s.meters ∧
    (judgeResend l p s).accounts = s.accounts ∧ (judgeResend l p s).charges = s.charges ∧
    (judgeResend l p s).freeCount = s.freeCount := by
  unfold judgeResend
  (repeat' split) <;> simp

@[simp] theorem judgePage_frame (l : LineNo) (k : PageEndKind) (s : State) :
    (judgePage l k s).pending = s.pending ∧ (judgePage l k s).cfg = s.cfg ∧ (judgePage l k s).profiles = s.profiles ∧
    (judgePage l k s).ticks = s.ticks ∧ (judgePage l k s).clock = s.clock ∧ (judgePage l k s).freeCount = s.freeCount := by
  unfold judgePage
  dsimp only
  (repeat' split) <;> simp

@[simp] theorem repeatVerdict_frame (l : LineNo) (s : State) :
    (repeatVerdict l s).pending = s.pending ∧ (repeatVerdict l s).cfg = s.cfg ∧ (repeatVerdict l s).store = s.store ∧
    (repeatVerdict l s).scan = s.scan ∧ (repeatVerdict l s).jobs = s.jobs ∧ (repeatVerdict l s).routes = s.routes ∧
    (repeatVerdict l s).lines = s.lines ∧ (repeatVerdict l s).profiles = s.profiles ∧ (repeatVerdict l s).ticks = s.ticks ∧
    (repeatVerdict l s).printer = s.printer ∧ (repeatVerdict l s).clock = s.clock ∧ (repeatVerdict l s).meters = s.meters ∧
    (repeatVerdict l s).accounts = s.accounts ∧ (repeatVerdict l s).charges = s.charges ∧
    (repeatVerdict l s).link = s.link ∧ (repeatVerdict l s).freeCount = s.freeCount := by
  unfold repeatVerdict
  (repeat' split) <;> simp

@[simp] theorem takePageEnd_frame (l : LineNo) (k : PageEndKind) (s : State) :
    (takePageEnd l k s).pending = s.pending ∧ (takePageEnd l k s).cfg = s.cfg ∧ (takePageEnd l k s).profiles = s.profiles ∧
    (takePageEnd l k s).ticks = s.ticks ∧ (takePageEnd l k s).clock = s.clock ∧
    (takePageEnd l k s).freeCount = s.freeCount := by
  unfold takePageEnd
  dsimp only
  (repeat' split) <;> simp

@[simp] theorem firstChoice_frame (l : LineNo) (d : Fin 64) (p : Fin 256) (c : Settings) (n : Name) (s : State) :
    (firstChoice l d p c n s).pending = s.pending ∧ (firstChoice l d p c n s).cfg = s.cfg ∧
    (firstChoice l d p c n s).profiles = s.profiles ∧ (firstChoice l d p c n s).ticks = s.ticks ∧
    (firstChoice l d p c n s).clock = s.clock ∧ (firstChoice l d p c n s).freeCount = s.freeCount := by
  unfold firstChoice
  (repeat' split) <;> simp

@[simp] theorem laterChoice_frame (l : LineNo) (c : Settings) (s : State) :
    (laterChoice l c s).pending = s.pending ∧ (laterChoice l c s).cfg = s.cfg ∧ (laterChoice l c s).scan = s.scan ∧
    (laterChoice l c s).jobs = s.jobs ∧ (laterChoice l c s).routes = s.routes ∧ (laterChoice l c s).lines = s.lines ∧
    (laterChoice l c s).profiles = s.profiles ∧ (laterChoice l c s).procs = s.procs ∧ (laterChoice l c s).slots = s.slots ∧
    (laterChoice l c s).ticks = s.ticks ∧ (laterChoice l c s).printer = s.printer ∧ (laterChoice l c s).clock = s.clock ∧
    (laterChoice l c s).meters = s.meters ∧ (laterChoice l c s).accounts = s.accounts ∧
    (laterChoice l c s).charges = s.charges ∧ (laterChoice l c s).link = s.link ∧
    (laterChoice l c s).freeCount = s.freeCount := by
  unfold laterChoice
  dsimp only
  (repeat' split) <;> simp

@[simp] theorem takeChoice_frame (l : LineNo) (c : Settings) (n : Name) (s : State) :
    (takeChoice l c n s).pending = s.pending ∧ (takeChoice l c n s).cfg = s.cfg ∧
    (takeChoice l c n s).profiles = s.profiles ∧ (takeChoice l c n s).ticks = s.ticks ∧
    (takeChoice l c n s).clock = s.clock ∧ (takeChoice l c n s).freeCount = s.freeCount := by
  unfold takeChoice
  dsimp only
  (repeat' split) <;> simp

@[simp] theorem takeTrialQuality_frame (l : LineNo) (good : Bool) (s : State) :
    (takeTrialQuality l good s).pending = s.pending ∧ (takeTrialQuality l good s).cfg = s.cfg ∧
    (takeTrialQuality l good s).store = s.store ∧ (takeTrialQuality l good s).scan = s.scan ∧
    (takeTrialQuality l good s).jobs = s.jobs ∧ (takeTrialQuality l good s).routes = s.routes ∧
    (takeTrialQuality l good s).lines = s.lines ∧ (takeTrialQuality l good s).profiles = s.profiles ∧
    (takeTrialQuality l good s).ticks = s.ticks ∧ (takeTrialQuality l good s).printer = s.printer ∧
    (takeTrialQuality l good s).clock = s.clock ∧ (takeTrialQuality l good s).meters = s.meters ∧
    (takeTrialQuality l good s).accounts = s.accounts ∧ (takeTrialQuality l good s).charges = s.charges ∧
    (takeTrialQuality l good s).link = s.link ∧ (takeTrialQuality l good s).freeCount = s.freeCount := by
  unfold takeTrialQuality
  (repeat' split) <;> simp

@[simp] theorem takeClose_frame (l : LineNo) (s : State) :
    (takeClose l s).pending = s.pending ∧ (takeClose l s).cfg = s.cfg ∧ (takeClose l s).profiles = s.profiles ∧
    (takeClose l s).ticks = s.ticks ∧ (takeClose l s).clock = s.clock ∧ (takeClose l s).freeCount = s.freeCount := by
  unfold takeClose
  dsimp only
  (repeat' split) <;> simp

@[simp] theorem messageEffect_frame (l : LineNo) (m : Message) (s : State) :
    (messageEffect l m s).pending = s.pending ∧ (messageEffect l m s).cfg = s.cfg ∧
    (messageEffect l m s).profiles = s.profiles ∧ (messageEffect l m s).ticks = s.ticks ∧
    (messageEffect l m s).clock = s.clock ∧ (messageEffect l m s).freeCount = s.freeCount := by
  unfold messageEffect
  (repeat' split) <;> simp

@[simp] theorem messageTaken_frame (l : LineNo) (m : Message) (s : State) :
    (messageTaken l m s).pending = s.pending ∧ (messageTaken l m s).cfg = s.cfg ∧
    (messageTaken l m s).profiles = s.profiles ∧ (messageTaken l m s).ticks = s.ticks ∧
    (messageTaken l m s).clock = s.clock ∧ (messageTaken l m s).freeCount = s.freeCount := by
  unfold messageTaken
  dsimp only
  (repeat' split) <;> simp

@[simp] theorem takeMessage_frame (l : LineNo) (bytes : List Byte) (s : State) :
    (takeMessage l bytes s).pending = s.pending ∧ (takeMessage l bytes s).cfg = s.cfg ∧
    (takeMessage l bytes s).profiles = s.profiles ∧ (takeMessage l bytes s).ticks = s.ticks ∧
    (takeMessage l bytes s).clock = s.clock ∧ (takeMessage l bytes s).freeCount = s.freeCount := by
  unfold takeMessage
  (repeat' split) <;> simp

@[simp] theorem repeatMessage_frame (l : LineNo) (s : State) :
    (repeatMessage l s).pending = s.pending ∧ (repeatMessage l s).cfg = s.cfg ∧ (repeatMessage l s).store = s.store ∧
    (repeatMessage l s).scan = s.scan ∧ (repeatMessage l s).jobs = s.jobs ∧ (repeatMessage l s).routes = s.routes ∧
    (repeatMessage l s).lines = s.lines ∧ (repeatMessage l s).profiles = s.profiles ∧ (repeatMessage l s).ticks = s.ticks ∧
    (repeatMessage l s).printer = s.printer ∧ (repeatMessage l s).clock = s.clock ∧ (repeatMessage l s).meters = s.meters ∧
    (repeatMessage l s).accounts = s.accounts ∧ (repeatMessage l s).charges = s.charges ∧
    (repeatMessage l s).link = s.link ∧ (repeatMessage l s).freeCount = s.freeCount := by
  unfold repeatMessage
  dsimp only
  (repeat' split) <;> simp

@[simp] theorem agedLine_frame (l : LineNo) (c : TimeoutClass) (s : State) :
    (agedLine l c s).pending = s.pending ∧ (agedLine l c s).cfg = s.cfg ∧ (agedLine l c s).store = s.store ∧
    (agedLine l c s).scan = s.scan ∧ (agedLine l c s).jobs = s.jobs ∧ (agedLine l c s).routes = s.routes ∧
    (agedLine l c s).lines = s.lines ∧ (agedLine l c s).profiles = s.profiles ∧ (agedLine l c s).ticks = s.ticks ∧
    (agedLine l c s).printer = s.printer ∧ (agedLine l c s).clock = s.clock ∧ (agedLine l c s).meters = s.meters ∧
    (agedLine l c s).accounts = s.accounts ∧ (agedLine l c s).charges = s.charges ∧ (agedLine l c s).link = s.link ∧
    (agedLine l c s).freeCount = s.freeCount := by
  unfold agedLine
  (repeat' split) <;> simp

@[simp] theorem timedOutLine_frame (l : LineNo) (c : TimeoutClass) (s : State) :
    (timedOutLine l c s).pending = s.pending ∧ (timedOutLine l c s).cfg = s.cfg ∧
    (timedOutLine l c s).profiles = s.profiles ∧ (timedOutLine l c s).ticks = s.ticks ∧
    (timedOutLine l c s).clock = s.clock ∧ (timedOutLine l c s).freeCount = s.freeCount := by
  unfold timedOutLine
  dsimp only
  (repeat' split) <;> simp

@[simp] theorem releaseUnasked_frame (l : LineNo) (why : Reason) (s : State) :
    (releaseUnasked l why s).pending = s.pending ∧ (releaseUnasked l why s).cfg = s.cfg ∧
    (releaseUnasked l why s).profiles = s.profiles ∧ (releaseUnasked l why s).ticks = s.ticks ∧
    (releaseUnasked l why s).clock = s.clock ∧ (releaseUnasked l why s).freeCount = s.freeCount := by
  unfold releaseUnasked
  dsimp only
  (repeat' split) <;> simp

/-! ### ScanOps -/

@[simp] theorem closeScanned_frame (c : ChannelNo) (d : Fin 64) (s : State) :
    (closeScanned c d s).pending = s.pending ∧ (closeScanned c d s).cfg = s.cfg ∧
    (closeScanned c d s).profiles = s.profiles ∧ (closeScanned c d s).ticks = s.ticks ∧
    (closeScanned c d s).clock = s.clock ∧ (closeScanned c d s).freeCount = s.freeCount := by
  unfold closeScanned
  dsimp only
  (repeat' split) <;> simp

@[simp] theorem closeIfPending_frame (c : ChannelNo) (s : State) :
    (closeIfPending c s).pending = s.pending ∧ (closeIfPending c s).cfg = s.cfg ∧
    (closeIfPending c s).profiles = s.profiles ∧ (closeIfPending c s).ticks = s.ticks ∧
    (closeIfPending c s).clock = s.clock ∧ (closeIfPending c s).freeCount = s.freeCount := by
  unfold closeIfPending
  (repeat' split) <;> simp

@[simp] theorem sheetFault_frame (c : ChannelNo) (cause : ScanFault) (s : State) :
    (sheetFault c cause s).pending = s.pending ∧ (sheetFault c cause s).cfg = s.cfg ∧
    (sheetFault c cause s).store = s.store ∧ (sheetFault c cause s).scan = s.scan ∧ (sheetFault c cause s).jobs = s.jobs ∧
    (sheetFault c cause s).routes = s.routes ∧ (sheetFault c cause s).lines = s.lines ∧
    (sheetFault c cause s).profiles = s.profiles ∧ (sheetFault c cause s).procs = s.procs ∧
    (sheetFault c cause s).slots = s.slots ∧ (sheetFault c cause s).ticks = s.ticks ∧
    (sheetFault c cause s).printer = s.printer ∧ (sheetFault c cause s).clock = s.clock ∧
    (sheetFault c cause s).meters = s.meters ∧ (sheetFault c cause s).accounts = s.accounts ∧
    (sheetFault c cause s).charges = s.charges ∧ (sheetFault c cause s).freeCount = s.freeCount := by
  unfold sheetFault
  (repeat' split) <;> simp

@[simp] theorem startFault_frame (c : ChannelNo) (sheet : Nat) (cause : ScanFault) (replacement : Bool) (s : State) :
    (startFault c sheet cause replacement s).pending = s.pending ∧ (startFault c sheet cause replacement s).cfg = s.cfg ∧
    (startFault c sheet cause replacement s).store = s.store ∧ (startFault c sheet cause replacement s).scan = s.scan ∧
    (startFault c sheet cause replacement s).jobs = s.jobs ∧ (startFault c sheet cause replacement s).routes = s.routes ∧
    (startFault c sheet cause replacement s).lines = s.lines ∧
    (startFault c sheet cause replacement s).profiles = s.profiles ∧
    (startFault c sheet cause replacement s).procs = s.procs ∧ (startFault c sheet cause replacement s).slots = s.slots ∧
    (startFault c sheet cause replacement s).ticks = s.ticks ∧
    (startFault c sheet cause replacement s).printer = s.printer ∧
    (startFault c sheet cause replacement s).clock = s.clock ∧ (startFault c sheet cause replacement s).meters = s.meters ∧
    (startFault c sheet cause replacement s).accounts = s.accounts ∧
    (startFault c sheet cause replacement s).charges = s.charges ∧
    (startFault c sheet cause replacement s).freeCount = s.freeCount := by
  unfold startFault
  (repeat' split) <;> simp

@[simp] theorem refuseStart_frame (c : ChannelNo) (f : StartFrame) (cause : ScanFault) (s : State) :
    (refuseStart c f cause s).pending = s.pending ∧ (refuseStart c f cause s).cfg = s.cfg ∧
    (refuseStart c f cause s).store = s.store ∧ (refuseStart c f cause s).jobs = s.jobs ∧
    (refuseStart c f cause s).routes = s.routes ∧ (refuseStart c f cause s).lines = s.lines ∧
    (refuseStart c f cause s).profiles = s.profiles ∧ (refuseStart c f cause s).procs = s.procs ∧
    (refuseStart c f cause s).slots = s.slots ∧ (refuseStart c f cause s).ticks = s.ticks ∧
    (refuseStart c f cause s).printer = s.printer ∧ (refuseStart c f cause s).clock = s.clock ∧
    (refuseStart c f cause s).meters = s.meters ∧ (refuseStart c f cause s).accounts = s.accounts ∧
    (refuseStart c f cause s).charges = s.charges ∧ (refuseStart c f cause s).freeCount = s.freeCount := by
  unfold refuseStart
  (repeat' split) <;> simp

@[simp] theorem startSheet_frame (c : ChannelNo) (f : StartFrame) (q : Resolution) (d : Fin 64) (slot : Option Nat) (p : Fin 256) (s : State) :
    (startSheet c f q d slot p s).pending = s.pending ∧ (startSheet c f q d slot p s).cfg = s.cfg ∧
    (startSheet c f q d slot p s).profiles = s.profiles ∧ (startSheet c f q d slot p s).ticks = s.ticks ∧
    (startSheet c f q d slot p s).clock = s.clock ∧ (startSheet c f q d slot p s).freeCount = s.freeCount := by
  unfold startSheet
  (repeat' split) <;> simp

@[simp] theorem takeStart_frame (c : ChannelNo) (f : StartFrame) (s : State) :
    (takeStart c f s).pending = s.pending ∧ (takeStart c f s).cfg = s.cfg ∧ (takeStart c f s).profiles = s.profiles ∧
    (takeStart c f s).ticks = s.ticks ∧ (takeStart c f s).clock = s.clock ∧ (takeStart c f s).freeCount = s.freeCount := by
  unfold takeStart
  (repeat' split) <;> simp

@[simp] theorem takeHeld_frame (c : ChannelNo) (s : State) :
    (takeHeld c s).pending = s.pending ∧ (takeHeld c s).cfg = s.cfg ∧ (takeHeld c s).profiles = s.profiles ∧
    (takeHeld c s).ticks = s.ticks ∧ (takeHeld c s).clock = s.clock ∧ (takeHeld c s).freeCount = s.freeCount := by
  unfold takeHeld
  (repeat' split) <;> simp

@[simp] theorem afterSheet_frame (c : ChannelNo) (s : State) :
    (afterSheet c s).pending = s.pending ∧ (afterSheet c s).cfg = s.cfg ∧ (afterSheet c s).profiles = s.profiles ∧
    (afterSheet c s).ticks = s.ticks ∧ (afterSheet c s).clock = s.clock ∧ (afterSheet c s).freeCount = s.freeCount := by
  unfold afterSheet
  (repeat' split) <;> simp

@[simp] theorem holdStart_frame (c : ChannelNo) (f : StartFrame) (s : State) :
    (holdStart c f s).pending = s.pending ∧ (holdStart c f s).cfg = s.cfg ∧ (holdStart c f s).store = s.store ∧
    (holdStart c f s).jobs = s.jobs ∧ (holdStart c f s).routes = s.routes ∧ (holdStart c f s).lines = s.lines ∧
    (holdStart c f s).profiles = s.profiles ∧ (holdStart c f s).procs = s.procs ∧ (holdStart c f s).slots = s.slots ∧
    (holdStart c f s).ticks = s.ticks ∧ (holdStart c f s).printer = s.printer ∧ (holdStart c f s).clock = s.clock ∧
    (holdStart c f s).meters = s.meters ∧ (holdStart c f s).accounts = s.accounts ∧ (holdStart c f s).charges = s.charges ∧
    (holdStart c f s).freeCount = s.freeCount := by
  unfold holdStart
  (repeat' split) <;> simp

@[simp] theorem arriveStart_frame (c : ChannelNo) (f : StartFrame) (s : State) :
    (arriveStart c f s).pending = s.pending ∧ (arriveStart c f s).cfg = s.cfg ∧ (arriveStart c f s).profiles = s.profiles ∧
    (arriveStart c f s).ticks = s.ticks ∧ (arriveStart c f s).clock = s.clock ∧
    (arriveStart c f s).freeCount = s.freeCount := by
  unfold arriveStart
  dsimp only
  (repeat' split) <;> simp

@[simp] theorem arriveEnd_frame (c : ChannelNo) (sheet count : Nat) (s : State) :
    (arriveEnd c sheet count s).pending = s.pending ∧ (arriveEnd c sheet count s).cfg = s.cfg ∧
    (arriveEnd c sheet count s).store = s.store ∧ (arriveEnd c sheet count s).jobs = s.jobs ∧
    (arriveEnd c sheet count s).routes = s.routes ∧ (arriveEnd c sheet count s).lines = s.lines ∧
    (arriveEnd c sheet count s).profiles = s.profiles ∧ (arriveEnd c sheet count s).procs = s.procs ∧
    (arriveEnd c sheet count s).slots = s.slots ∧ (arriveEnd c sheet count s).ticks = s.ticks ∧
    (arriveEnd c sheet count s).printer = s.printer ∧ (arriveEnd c sheet count s).clock = s.clock ∧
    (arriveEnd c sheet count s).meters = s.meters ∧ (arriveEnd c sheet count s).accounts = s.accounts ∧
    (arriveEnd c sheet count s).charges = s.charges ∧ (arriveEnd c sheet count s).link = s.link ∧
    (arriveEnd c sheet count s).freeCount = s.freeCount := by
  unfold arriveEnd
  dsimp only
  (repeat' split) <;> simp

@[simp] theorem dropCoderWork_frame (c : ChannelNo) (s : State) :
    (dropCoderWork c s).pending = s.pending ∧ (dropCoderWork c s).cfg = s.cfg ∧ (dropCoderWork c s).store = s.store ∧
    (dropCoderWork c s).jobs = s.jobs ∧ (dropCoderWork c s).routes = s.routes ∧ (dropCoderWork c s).lines = s.lines ∧
    (dropCoderWork c s).profiles = s.profiles ∧ (dropCoderWork c s).procs = s.procs ∧ (dropCoderWork c s).slots = s.slots ∧
    (dropCoderWork c s).ticks = s.ticks ∧ (dropCoderWork c s).printer = s.printer ∧ (dropCoderWork c s).clock = s.clock ∧
    (dropCoderWork c s).meters = s.meters ∧ (dropCoderWork c s).accounts = s.accounts ∧
    (dropCoderWork c s).charges = s.charges ∧ (dropCoderWork c s).link = s.link ∧
    (dropCoderWork c s).freeCount = s.freeCount := by
  unfold dropCoderWork
  (repeat' split) <;> simp

@[simp] theorem abortSheet_frame (c : ChannelNo) (s : State) :
    (abortSheet c s).pending = s.pending ∧ (abortSheet c s).cfg = s.cfg ∧ (abortSheet c s).profiles = s.profiles ∧
    (abortSheet c s).ticks = s.ticks ∧ (abortSheet c s).clock = s.clock ∧ (abortSheet c s).freeCount = s.freeCount := by
  unfold abortSheet
  dsimp only
  (repeat' split) <;> simp

@[simp] theorem arriveAbort_frame (c : ChannelNo) (sheet : Nat) (s : State) :
    (arriveAbort c sheet s).pending = s.pending ∧ (arriveAbort c sheet s).cfg = s.cfg ∧
    (arriveAbort c sheet s).profiles = s.profiles ∧ (arriveAbort c sheet s).ticks = s.ticks ∧
    (arriveAbort c sheet s).clock = s.clock ∧ (arriveAbort c sheet s).freeCount = s.freeCount := by
  unfold arriveAbort
  dsimp only
  (repeat' split) <;> simp

@[simp] theorem arriveRaster_frame (c : ChannelNo) (sheet line : Nat) (bits : List Byte) (s : State) :
    (arriveRaster c sheet line bits s).pending = s.pending ∧ (arriveRaster c sheet line bits s).cfg = s.cfg ∧
    (arriveRaster c sheet line bits s).store = s.store ∧ (arriveRaster c sheet line bits s).jobs = s.jobs ∧
    (arriveRaster c sheet line bits s).routes = s.routes ∧ (arriveRaster c sheet line bits s).lines = s.lines ∧
    (arriveRaster c sheet line bits s).profiles = s.profiles ∧ (arriveRaster c sheet line bits s).procs = s.procs ∧
    (arriveRaster c sheet line bits s).slots = s.slots ∧ (arriveRaster c sheet line bits s).ticks = s.ticks ∧
    (arriveRaster c sheet line bits s).printer = s.printer ∧ (arriveRaster c sheet line bits s).clock = s.clock ∧
    (arriveRaster c sheet line bits s).meters = s.meters ∧ (arriveRaster c sheet line bits s).accounts = s.accounts ∧
    (arriveRaster c sheet line bits s).charges = s.charges ∧ (arriveRaster c sheet line bits s).freeCount = s.freeCount := by
  unfold arriveRaster
  dsimp only
  (repeat' split) <;> simp

@[simp] theorem stall_frame (c : ChannelNo) (s : State) :
    (stall c s).pending = s.pending ∧ (stall c s).cfg = s.cfg ∧ (stall c s).store = s.store ∧ (stall c s).jobs = s.jobs ∧
    (stall c s).routes = s.routes ∧ (stall c s).lines = s.lines ∧ (stall c s).profiles = s.profiles ∧
    (stall c s).procs = s.procs ∧ (stall c s).slots = s.slots ∧ (stall c s).ticks = s.ticks ∧
    (stall c s).printer = s.printer ∧ (stall c s).clock = s.clock ∧ (stall c s).meters = s.meters ∧
    (stall c s).accounts = s.accounts ∧ (stall c s).charges = s.charges ∧ (stall c s).freeCount = s.freeCount := by
  unfold stall
  dsimp only
  (repeat' split) <;> simp

@[simp] theorem sealSheet_frame (c : ChannelNo) (s : State) :
    (sealSheet c s).pending = s.pending ∧ (sealSheet c s).cfg = s.cfg ∧ (sealSheet c s).profiles = s.profiles ∧
    (sealSheet c s).ticks = s.ticks ∧ (sealSheet c s).clock = s.clock ∧ (sealSheet c s).freeCount = s.freeCount := by
  unfold sealSheet
  dsimp only
  (repeat' split) <;> simp

@[simp] theorem pieceGranted_frame (c : ChannelNo) (s : State) :
    (pieceGranted c s).pending = s.pending ∧ (pieceGranted c s).cfg = s.cfg ∧ (pieceGranted c s).profiles = s.profiles ∧
    (pieceGranted c s).ticks = s.ticks ∧ (pieceGranted c s).clock = s.clock ∧
    (pieceGranted c s).freeCount = s.freeCount := by
  unfold pieceGranted
  dsimp only
  (repeat' split) <;> simp

@[simp] theorem serveChannel_frame (c : ChannelNo) (s : State) :
    (serveChannel c s).pending = s.pending ∧ (serveChannel c s).cfg = s.cfg ∧ (serveChannel c s).profiles = s.profiles ∧
    (serveChannel c s).ticks = s.ticks ∧ (serveChannel c s).clock = s.clock ∧
    (serveChannel c s).freeCount = s.freeCount := by
  unfold serveChannel
  dsimp only
  (repeat' split) <;> simp

@[simp] theorem agedChannel_frame (c : ChannelNo) (s : State) :
    (agedChannel c s).pending = s.pending ∧ (agedChannel c s).cfg = s.cfg ∧ (agedChannel c s).store = s.store ∧
    (agedChannel c s).scan = s.scan ∧ (agedChannel c s).jobs = s.jobs ∧ (agedChannel c s).routes = s.routes ∧
    (agedChannel c s).lines = s.lines ∧ (agedChannel c s).profiles = s.profiles ∧ (agedChannel c s).procs = s.procs ∧
    (agedChannel c s).slots = s.slots ∧ (agedChannel c s).ticks = s.ticks ∧ (agedChannel c s).printer = s.printer ∧
    (agedChannel c s).clock = s.clock ∧ (agedChannel c s).meters = s.meters ∧ (agedChannel c s).accounts = s.accounts ∧
    (agedChannel c s).charges = s.charges ∧ (agedChannel c s).freeCount = s.freeCount := by
  unfold agedChannel
  (repeat' split) <;> simp

@[simp] theorem scanSilent_frame (c : ChannelNo) (s : State) :
    (scanSilent c s).pending = s.pending ∧ (scanSilent c s).cfg = s.cfg ∧ (scanSilent c s).store = s.store ∧
    (scanSilent c s).jobs = s.jobs ∧ (scanSilent c s).routes = s.routes ∧ (scanSilent c s).lines = s.lines ∧
    (scanSilent c s).profiles = s.profiles ∧ (scanSilent c s).procs = s.procs ∧ (scanSilent c s).slots = s.slots ∧
    (scanSilent c s).ticks = s.ticks ∧ (scanSilent c s).printer = s.printer ∧ (scanSilent c s).clock = s.clock ∧
    (scanSilent c s).meters = s.meters ∧ (scanSilent c s).accounts = s.accounts ∧ (scanSilent c s).charges = s.charges ∧
    (scanSilent c s).freeCount = s.freeCount := by
  unfold scanSilent
  (repeat' split) <;> simp

@[simp] theorem restartCredit_frame (s : State) (c : ChannelNo) :
    (restartCredit s c).pending = s.pending ∧ (restartCredit s c).cfg = s.cfg ∧ (restartCredit s c).store = s.store ∧
    (restartCredit s c).scan = s.scan ∧ (restartCredit s c).jobs = s.jobs ∧ (restartCredit s c).routes = s.routes ∧
    (restartCredit s c).lines = s.lines ∧ (restartCredit s c).profiles = s.profiles ∧ (restartCredit s c).procs = s.procs ∧
    (restartCredit s c).slots = s.slots ∧ (restartCredit s c).ticks = s.ticks ∧ (restartCredit s c).printer = s.printer ∧
    (restartCredit s c).clock = s.clock ∧ (restartCredit s c).meters = s.meters ∧
    (restartCredit s c).accounts = s.accounts ∧ (restartCredit s c).charges = s.charges ∧
    (restartCredit s c).freeCount = s.freeCount := by
  unfold restartCredit
  dsimp only
  (repeat' split) <;> simp

@[simp] theorem foldl_restartCredit_frame (l : List ChannelNo) (s : State) :
    (l.foldl restartCredit s).pending = s.pending ∧ (l.foldl restartCredit s).cfg = s.cfg ∧
    (l.foldl restartCredit s).store = s.store ∧ (l.foldl restartCredit s).scan = s.scan ∧
    (l.foldl restartCredit s).jobs = s.jobs ∧ (l.foldl restartCredit s).routes = s.routes ∧
    (l.foldl restartCredit s).lines = s.lines ∧ (l.foldl restartCredit s).profiles = s.profiles ∧
    (l.foldl restartCredit s).procs = s.procs ∧ (l.foldl restartCredit s).slots = s.slots ∧
    (l.foldl restartCredit s).ticks = s.ticks ∧ (l.foldl restartCredit s).printer = s.printer ∧
    (l.foldl restartCredit s).clock = s.clock ∧ (l.foldl restartCredit s).meters = s.meters ∧
    (l.foldl restartCredit s).accounts = s.accounts ∧ (l.foldl restartCredit s).charges = s.charges ∧
    (l.foldl restartCredit s).freeCount = s.freeCount := by
  refine ⟨?_, ?_, ?_, ?_, ?_, ?_, ?_, ?_, ?_, ?_, ?_, ?_, ?_, ?_, ?_, ?_, ?_⟩ <;> exact foldl_keep _ _ (by simp) _ _

/-! ### TariffCommands -/

@[simp] theorem holdingCut_frame (s : State) (l : LineNo) :
    (holdingCut s l).pending = s.pending ∧ (holdingCut s l).cfg = s.cfg ∧ (holdingCut s l).store = s.store ∧
    (holdingCut s l).scan = s.scan ∧ (holdingCut s l).jobs = s.jobs ∧ (holdingCut s l).routes = s.routes ∧
    (holdingCut s l).lines = s.lines ∧ (holdingCut s l).profiles = s.profiles ∧ (holdingCut s l).ticks = s.ticks ∧
    (holdingCut s l).printer = s.printer ∧ (holdingCut s l).clock = s.clock ∧ (holdingCut s l).meters = s.meters ∧
    (holdingCut s l).accounts = s.accounts ∧ (holdingCut s l).charges = s.charges ∧ (holdingCut s l).link = s.link ∧
    (holdingCut s l).freeCount = s.freeCount := by
  unfold holdingCut
  (repeat' split) <;> simp

@[simp] theorem foldl_holdingCut_frame (l : List LineNo) (s : State) :
    (l.foldl holdingCut s).pending = s.pending ∧ (l.foldl holdingCut s).cfg = s.cfg ∧
    (l.foldl holdingCut s).store = s.store ∧ (l.foldl holdingCut s).scan = s.scan ∧ (l.foldl holdingCut s).jobs = s.jobs ∧
    (l.foldl holdingCut s).routes = s.routes ∧ (l.foldl holdingCut s).lines = s.lines ∧
    (l.foldl holdingCut s).profiles = s.profiles ∧ (l.foldl holdingCut s).ticks = s.ticks ∧
    (l.foldl holdingCut s).printer = s.printer ∧ (l.foldl holdingCut s).clock = s.clock ∧
    (l.foldl holdingCut s).meters = s.meters ∧ (l.foldl holdingCut s).accounts = s.accounts ∧
    (l.foldl holdingCut s).charges = s.charges ∧ (l.foldl holdingCut s).link = s.link ∧
    (l.foldl holdingCut s).freeCount = s.freeCount := by
  refine ⟨?_, ?_, ?_, ?_, ?_, ?_, ?_, ?_, ?_, ?_, ?_, ?_, ?_, ?_, ?_, ?_⟩ <;> exact foldl_keep _ _ (by simp) _ _

@[simp] theorem secondEvent_frame (s : State) :
    (secondEvent s).pending = s.pending ∧ (secondEvent s).cfg = s.cfg ∧ (secondEvent s).store = s.store ∧
    (secondEvent s).scan = s.scan ∧ (secondEvent s).lines = s.lines ∧ (secondEvent s).profiles = s.profiles ∧
    (secondEvent s).ticks = s.ticks ∧ (secondEvent s).printer = s.printer ∧ (secondEvent s).charges = s.charges ∧
    (secondEvent s).freeCount = s.freeCount := by
  unfold secondEvent
  refine ⟨?_, ?_, ?_, ?_, ?_, ?_, ?_, ?_, ?_, ?_⟩ <;>
    (simp; exact (foldl_keep _ _ (by intros; simp) _ _).trans (by simp))

@[simp] theorem unitBoundary_frame (l : LineNo) (s : State) :
    (unitBoundary l s).pending = s.pending ∧ (unitBoundary l s).cfg = s.cfg ∧ (unitBoundary l s).store = s.store ∧
    (unitBoundary l s).scan = s.scan ∧ (unitBoundary l s).jobs = s.jobs ∧ (unitBoundary l s).routes = s.routes ∧
    (unitBoundary l s).lines = s.lines ∧ (unitBoundary l s).profiles = s.profiles ∧ (unitBoundary l s).procs = s.procs ∧
    (unitBoundary l s).slots = s.slots ∧ (unitBoundary l s).ticks = s.ticks ∧ (unitBoundary l s).printer = s.printer ∧
    (unitBoundary l s).clock = s.clock ∧ (unitBoundary l s).charges = s.charges ∧
    (unitBoundary l s).freeCount = s.freeCount := by
  unfold unitBoundary
  (repeat' split) <;> simp

/-! ### AccountCommands -/

@[simp] theorem orderAccount_frame (n : Fin 64) (a : Account) (s : State) :
    (orderAccount n a s).pending = s.pending ∧ (orderAccount n a s).cfg = s.cfg ∧ (orderAccount n a s).store = s.store ∧
    (orderAccount n a s).scan = s.scan ∧ (orderAccount n a s).lines = s.lines ∧ (orderAccount n a s).profiles = s.profiles ∧
    (orderAccount n a s).procs = s.procs ∧ (orderAccount n a s).slots = s.slots ∧ (orderAccount n a s).ticks = s.ticks ∧
    (orderAccount n a s).printer = s.printer ∧ (orderAccount n a s).clock = s.clock ∧
    (orderAccount n a s).meters = s.meters ∧ (orderAccount n a s).charges = s.charges ∧
    (orderAccount n a s).freeCount = s.freeCount := by
  unfold orderAccount
  dsimp only
  (repeat' split) <;> simp

/-! ### RouteCommands -/

@[simp] theorem putRoute_frame (i : Fin 48) (r : Route) (s : State) :
    (putRoute i r s).pending = s.pending ∧ (putRoute i r s).cfg = s.cfg ∧ (putRoute i r s).store = s.store ∧
    (putRoute i r s).scan = s.scan ∧ (putRoute i r s).jobs = s.jobs ∧ (putRoute i r s).lines = s.lines ∧
    (putRoute i r s).profiles = s.profiles ∧ (putRoute i r s).procs = s.procs ∧ (putRoute i r s).slots = s.slots ∧
    (putRoute i r s).ticks = s.ticks ∧ (putRoute i r s).printer = s.printer ∧ (putRoute i r s).clock = s.clock ∧
    (putRoute i r s).meters = s.meters ∧ (putRoute i r s).accounts = s.accounts ∧ (putRoute i r s).charges = s.charges ∧
    (putRoute i r s).link = s.link ∧ (putRoute i r s).freeCount = s.freeCount := by
  unfold putRoute
  (repeat' split) <;> simp

@[simp] theorem place_frame (j : Fin 32) (d : Nat) (x : Dest) (b : SendJob) (i : Fin 48) (l : LineNo) (s : State) :
    (place j d x b i l s).pending = s.pending ∧ (place j d x b i l s).cfg = s.cfg ∧ (place j d x b i l s).store = s.store ∧
    (place j d x b i l s).scan = s.scan ∧ (place j d x b i l s).profiles = s.profiles ∧
    (place j d x b i l s).ticks = s.ticks ∧ (place j d x b i l s).printer = s.printer ∧
    (place j d x b i l s).clock = s.clock ∧ (place j d x b i l s).meters = s.meters ∧ (place j d x b i l s).link = s.link ∧
    (place j d x b i l s).freeCount = s.freeCount := by
  unfold place
  (repeat' split) <;> simp

@[simp] theorem failDest_frame (j : Fin 32) (d : Nat) (why : Reason) (s : State) :
    (failDest j d why s).pending = s.pending ∧ (failDest j d why s).cfg = s.cfg ∧ (failDest j d why s).routes = s.routes ∧
    (failDest j d why s).lines = s.lines ∧ (failDest j d why s).profiles = s.profiles ∧
    (failDest j d why s).procs = s.procs ∧ (failDest j d why s).slots = s.slots ∧ (failDest j d why s).ticks = s.ticks ∧
    (failDest j d why s).printer = s.printer ∧ (failDest j d why s).clock = s.clock ∧
    (failDest j d why s).meters = s.meters ∧ (failDest j d why s).accounts = s.accounts ∧
    (failDest j d why s).charges = s.charges ∧ (failDest j d why s).freeCount = s.freeCount := by
  unfold failDest
  (repeat' split) <;> simp

@[simp] theorem admitDest_frame (j : Fin 32) (d : Nat) (x : Dest) (b : SendJob) (s : State) :
    (admitDest j d x b s).pending = s.pending ∧ (admitDest j d x b s).cfg = s.cfg ∧
    (admitDest j d x b s).profiles = s.profiles ∧ (admitDest j d x b s).ticks = s.ticks ∧
    (admitDest j d x b s).printer = s.printer ∧ (admitDest j d x b s).clock = s.clock ∧
    (admitDest j d x b s).meters = s.meters ∧ (admitDest j d x b s).freeCount = s.freeCount := by
  unfold admitDest
  dsimp only
  (repeat' split) <;> simp

@[simp] theorem takeCandidate_frame (s : State) (c : Fin 32 × Nat) :
    (takeCandidate s c).pending = s.pending ∧ (takeCandidate s c).cfg = s.cfg ∧ (takeCandidate s c).profiles = s.profiles ∧
    (takeCandidate s c).ticks = s.ticks ∧ (takeCandidate s c).printer = s.printer ∧ (takeCandidate s c).clock = s.clock ∧
    (takeCandidate s c).meters = s.meters ∧ (takeCandidate s c).freeCount = s.freeCount := by
  unfold takeCandidate
  (repeat' split) <;> simp

@[simp] theorem foldl_takeCandidate_frame (l : List (Fin 32 × Nat)) (s : State) :
    (l.foldl takeCandidate s).pending = s.pending ∧ (l.foldl takeCandidate s).cfg = s.cfg ∧
    (l.foldl takeCandidate s).profiles = s.profiles ∧ (l.foldl takeCandidate s).ticks = s.ticks ∧
    (l.foldl takeCandidate s).printer = s.printer ∧ (l.foldl takeCandidate s).clock = s.clock ∧
    (l.foldl takeCandidate s).meters = s.meters ∧ (l.foldl takeCandidate s).freeCount = s.freeCount := by
  refine ⟨?_, ?_, ?_, ?_, ?_, ?_, ?_, ?_⟩ <;> exact foldl_keep _ _ (by simp) _ _

@[simp] theorem endPass_frame (s : State) :
    (endPass s).pending = s.pending ∧ (endPass s).cfg = s.cfg ∧ (endPass s).store = s.store ∧ (endPass s).scan = s.scan ∧
    (endPass s).jobs = s.jobs ∧ (endPass s).lines = s.lines ∧ (endPass s).profiles = s.profiles ∧
    (endPass s).procs = s.procs ∧ (endPass s).slots = s.slots ∧ (endPass s).ticks = s.ticks ∧
    (endPass s).printer = s.printer ∧ (endPass s).clock = s.clock ∧ (endPass s).meters = s.meters ∧
    (endPass s).accounts = s.accounts ∧ (endPass s).charges = s.charges ∧ (endPass s).link = s.link ∧
    (endPass s).freeCount = s.freeCount := by
  unfold endPass
  (repeat' split) <;> simp

@[simp] theorem admissionPass_frame (s : State) :
    (admissionPass s).pending = s.pending ∧ (admissionPass s).cfg = s.cfg ∧ (admissionPass s).profiles = s.profiles ∧
    (admissionPass s).ticks = s.ticks ∧ (admissionPass s).clock = s.clock ∧ (admissionPass s).meters = s.meters ∧
    (admissionPass s).freeCount = s.freeCount := by
  unfold admissionPass
  (repeat' split) <;> simp

/-! ### JobCommands -/

@[simp] theorem reportFailed_frame (j : Fin 32) (s : State) (e : Dest × Nat) :
    (reportFailed j s e).pending = s.pending ∧ (reportFailed j s e).cfg = s.cfg ∧ (reportFailed j s e).store = s.store ∧
    (reportFailed j s e).scan = s.scan ∧ (reportFailed j s e).jobs = s.jobs ∧ (reportFailed j s e).routes = s.routes ∧
    (reportFailed j s e).lines = s.lines ∧ (reportFailed j s e).profiles = s.profiles ∧
    (reportFailed j s e).procs = s.procs ∧ (reportFailed j s e).slots = s.slots ∧ (reportFailed j s e).ticks = s.ticks ∧
    (reportFailed j s e).printer = s.printer ∧ (reportFailed j s e).clock = s.clock ∧
    (reportFailed j s e).meters = s.meters ∧ (reportFailed j s e).accounts = s.accounts ∧
    (reportFailed j s e).charges = s.charges ∧ (reportFailed j s e).freeCount = s.freeCount := by
  unfold reportFailed
  (repeat' split) <;> simp

@[simp] theorem foldl_reportFailed_frame (j : Fin 32) (l : List (Dest × Nat)) (s : State) :
    (l.foldl (reportFailed j) s).pending = s.pending ∧ (l.foldl (reportFailed j) s).cfg = s.cfg ∧
    (l.foldl (reportFailed j) s).store = s.store ∧ (l.foldl (reportFailed j) s).scan = s.scan ∧
    (l.foldl (reportFailed j) s).jobs = s.jobs ∧ (l.foldl (reportFailed j) s).routes = s.routes ∧
    (l.foldl (reportFailed j) s).lines = s.lines ∧ (l.foldl (reportFailed j) s).profiles = s.profiles ∧
    (l.foldl (reportFailed j) s).procs = s.procs ∧ (l.foldl (reportFailed j) s).slots = s.slots ∧
    (l.foldl (reportFailed j) s).ticks = s.ticks ∧ (l.foldl (reportFailed j) s).printer = s.printer ∧
    (l.foldl (reportFailed j) s).clock = s.clock ∧ (l.foldl (reportFailed j) s).meters = s.meters ∧
    (l.foldl (reportFailed j) s).accounts = s.accounts ∧ (l.foldl (reportFailed j) s).charges = s.charges ∧
    (l.foldl (reportFailed j) s).freeCount = s.freeCount := by
  refine ⟨?_, ?_, ?_, ?_, ?_, ?_, ?_, ?_, ?_, ?_, ?_, ?_, ?_, ?_, ?_, ?_, ?_⟩ <;> exact foldl_keep _ _ (by simp) _ _

@[simp] theorem createSend_frame (j : Fin 32) (d : Fin 64) (b : SendJob) (s : State) :
    (createSend j d b s).pending = s.pending ∧ (createSend j d b s).cfg = s.cfg ∧ (createSend j d b s).lines = s.lines ∧
    (createSend j d b s).profiles = s.profiles ∧ (createSend j d b s).procs = s.procs ∧
    (createSend j d b s).slots = s.slots ∧ (createSend j d b s).ticks = s.ticks ∧ (createSend j d b s).printer = s.printer ∧
    (createSend j d b s).clock = s.clock ∧ (createSend j d b s).meters = s.meters ∧
    (createSend j d b s).accounts = s.accounts ∧ (createSend j d b s).charges = s.charges := by
  unfold createSend
  (repeat' split) <;> simp

@[simp] theorem closeAgain_frame (l : LineNo) (r : ReleaseRequest) (s : State) :
    (closeAgain l r s).pending = s.pending ∧ (closeAgain l r s).cfg = s.cfg ∧ (closeAgain l r s).store = s.store ∧
    (closeAgain l r s).scan = s.scan ∧ (closeAgain l r s).jobs = s.jobs ∧ (closeAgain l r s).routes = s.routes ∧
    (closeAgain l r s).lines = s.lines ∧ (closeAgain l r s).profiles = s.profiles ∧ (closeAgain l r s).ticks = s.ticks ∧
    (closeAgain l r s).printer = s.printer ∧ (closeAgain l r s).clock = s.clock ∧ (closeAgain l r s).meters = s.meters ∧
    (closeAgain l r s).accounts = s.accounts ∧ (closeAgain l r s).charges = s.charges ∧ (closeAgain l r s).link = s.link ∧
    (closeAgain l r s).freeCount = s.freeCount := by
  unfold closeAgain
  (repeat' split) <;> simp

@[simp] theorem cancelCall_frame (l : LineNo) (s : State) :
    (cancelCall l s).pending = s.pending ∧ (cancelCall l s).cfg = s.cfg ∧ (cancelCall l s).profiles = s.profiles ∧
    (cancelCall l s).ticks = s.ticks ∧ (cancelCall l s).clock = s.clock ∧ (cancelCall l s).freeCount = s.freeCount := by
  unfold cancelCall
  (repeat' split) <;> simp

@[simp] theorem cancelOne_frame (j : Fin 32) (s : State) (k : Nat) :
    (cancelOne j s k).pending = s.pending ∧ (cancelOne j s k).cfg = s.cfg ∧ (cancelOne j s k).profiles = s.profiles ∧
    (cancelOne j s k).ticks = s.ticks ∧ (cancelOne j s k).clock = s.clock ∧ (cancelOne j s k).freeCount = s.freeCount := by
  unfold cancelOne
  (repeat' split) <;> simp

@[simp] theorem foldl_cancelOne_frame (j : Fin 32) (l : List Nat) (s : State) :
    (l.foldl (cancelOne j) s).pending = s.pending ∧ (l.foldl (cancelOne j) s).cfg = s.cfg ∧
    (l.foldl (cancelOne j) s).profiles = s.profiles ∧ (l.foldl (cancelOne j) s).ticks = s.ticks ∧
    (l.foldl (cancelOne j) s).clock = s.clock ∧ (l.foldl (cancelOne j) s).freeCount = s.freeCount := by
  refine ⟨?_, ?_, ?_, ?_, ?_, ?_⟩ <;> exact foldl_keep _ _ (by simp) _ _

@[simp] theorem destinationEligible_frame (j : Fin 32) (d : Nat) (s : State) :
    (destinationEligible j d s).pending = s.pending ∧ (destinationEligible j d s).cfg = s.cfg ∧
    (destinationEligible j d s).store = s.store ∧ (destinationEligible j d s).scan = s.scan ∧
    (destinationEligible j d s).lines = s.lines ∧ (destinationEligible j d s).profiles = s.profiles ∧
    (destinationEligible j d s).procs = s.procs ∧ (destinationEligible j d s).slots = s.slots ∧
    (destinationEligible j d s).ticks = s.ticks ∧ (destinationEligible j d s).printer = s.printer ∧
    (destinationEligible j d s).clock = s.clock ∧ (destinationEligible j d s).meters = s.meters ∧
    (destinationEligible j d s).accounts = s.accounts ∧ (destinationEligible j d s).charges = s.charges ∧
    (destinationEligible j d s).link = s.link ∧ (destinationEligible j d s).freeCount = s.freeCount := by
  unfold destinationEligible
  (repeat' split) <;> simp

/-! ### LineCommands -/

@[simp] theorem phaseEnd_frame (l : LineNo) (s : State) :
    (phaseEnd l s).pending = s.pending ∧ (phaseEnd l s).cfg = s.cfg ∧ (phaseEnd l s).store = s.store ∧
    (phaseEnd l s).scan = s.scan ∧ (phaseEnd l s).jobs = s.jobs ∧ (phaseEnd l s).routes = s.routes ∧
    (phaseEnd l s).profiles = s.profiles ∧ (phaseEnd l s).ticks = s.ticks ∧ (phaseEnd l s).printer = s.printer ∧
    (phaseEnd l s).clock = s.clock ∧ (phaseEnd l s).meters = s.meters ∧ (phaseEnd l s).accounts = s.accounts ∧
    (phaseEnd l s).charges = s.charges ∧ (phaseEnd l s).link = s.link ∧ (phaseEnd l s).freeCount = s.freeCount := by
  unfold phaseEnd
  dsimp only
  (repeat' split) <;> simp

@[simp] theorem lineLost_frame (l : LineNo) (s : State) :
    (lineLost l s).pending = s.pending ∧ (lineLost l s).cfg = s.cfg ∧ (lineLost l s).profiles = s.profiles ∧
    (lineLost l s).ticks = s.ticks ∧ (lineLost l s).clock = s.clock ∧ (lineLost l s).freeCount = s.freeCount := by
  unfold lineLost
  (repeat' split) <;> simp

@[simp] theorem busyHeard_frame (l : LineNo) (s : State) :
    (busyHeard l s).pending = s.pending ∧ (busyHeard l s).cfg = s.cfg ∧ (busyHeard l s).profiles = s.profiles ∧
    (busyHeard l s).ticks = s.ticks ∧ (busyHeard l s).clock = s.clock ∧ (busyHeard l s).freeCount = s.freeCount := by
  unfold busyHeard
  (repeat' split) <;> simp

@[simp] theorem loopCurrent_frame (l : LineNo) (present : Bool) (s : State) :
    (loopCurrent l present s).pending = s.pending ∧ (loopCurrent l present s).cfg = s.cfg ∧
    (loopCurrent l present s).store = s.store ∧ (loopCurrent l present s).scan = s.scan ∧
    (loopCurrent l present s).jobs = s.jobs ∧ (loopCurrent l present s).routes = s.routes ∧
    (loopCurrent l present s).profiles = s.profiles ∧ (loopCurrent l present s).procs = s.procs ∧
    (loopCurrent l present s).ticks = s.ticks ∧ (loopCurrent l present s).printer = s.printer ∧
    (loopCurrent l present s).clock = s.clock ∧ (loopCurrent l present s).meters = s.meters ∧
    (loopCurrent l present s).accounts = s.accounts ∧ (loopCurrent l present s).charges = s.charges ∧
    (loopCurrent l present s).link = s.link ∧ (loopCurrent l present s).freeCount = s.freeCount := by
  unfold loopCurrent
  dsimp only
  (repeat' split) <;> simp

@[simp] theorem guardEnd_frame (l : LineNo) (s : State) :
    (guardEnd l s).pending = s.pending ∧ (guardEnd l s).cfg = s.cfg ∧ (guardEnd l s).store = s.store ∧
    (guardEnd l s).scan = s.scan ∧ (guardEnd l s).jobs = s.jobs ∧ (guardEnd l s).profiles = s.profiles ∧
    (guardEnd l s).procs = s.procs ∧ (guardEnd l s).slots = s.slots ∧ (guardEnd l s).ticks = s.ticks ∧
    (guardEnd l s).printer = s.printer ∧ (guardEnd l s).clock = s.clock ∧ (guardEnd l s).meters = s.meters ∧
    (guardEnd l s).accounts = s.accounts ∧ (guardEnd l s).charges = s.charges ∧ (guardEnd l s).link = s.link ∧
    (guardEnd l s).freeCount = s.freeCount := by
  unfold guardEnd
  (repeat' split) <;> simp

@[simp] theorem ringFrame_frame (l : LineNo) (s : State) :
    (ringFrame l s).pending = s.pending ∧ (ringFrame l s).cfg = s.cfg ∧ (ringFrame l s).store = s.store ∧
    (ringFrame l s).scan = s.scan ∧ (ringFrame l s).jobs = s.jobs ∧ (ringFrame l s).routes = s.routes ∧
    (ringFrame l s).profiles = s.profiles ∧ (ringFrame l s).procs = s.procs ∧ (ringFrame l s).ticks = s.ticks ∧
    (ringFrame l s).printer = s.printer ∧ (ringFrame l s).clock = s.clock ∧ (ringFrame l s).meters = s.meters ∧
    (ringFrame l s).accounts = s.accounts ∧ (ringFrame l s).charges = s.charges ∧ (ringFrame l s).link = s.link ∧
    (ringFrame l s).freeCount = s.freeCount := by
  unfold ringFrame
  (repeat' split) <;> simp

@[simp] theorem ringEnd_frame (l : LineNo) (frames : Nat) (s : State) :
    (ringEnd l frames s).pending = s.pending ∧ (ringEnd l frames s).cfg = s.cfg ∧ (ringEnd l frames s).routes = s.routes ∧
    (ringEnd l frames s).profiles = s.profiles ∧ (ringEnd l frames s).ticks = s.ticks ∧
    (ringEnd l frames s).clock = s.clock ∧ (ringEnd l frames s).meters = s.meters ∧
    (ringEnd l frames s).accounts = s.accounts ∧ (ringEnd l frames s).charges = s.charges ∧
    (ringEnd l frames s).freeCount = s.freeCount := by
  unfold ringEnd
  dsimp only
  (repeat' split) <;> simp

@[simp] theorem episodeEnd_frame (l : LineNo) (s : State) :
    (episodeEnd l s).pending = s.pending ∧ (episodeEnd l s).cfg = s.cfg ∧ (episodeEnd l s).store = s.store ∧
    (episodeEnd l s).scan = s.scan ∧ (episodeEnd l s).jobs = s.jobs ∧ (episodeEnd l s).profiles = s.profiles ∧
    (episodeEnd l s).procs = s.procs ∧ (episodeEnd l s).slots = s.slots ∧ (episodeEnd l s).ticks = s.ticks ∧
    (episodeEnd l s).printer = s.printer ∧ (episodeEnd l s).clock = s.clock ∧ (episodeEnd l s).meters = s.meters ∧
    (episodeEnd l s).accounts = s.accounts ∧ (episodeEnd l s).charges = s.charges ∧ (episodeEnd l s).link = s.link ∧
    (episodeEnd l s).freeCount = s.freeCount := by
  unfold episodeEnd
  (repeat' split) <;> simp

@[simp] theorem blankingEnd_frame (l : LineNo) (s : State) :
    (blankingEnd l s).pending = s.pending ∧ (blankingEnd l s).cfg = s.cfg ∧ (blankingEnd l s).store = s.store ∧
    (blankingEnd l s).scan = s.scan ∧ (blankingEnd l s).jobs = s.jobs ∧ (blankingEnd l s).routes = s.routes ∧
    (blankingEnd l s).profiles = s.profiles ∧ (blankingEnd l s).ticks = s.ticks ∧ (blankingEnd l s).printer = s.printer ∧
    (blankingEnd l s).clock = s.clock ∧ (blankingEnd l s).meters = s.meters ∧ (blankingEnd l s).accounts = s.accounts ∧
    (blankingEnd l s).charges = s.charges ∧ (blankingEnd l s).link = s.link ∧ (blankingEnd l s).freeCount = s.freeCount := by
  unfold blankingEnd
  dsimp only
  (repeat' split) <;> simp

/-! ### LinkOps -/

@[simp] theorem putConfig_frame (c : Configuration) (s : State) :
    (putConfig c s).pending = s.pending ∧ (putConfig c s).store = s.store ∧ (putConfig c s).jobs = s.jobs ∧
    (putConfig c s).routes = s.routes ∧ (putConfig c s).lines = s.lines ∧ (putConfig c s).profiles = s.profiles ∧
    (putConfig c s).procs = s.procs ∧ (putConfig c s).slots = s.slots ∧ (putConfig c s).printer = s.printer ∧
    (putConfig c s).meters = s.meters ∧ (putConfig c s).accounts = s.accounts ∧ (putConfig c s).charges = s.charges ∧
    (putConfig c s).freeCount = s.freeCount := by
  unfold putConfig
  dsimp only
  (repeat' split) <;> simp

@[simp] theorem restartLine_frame (s : State) (l : LineNo) :
    (restartLine s l).pending = s.pending ∧ (restartLine s l).cfg = s.cfg ∧ (restartLine s l).profiles = s.profiles ∧
    (restartLine s l).ticks = s.ticks ∧ (restartLine s l).printer = s.printer ∧ (restartLine s l).clock = s.clock ∧
    (restartLine s l).freeCount = s.freeCount := by
  unfold restartLine
  dsimp only
  (repeat' split) <;> simp

@[simp] theorem foldl_restartLine_frame (l : List LineNo) (s : State) :
    (l.foldl restartLine s).pending = s.pending ∧ (l.foldl restartLine s).cfg = s.cfg ∧
    (l.foldl restartLine s).profiles = s.profiles ∧ (l.foldl restartLine s).ticks = s.ticks ∧
    (l.foldl restartLine s).printer = s.printer ∧ (l.foldl restartLine s).clock = s.clock ∧
    (l.foldl restartLine s).freeCount = s.freeCount := by
  refine ⟨?_, ?_, ?_, ?_, ?_, ?_, ?_⟩ <;> exact foldl_keep _ _ (by simp) _ _

@[simp] theorem restartBlocks_frame (s : State) :
    (restartBlocks s).pending = s.pending ∧ (restartBlocks s).cfg = s.cfg ∧ (restartBlocks s).profiles = s.profiles ∧
    (restartBlocks s).ticks = s.ticks ∧ (restartBlocks s).clock = s.clock ∧ (restartBlocks s).freeCount = s.freeCount := by
  unfold restartBlocks
  (repeat' split) <;> simp

@[simp] theorem restartReports_frame (s : State) :
    (restartReports s).pending = s.pending ∧ (restartReports s).cfg = s.cfg ∧ (restartReports s).store = s.store ∧
    (restartReports s).scan = s.scan ∧ (restartReports s).jobs = s.jobs ∧ (restartReports s).routes = s.routes ∧
    (restartReports s).lines = s.lines ∧ (restartReports s).profiles = s.profiles ∧ (restartReports s).procs = s.procs ∧
    (restartReports s).slots = s.slots ∧ (restartReports s).ticks = s.ticks ∧ (restartReports s).printer = s.printer ∧
    (restartReports s).clock = s.clock ∧ (restartReports s).meters = s.meters ∧ (restartReports s).accounts = s.accounts ∧
    (restartReports s).charges = s.charges ∧ (restartReports s).freeCount = s.freeCount := by
  unfold restartReports
  dsimp only
  (repeat' split) <;> simp

/-! ### FrameOps -/

@[simp] theorem sheetFrame_frame (c : ChannelNo) (payload : List Byte) (s : State) :
    (sheetFrame c payload s).pending = s.pending ∧ (sheetFrame c payload s).cfg = s.cfg ∧
    (sheetFrame c payload s).profiles = s.profiles ∧ (sheetFrame c payload s).ticks = s.ticks ∧
    (sheetFrame c payload s).clock = s.clock ∧ (sheetFrame c payload s).freeCount = s.freeCount := by
  unfold sheetFrame
  (repeat' split) <;> simp

@[simp] theorem rasterFrame_frame (c : ChannelNo) (payload : List Byte) (s : State) :
    (rasterFrame c payload s).pending = s.pending ∧ (rasterFrame c payload s).cfg = s.cfg ∧
    (rasterFrame c payload s).store = s.store ∧ (rasterFrame c payload s).jobs = s.jobs ∧
    (rasterFrame c payload s).routes = s.routes ∧ (rasterFrame c payload s).lines = s.lines ∧
    (rasterFrame c payload s).profiles = s.profiles ∧ (rasterFrame c payload s).procs = s.procs ∧
    (rasterFrame c payload s).slots = s.slots ∧ (rasterFrame c payload s).ticks = s.ticks ∧
    (rasterFrame c payload s).printer = s.printer ∧ (rasterFrame c payload s).clock = s.clock ∧
    (rasterFrame c payload s).meters = s.meters ∧ (rasterFrame c payload s).accounts = s.accounts ∧
    (rasterFrame c payload s).charges = s.charges ∧ (rasterFrame c payload s).freeCount = s.freeCount := by
  unfold rasterFrame
  (repeat' split) <;> simp

@[simp] theorem creditFrame_frame (payload : List Byte) (s : State) :
    (creditFrame payload s).pending = s.pending ∧ (creditFrame payload s).cfg = s.cfg ∧
    (creditFrame payload s).routes = s.routes ∧ (creditFrame payload s).lines = s.lines ∧
    (creditFrame payload s).profiles = s.profiles ∧ (creditFrame payload s).procs = s.procs ∧
    (creditFrame payload s).slots = s.slots ∧ (creditFrame payload s).ticks = s.ticks ∧
    (creditFrame payload s).clock = s.clock ∧ (creditFrame payload s).meters = s.meters ∧
    (creditFrame payload s).accounts = s.accounts ∧ (creditFrame payload s).charges = s.charges ∧
    (creditFrame payload s).freeCount = s.freeCount := by
  unfold creditFrame
  (repeat' split) <;> simp

@[simp] theorem statusFrame_frame (payload : List Byte) (s : State) :
    (statusFrame payload s).pending = s.pending ∧ (statusFrame payload s).cfg = s.cfg ∧
    (statusFrame payload s).routes = s.routes ∧ (statusFrame payload s).lines = s.lines ∧
    (statusFrame payload s).profiles = s.profiles ∧ (statusFrame payload s).procs = s.procs ∧
    (statusFrame payload s).slots = s.slots ∧ (statusFrame payload s).ticks = s.ticks ∧
    (statusFrame payload s).clock = s.clock ∧ (statusFrame payload s).meters = s.meters ∧
    (statusFrame payload s).accounts = s.accounts ∧ (statusFrame payload s).charges = s.charges ∧
    (statusFrame payload s).freeCount = s.freeCount := by
  unfold statusFrame
  (repeat' split) <;> simp

@[simp] theorem checkerIdle_frame (s : State) :
    (checkerIdle s).pending = s.pending ∧ (checkerIdle s).cfg = s.cfg ∧ (checkerIdle s).store = s.store ∧
    (checkerIdle s).scan = s.scan ∧ (checkerIdle s).jobs = s.jobs ∧ (checkerIdle s).routes = s.routes ∧
    (checkerIdle s).lines = s.lines ∧ (checkerIdle s).profiles = s.profiles ∧ (checkerIdle s).procs = s.procs ∧
    (checkerIdle s).slots = s.slots ∧ (checkerIdle s).ticks = s.ticks ∧ (checkerIdle s).printer = s.printer ∧
    (checkerIdle s).clock = s.clock ∧ (checkerIdle s).meters = s.meters ∧ (checkerIdle s).accounts = s.accounts ∧
    (checkerIdle s).charges = s.charges ∧ (checkerIdle s).freeCount = s.freeCount := by
  unfold checkerIdle
  (repeat' split) <;> simp

/-! ### ScanCommands -/

@[simp] theorem coderTurn_frame (s : State) :
    (coderTurn s).pending = s.pending ∧ (coderTurn s).cfg = s.cfg ∧ (coderTurn s).profiles = s.profiles ∧
    (coderTurn s).ticks = s.ticks ∧ (coderTurn s).clock = s.clock ∧ (coderTurn s).freeCount = s.freeCount := by
  unfold coderTurn
  (repeat' split) <;> simp

@[simp] theorem scanTimeout_frame (c : ChannelNo) (s : State) :
    (scanTimeout c s).pending = s.pending ∧ (scanTimeout c s).cfg = s.cfg ∧ (scanTimeout c s).store = s.store ∧
    (scanTimeout c s).jobs = s.jobs ∧ (scanTimeout c s).routes = s.routes ∧ (scanTimeout c s).lines = s.lines ∧
    (scanTimeout c s).profiles = s.profiles ∧ (scanTimeout c s).procs = s.procs ∧ (scanTimeout c s).slots = s.slots ∧
    (scanTimeout c s).ticks = s.ticks ∧ (scanTimeout c s).printer = s.printer ∧ (scanTimeout c s).clock = s.clock ∧
    (scanTimeout c s).meters = s.meters ∧ (scanTimeout c s).accounts = s.accounts ∧ (scanTimeout c s).charges = s.charges ∧
    (scanTimeout c s).freeCount = s.freeCount := by
  unfold scanTimeout
  (repeat' split) <;> simp

/-! ### CallCommands -/

@[simp] theorem handData_frame (l : LineNo) (b : Byte) (s : State) :
    (handData l b s).pending = s.pending ∧ (handData l b s).cfg = s.cfg ∧ (handData l b s).store = s.store ∧
    (handData l b s).scan = s.scan ∧ (handData l b s).jobs = s.jobs ∧ (handData l b s).routes = s.routes ∧
    (handData l b s).lines = s.lines ∧ (handData l b s).profiles = s.profiles ∧ (handData l b s).procs = s.procs ∧
    (handData l b s).ticks = s.ticks ∧ (handData l b s).printer = s.printer ∧ (handData l b s).clock = s.clock ∧
    (handData l b s).meters = s.meters ∧ (handData l b s).accounts = s.accounts ∧ (handData l b s).charges = s.charges ∧
    (handData l b s).link = s.link ∧ (handData l b s).freeCount = s.freeCount := by
  unfold handData
  (repeat' split) <;> simp

@[simp] theorem nextDataByte_frame (l : LineNo) (s : State) :
    (nextDataByte l s).pending = s.pending ∧ (nextDataByte l s).cfg = s.cfg ∧ (nextDataByte l s).store = s.store ∧
    (nextDataByte l s).scan = s.scan ∧ (nextDataByte l s).jobs = s.jobs ∧ (nextDataByte l s).routes = s.routes ∧
    (nextDataByte l s).lines = s.lines ∧ (nextDataByte l s).profiles = s.profiles ∧ (nextDataByte l s).ticks = s.ticks ∧
    (nextDataByte l s).printer = s.printer ∧ (nextDataByte l s).clock = s.clock ∧ (nextDataByte l s).meters = s.meters ∧
    (nextDataByte l s).accounts = s.accounts ∧ (nextDataByte l s).charges = s.charges ∧ (nextDataByte l s).link = s.link ∧
    (nextDataByte l s).freeCount = s.freeCount := by
  unfold nextDataByte
  dsimp only
  (repeat' split) <;> simp

@[simp] theorem restoreCommand_frame (l : LineNo) (s : State) :
    (restoreCommand l s).pending = s.pending ∧ (restoreCommand l s).cfg = s.cfg ∧ (restoreCommand l s).store = s.store ∧
    (restoreCommand l s).scan = s.scan ∧ (restoreCommand l s).jobs = s.jobs ∧ (restoreCommand l s).routes = s.routes ∧
    (restoreCommand l s).lines = s.lines ∧ (restoreCommand l s).profiles = s.profiles ∧
    (restoreCommand l s).procs = s.procs ∧ (restoreCommand l s).ticks = s.ticks ∧ (restoreCommand l s).printer = s.printer ∧
    (restoreCommand l s).clock = s.clock ∧ (restoreCommand l s).meters = s.meters ∧
    (restoreCommand l s).accounts = s.accounts ∧ (restoreCommand l s).charges = s.charges ∧
    (restoreCommand l s).link = s.link ∧ (restoreCommand l s).freeCount = s.freeCount := by
  unfold restoreCommand
  (repeat' split) <;> simp

@[simp] theorem nextItem_frame (l : LineNo) (s : State) :
    (nextItem l s).pending = s.pending ∧ (nextItem l s).cfg = s.cfg ∧ (nextItem l s).store = s.store ∧
    (nextItem l s).scan = s.scan ∧ (nextItem l s).jobs = s.jobs ∧ (nextItem l s).routes = s.routes ∧
    (nextItem l s).lines = s.lines ∧ (nextItem l s).profiles = s.profiles ∧ (nextItem l s).procs = s.procs ∧
    (nextItem l s).ticks = s.ticks ∧ (nextItem l s).printer = s.printer ∧ (nextItem l s).clock = s.clock ∧
    (nextItem l s).meters = s.meters ∧ (nextItem l s).accounts = s.accounts ∧ (nextItem l s).charges = s.charges ∧
    (nextItem l s).link = s.link ∧ (nextItem l s).freeCount = s.freeCount := by
  unfold nextItem
  dsimp only
  (repeat' split) <;> simp

@[simp] theorem sendDataByte_frame (l : LineNo) (s : State) :
    (sendDataByte l s).pending = s.pending ∧ (sendDataByte l s).cfg = s.cfg ∧ (sendDataByte l s).store = s.store ∧
    (sendDataByte l s).scan = s.scan ∧ (sendDataByte l s).jobs = s.jobs ∧ (sendDataByte l s).routes = s.routes ∧
    (sendDataByte l s).lines = s.lines ∧ (sendDataByte l s).profiles = s.profiles ∧ (sendDataByte l s).ticks = s.ticks ∧
    (sendDataByte l s).printer = s.printer ∧ (sendDataByte l s).clock = s.clock ∧ (sendDataByte l s).meters = s.meters ∧
    (sendDataByte l s).accounts = s.accounts ∧ (sendDataByte l s).charges = s.charges ∧ (sendDataByte l s).link = s.link ∧
    (sendDataByte l s).freeCount = s.freeCount := by
  unfold sendDataByte
  (repeat' split) <;> simp

@[simp] theorem sendMessageByte_frame (l : LineNo) (s : State) :
    (sendMessageByte l s).pending = s.pending ∧ (sendMessageByte l s).cfg = s.cfg ∧ (sendMessageByte l s).store = s.store ∧
    (sendMessageByte l s).scan = s.scan ∧ (sendMessageByte l s).jobs = s.jobs ∧ (sendMessageByte l s).routes = s.routes ∧
    (sendMessageByte l s).lines = s.lines ∧ (sendMessageByte l s).profiles = s.profiles ∧
    (sendMessageByte l s).procs = s.procs ∧ (sendMessageByte l s).ticks = s.ticks ∧
    (sendMessageByte l s).printer = s.printer ∧ (sendMessageByte l s).clock = s.clock ∧
    (sendMessageByte l s).meters = s.meters ∧ (sendMessageByte l s).accounts = s.accounts ∧
    (sendMessageByte l s).charges = s.charges ∧ (sendMessageByte l s).link = s.link ∧
    (sendMessageByte l s).freeCount = s.freeCount := by
  unfold sendMessageByte
  (repeat' split) <;> simp

@[simp] theorem closeHanded_frame (l : LineNo) (s : State) :
    (closeHanded l s).pending = s.pending ∧ (closeHanded l s).cfg = s.cfg ∧ (closeHanded l s).profiles = s.profiles ∧
    (closeHanded l s).procs = s.procs ∧ (closeHanded l s).ticks = s.ticks ∧ (closeHanded l s).clock = s.clock ∧
    (closeHanded l s).freeCount = s.freeCount := by
  unfold closeHanded
  (repeat' split) <;> simp

@[simp] theorem lineTimeout_frame (c : TimeoutClass) (l : LineNo) (s : State) :
    (lineTimeout c l s).pending = s.pending ∧ (lineTimeout c l s).cfg = s.cfg ∧ (lineTimeout c l s).profiles = s.profiles ∧
    (lineTimeout c l s).ticks = s.ticks ∧ (lineTimeout c l s).clock = s.clock ∧
    (lineTimeout c l s).freeCount = s.freeCount := by
  unfold lineTimeout
  (repeat' split) <;> simp

@[simp] theorem tickLine_frame (c : TimeoutClass) (s : State) (l : LineNo) :
    (tickLine c s l).pending = s.pending ∧ (tickLine c s l).cfg = s.cfg ∧ (tickLine c s l).profiles = s.profiles ∧
    (tickLine c s l).ticks = s.ticks ∧ (tickLine c s l).clock = s.clock ∧ (tickLine c s l).freeCount = s.freeCount := by
  unfold tickLine
  dsimp only
  (repeat' split) <;> simp

@[simp] theorem foldl_tickLine_frame (c : TimeoutClass) (l : List LineNo) (s : State) :
    (l.foldl (tickLine c) s).pending = s.pending ∧ (l.foldl (tickLine c) s).cfg = s.cfg ∧
    (l.foldl (tickLine c) s).profiles = s.profiles ∧ (l.foldl (tickLine c) s).ticks = s.ticks ∧
    (l.foldl (tickLine c) s).clock = s.clock ∧ (l.foldl (tickLine c) s).freeCount = s.freeCount := by
  refine ⟨?_, ?_, ?_, ?_, ?_, ?_⟩ <;> exact foldl_keep _ _ (by simp) _ _

@[simp] theorem tickChannel_frame (s : State) (c : ChannelNo) :
    (tickChannel s c).pending = s.pending ∧ (tickChannel s c).cfg = s.cfg ∧ (tickChannel s c).store = s.store ∧
    (tickChannel s c).jobs = s.jobs ∧ (tickChannel s c).routes = s.routes ∧ (tickChannel s c).lines = s.lines ∧
    (tickChannel s c).profiles = s.profiles ∧ (tickChannel s c).procs = s.procs ∧ (tickChannel s c).slots = s.slots ∧
    (tickChannel s c).ticks = s.ticks ∧ (tickChannel s c).printer = s.printer ∧ (tickChannel s c).clock = s.clock ∧
    (tickChannel s c).meters = s.meters ∧ (tickChannel s c).accounts = s.accounts ∧ (tickChannel s c).charges = s.charges ∧
    (tickChannel s c).freeCount = s.freeCount := by
  unfold tickChannel
  dsimp only
  (repeat' split) <;> simp

@[simp] theorem foldl_tickChannel_frame (l : List ChannelNo) (s : State) :
    (l.foldl tickChannel s).pending = s.pending ∧ (l.foldl tickChannel s).cfg = s.cfg ∧
    (l.foldl tickChannel s).store = s.store ∧ (l.foldl tickChannel s).jobs = s.jobs ∧
    (l.foldl tickChannel s).routes = s.routes ∧ (l.foldl tickChannel s).lines = s.lines ∧
    (l.foldl tickChannel s).profiles = s.profiles ∧ (l.foldl tickChannel s).procs = s.procs ∧
    (l.foldl tickChannel s).slots = s.slots ∧ (l.foldl tickChannel s).ticks = s.ticks ∧
    (l.foldl tickChannel s).printer = s.printer ∧ (l.foldl tickChannel s).clock = s.clock ∧
    (l.foldl tickChannel s).meters = s.meters ∧ (l.foldl tickChannel s).accounts = s.accounts ∧
    (l.foldl tickChannel s).charges = s.charges ∧ (l.foldl tickChannel s).freeCount = s.freeCount := by
  refine ⟨?_, ?_, ?_, ?_, ?_, ?_, ?_, ?_, ?_, ?_, ?_, ?_, ?_, ?_, ?_, ?_⟩ <;> exact foldl_keep _ _ (by simp) _ _

@[simp] theorem tickPrinter_frame (s : State) :
    (tickPrinter s).pending = s.pending ∧ (tickPrinter s).cfg = s.cfg ∧ (tickPrinter s).store = s.store ∧
    (tickPrinter s).scan = s.scan ∧ (tickPrinter s).jobs = s.jobs ∧ (tickPrinter s).routes = s.routes ∧
    (tickPrinter s).lines = s.lines ∧ (tickPrinter s).profiles = s.profiles ∧ (tickPrinter s).procs = s.procs ∧
    (tickPrinter s).slots = s.slots ∧ (tickPrinter s).ticks = s.ticks ∧ (tickPrinter s).clock = s.clock ∧
    (tickPrinter s).meters = s.meters ∧ (tickPrinter s).accounts = s.accounts ∧ (tickPrinter s).charges = s.charges ∧
    (tickPrinter s).freeCount = s.freeCount := by
  unfold tickPrinter
  dsimp only
  (repeat' split) <;> simp

@[simp] theorem classTick_frame (c : TimeoutClass) (s : State) :
    (classTick c s).pending = s.pending ∧ (classTick c s).cfg = s.cfg ∧ (classTick c s).profiles = s.profiles ∧
    (classTick c s).clock = s.clock ∧ (classTick c s).freeCount = s.freeCount := by
  unfold classTick
  (repeat' split) <;> simp

/-! ### PrintCommands -/

@[simp] theorem printTimeout_frame (s : State) :
    (printTimeout s).pending = s.pending ∧ (printTimeout s).cfg = s.cfg ∧ (printTimeout s).store = s.store ∧
    (printTimeout s).scan = s.scan ∧ (printTimeout s).jobs = s.jobs ∧ (printTimeout s).routes = s.routes ∧
    (printTimeout s).lines = s.lines ∧ (printTimeout s).profiles = s.profiles ∧ (printTimeout s).procs = s.procs ∧
    (printTimeout s).slots = s.slots ∧ (printTimeout s).ticks = s.ticks ∧ (printTimeout s).clock = s.clock ∧
    (printTimeout s).meters = s.meters ∧ (printTimeout s).accounts = s.accounts ∧ (printTimeout s).charges = s.charges ∧
    (printTimeout s).freeCount = s.freeCount := by
  unfold printTimeout
  (repeat' split) <;> simp

/-! ### LinkCommands -/

@[simp] theorem transmit_frame (dst : Nat) (kind : FrameKind) (payload : List Byte) (s : State) :
    (transmit dst kind payload s).pending = s.pending ∧ (transmit dst kind payload s).cfg = s.cfg ∧
    (transmit dst kind payload s).store = s.store ∧ (transmit dst kind payload s).scan = s.scan ∧
    (transmit dst kind payload s).jobs = s.jobs ∧ (transmit dst kind payload s).routes = s.routes ∧
    (transmit dst kind payload s).lines = s.lines ∧ (transmit dst kind payload s).profiles = s.profiles ∧
    (transmit dst kind payload s).procs = s.procs ∧ (transmit dst kind payload s).slots = s.slots ∧
    (transmit dst kind payload s).ticks = s.ticks ∧ (transmit dst kind payload s).printer = s.printer ∧
    (transmit dst kind payload s).clock = s.clock ∧ (transmit dst kind payload s).meters = s.meters ∧
    (transmit dst kind payload s).accounts = s.accounts ∧ (transmit dst kind payload s).charges = s.charges ∧
    (transmit dst kind payload s).freeCount = s.freeCount := by
  unfold transmit
  (repeat' split) <;> simp

@[simp] theorem offerWaiting_frame (s : State) :
    (offerWaiting s).pending = s.pending ∧ (offerWaiting s).cfg = s.cfg ∧ (offerWaiting s).routes = s.routes ∧
    (offerWaiting s).lines = s.lines ∧ (offerWaiting s).profiles = s.profiles ∧ (offerWaiting s).procs = s.procs ∧
    (offerWaiting s).slots = s.slots ∧ (offerWaiting s).ticks = s.ticks ∧ (offerWaiting s).clock = s.clock ∧
    (offerWaiting s).meters = s.meters ∧ (offerWaiting s).accounts = s.accounts ∧ (offerWaiting s).charges = s.charges ∧
    (offerWaiting s).freeCount = s.freeCount := by
  unfold offerWaiting
  (repeat' split) <;> simp

@[simp] theorem selectReport_frame (s : State) :
    (selectReport s).pending = s.pending ∧ (selectReport s).cfg = s.cfg ∧ (selectReport s).routes = s.routes ∧
    (selectReport s).lines = s.lines ∧ (selectReport s).profiles = s.profiles ∧ (selectReport s).procs = s.procs ∧
    (selectReport s).slots = s.slots ∧ (selectReport s).ticks = s.ticks ∧ (selectReport s).clock = s.clock ∧
    (selectReport s).meters = s.meters ∧ (selectReport s).accounts = s.accounts ∧ (selectReport s).charges = s.charges ∧
    (selectReport s).freeCount = s.freeCount := by
  unfold selectReport
  (repeat' split) <;> simp

@[simp] theorem selectPrinter_frame (s : State) :
    (selectPrinter s).pending = s.pending ∧ (selectPrinter s).cfg = s.cfg ∧ (selectPrinter s).routes = s.routes ∧
    (selectPrinter s).lines = s.lines ∧ (selectPrinter s).profiles = s.profiles ∧ (selectPrinter s).procs = s.procs ∧
    (selectPrinter s).slots = s.slots ∧ (selectPrinter s).ticks = s.ticks ∧ (selectPrinter s).clock = s.clock ∧
    (selectPrinter s).meters = s.meters ∧ (selectPrinter s).accounts = s.accounts ∧ (selectPrinter s).charges = s.charges ∧
    (selectPrinter s).freeCount = s.freeCount := by
  unfold selectPrinter
  (repeat' split) <;> simp

/-! ### Tick -/

@[simp] theorem sendWord_frame (s : State) (l : LineNo) :
    (sendWord s l).pending = s.pending ∧ (sendWord s l).cfg = s.cfg ∧ (sendWord s l).store = s.store ∧
    (sendWord s l).scan = s.scan ∧ (sendWord s l).jobs = s.jobs ∧ (sendWord s l).routes = s.routes ∧
    (sendWord s l).lines = s.lines ∧ (sendWord s l).profiles = s.profiles ∧ (sendWord s l).procs = s.procs ∧
    (sendWord s l).ticks = s.ticks ∧ (sendWord s l).printer = s.printer ∧ (sendWord s l).clock = s.clock ∧
    (sendWord s l).meters = s.meters ∧ (sendWord s l).accounts = s.accounts ∧ (sendWord s l).charges = s.charges ∧
    (sendWord s l).link = s.link ∧ (sendWord s l).freeCount = s.freeCount := by
  unfold sendWord
  (repeat' split) <;> simp

@[simp] theorem foldl_sendWord_frame (l : List LineNo) (s : State) :
    (l.foldl sendWord s).pending = s.pending ∧ (l.foldl sendWord s).cfg = s.cfg ∧ (l.foldl sendWord s).store = s.store ∧
    (l.foldl sendWord s).scan = s.scan ∧ (l.foldl sendWord s).jobs = s.jobs ∧ (l.foldl sendWord s).routes = s.routes ∧
    (l.foldl sendWord s).lines = s.lines ∧ (l.foldl sendWord s).profiles = s.profiles ∧
    (l.foldl sendWord s).procs = s.procs ∧ (l.foldl sendWord s).ticks = s.ticks ∧ (l.foldl sendWord s).printer = s.printer ∧
    (l.foldl sendWord s).clock = s.clock ∧ (l.foldl sendWord s).meters = s.meters ∧
    (l.foldl sendWord s).accounts = s.accounts ∧ (l.foldl sendWord s).charges = s.charges ∧
    (l.foldl sendWord s).link = s.link ∧ (l.foldl sendWord s).freeCount = s.freeCount := by
  refine ⟨?_, ?_, ?_, ?_, ?_, ?_, ?_, ?_, ?_, ?_, ?_, ?_, ?_, ?_, ?_, ?_, ?_⟩ <;> exact foldl_keep _ _ (by simp) _ _

@[simp] theorem lineFrame_frame (s : State) (l : LineNo) :
    (lineFrame s l).pending = s.pending ∧ (lineFrame s l).cfg = s.cfg ∧ (lineFrame s l).store = s.store ∧
    (lineFrame s l).scan = s.scan ∧ (lineFrame s l).jobs = s.jobs ∧ (lineFrame s l).routes = s.routes ∧
    (lineFrame s l).profiles = s.profiles ∧ (lineFrame s l).procs = s.procs ∧ (lineFrame s l).slots = s.slots ∧
    (lineFrame s l).ticks = s.ticks ∧ (lineFrame s l).printer = s.printer ∧ (lineFrame s l).clock = s.clock ∧
    (lineFrame s l).meters = s.meters ∧ (lineFrame s l).accounts = s.accounts ∧ (lineFrame s l).charges = s.charges ∧
    (lineFrame s l).link = s.link ∧ (lineFrame s l).freeCount = s.freeCount := by
  unfold lineFrame
  (repeat' split) <;> simp

@[simp] theorem foldl_lineFrame_frame (l : List LineNo) (s : State) :
    (l.foldl lineFrame s).pending = s.pending ∧ (l.foldl lineFrame s).cfg = s.cfg ∧ (l.foldl lineFrame s).store = s.store ∧
    (l.foldl lineFrame s).scan = s.scan ∧ (l.foldl lineFrame s).jobs = s.jobs ∧ (l.foldl lineFrame s).routes = s.routes ∧
    (l.foldl lineFrame s).profiles = s.profiles ∧ (l.foldl lineFrame s).procs = s.procs ∧
    (l.foldl lineFrame s).slots = s.slots ∧ (l.foldl lineFrame s).ticks = s.ticks ∧
    (l.foldl lineFrame s).printer = s.printer ∧ (l.foldl lineFrame s).clock = s.clock ∧
    (l.foldl lineFrame s).meters = s.meters ∧ (l.foldl lineFrame s).accounts = s.accounts ∧
    (l.foldl lineFrame s).charges = s.charges ∧ (l.foldl lineFrame s).link = s.link ∧
    (l.foldl lineFrame s).freeCount = s.freeCount := by
  refine ⟨?_, ?_, ?_, ?_, ?_, ?_, ?_, ?_, ?_, ?_, ?_, ?_, ?_, ?_, ?_, ?_, ?_⟩ <;> exact foldl_keep _ _ (by simp) _ _

@[simp] theorem classFrame_frame (s : State) (c : TimeoutClass) :
    (classFrame s c).pending = s.pending ∧ (classFrame s c).cfg = s.cfg ∧ (classFrame s c).store = s.store ∧
    (classFrame s c).scan = s.scan ∧ (classFrame s c).jobs = s.jobs ∧ (classFrame s c).routes = s.routes ∧
    (classFrame s c).lines = s.lines ∧ (classFrame s c).profiles = s.profiles ∧ (classFrame s c).procs = s.procs ∧
    (classFrame s c).slots = s.slots ∧ (classFrame s c).printer = s.printer ∧ (classFrame s c).clock = s.clock ∧
    (classFrame s c).meters = s.meters ∧ (classFrame s c).accounts = s.accounts ∧ (classFrame s c).charges = s.charges ∧
    (classFrame s c).link = s.link ∧ (classFrame s c).freeCount = s.freeCount := by
  unfold classFrame
  (repeat' split) <;> simp

@[simp] theorem foldl_classFrame_frame (l : List TimeoutClass) (s : State) :
    (l.foldl classFrame s).pending = s.pending ∧ (l.foldl classFrame s).cfg = s.cfg ∧
    (l.foldl classFrame s).store = s.store ∧ (l.foldl classFrame s).scan = s.scan ∧ (l.foldl classFrame s).jobs = s.jobs ∧
    (l.foldl classFrame s).routes = s.routes ∧ (l.foldl classFrame s).lines = s.lines ∧
    (l.foldl classFrame s).profiles = s.profiles ∧ (l.foldl classFrame s).procs = s.procs ∧
    (l.foldl classFrame s).slots = s.slots ∧ (l.foldl classFrame s).printer = s.printer ∧
    (l.foldl classFrame s).clock = s.clock ∧ (l.foldl classFrame s).meters = s.meters ∧
    (l.foldl classFrame s).accounts = s.accounts ∧ (l.foldl classFrame s).charges = s.charges ∧
    (l.foldl classFrame s).link = s.link ∧ (l.foldl classFrame s).freeCount = s.freeCount := by
  refine ⟨?_, ?_, ?_, ?_, ?_, ?_, ?_, ?_, ?_, ?_, ?_, ?_, ?_, ?_, ?_, ?_, ?_⟩ <;> exact foldl_keep _ _ (by simp) _ _

@[simp] theorem clockFrame_frame (s : State) :
    (clockFrame s).pending = s.pending ∧ (clockFrame s).cfg = s.cfg ∧ (clockFrame s).store = s.store ∧
    (clockFrame s).scan = s.scan ∧ (clockFrame s).jobs = s.jobs ∧ (clockFrame s).routes = s.routes ∧
    (clockFrame s).lines = s.lines ∧ (clockFrame s).profiles = s.profiles ∧ (clockFrame s).procs = s.procs ∧
    (clockFrame s).slots = s.slots ∧ (clockFrame s).ticks = s.ticks ∧ (clockFrame s).printer = s.printer ∧
    (clockFrame s).meters = s.meters ∧ (clockFrame s).accounts = s.accounts ∧ (clockFrame s).charges = s.charges ∧
    (clockFrame s).link = s.link ∧ (clockFrame s).freeCount = s.freeCount := by
  unfold clockFrame
  (repeat' split) <;> simp

/-! ### Step -/

@[simp] theorem State.withFetchWord_frame (s : State) (nbits w : Nat) :
    (State.withFetchWord s nbits w).pending = s.pending ∧ (State.withFetchWord s nbits w).cfg = s.cfg ∧
    (State.withFetchWord s nbits w).store = s.store ∧ (State.withFetchWord s nbits w).scan = s.scan ∧
    (State.withFetchWord s nbits w).jobs = s.jobs ∧ (State.withFetchWord s nbits w).routes = s.routes ∧
    (State.withFetchWord s nbits w).lines = s.lines ∧ (State.withFetchWord s nbits w).profiles = s.profiles ∧
    (State.withFetchWord s nbits w).procs = s.procs ∧ (State.withFetchWord s nbits w).slots = s.slots ∧
    (State.withFetchWord s nbits w).ticks = s.ticks ∧ (State.withFetchWord s nbits w).printer = s.printer ∧
    (State.withFetchWord s nbits w).clock = s.clock ∧ (State.withFetchWord s nbits w).meters = s.meters ∧
    (State.withFetchWord s nbits w).accounts = s.accounts ∧ (State.withFetchWord s nbits w).charges = s.charges ∧
    (State.withFetchWord s nbits w).link = s.link ∧ (State.withFetchWord s nbits w).freeCount = s.freeCount := by
  exact ⟨rfl, rfl, rfl, rfl, rfl, rfl, rfl, rfl, rfl, rfl, rfl, rfl, rfl, rfl, rfl, rfl, rfl, rfl⟩

end Sys2Proof.Machine
end

