-- ==== Sys2Proof/Laws/Readers.lean ====
section
/-! SUPPORT. Each encoding of R212 read back: what a reader makes of the bytes that the writer of the same form gives. -/

namespace Sys2Proof.Machine

/-! ### Readers run in sequence -/

@[simp] theorem Reader.run_pure {α : Type} (a : α) (bs : List Byte) : (pure a : Reader α).run bs = some (a, bs) := rfl

@[simp] theorem Reader.run_bind {α β : Type} (r : Reader α) (f : α → Reader β) (bs : List Byte) :
    (r >>= f).run bs = (r.run bs).bind (fun p => (f p.1).run p.2) := rfl

@[simp] theorem Reader.run_map {α β : Type} (r : Reader α) (f : α → β) (bs : List Byte) :
    (f <$> r : Reader β).run bs = (r.run bs).map (fun p => (f p.1, p.2)) := by
  show (r >>= fun a => pure (f a)).run bs = _
  rw [Reader.run_bind]
  cases r.run bs <;> rfl

@[simp] theorem Reader.run_none {α : Type} (bs : List Byte) : StateT.run (fun _ => none : Reader α) bs = none := rfl

/-- A reader that takes `bs` for `a` and leaves what follows. -/
theorem readAll_of_run {α : Type} {r : Reader α} {bs : List Byte} {a : α} (h : ∀ rest, r.run (bs ++ rest) = some (a, rest)) :
    readAll r bs = some a := by
  have := h []
  rw [List.append_nil] at this
  simp [readAll, this]

@[simp] theorem readByte_cons (b : Byte) (bs : List Byte) : readByte.run (b :: bs) = some (b, bs) := rfl

@[simp] theorem readByte_nil : readByte.run [] = none := rfl

/-! ### Integers and flags -/

@[simp] theorem byteOf_toNat (n : Nat) : (byteOf n).toNat = n % 256 := by simp [byteOf]

@[simp] theorem byteOf_of_toNat (b : Byte) : byteOf b.toNat = b := by simp [byteOf]

@[simp] theorem uint_length (k n : Nat) : (uint k n).length = k := by
  induction k with
  | zero => rfl
  | succ k ih => simp [uint, ih]

/-- The bytes of an integer depend on its low bits only. -/
theorem uint_mod (k n : Nat) : uint k n = uint k (n % 2 ^ (8 * k)) := by
  have key : ∀ j m, j ≤ k → uint j m = uint j (m % 2 ^ (8 * k)) := by
    intro j
    induction j with
    | zero => intro m _; rfl
    | succ j ih =>
      intro m hj
      simp only [uint]
      rw [ih m (by omega)]
      congr 1
      have e : 2 ^ (8 * k) = 2 ^ (8 * j) * 2 ^ (8 * (k - j)) := by rw [← Nat.pow_add]; congr 1; omega
      have e2 : 2 ^ (8 * (k - j)) = 256 * 2 ^ (8 * (k - j - 1)) := by
        rw [show 8 * (k - j) = 8 + 8 * (k - j - 1) by omega, Nat.pow_add]
      simp only [byteOf]
      rw [e, Nat.mod_mul_right_div_self, e2]
      apply BitVec.eq_of_toNat_eq
      simp
  exact key k n (Nat.le_refl k)

theorem readUintFrom_uint (k acc n : Nat) (h : n < 2 ^ (8 * k)) (rest : List Byte) :
    (readUintFrom acc k).run (uint k n ++ rest) = some (acc * 2 ^ (8 * k) + n, rest) := by
  induction k generalizing acc n with
  | zero =>
    have : n = 0 := by simpa using h
    subst this
    simp [readUintFrom, uint]
  | succ k ih =>
    have h8 : 2 ^ (8 * (k + 1)) = 256 * 2 ^ (8 * k) := by rw [Nat.mul_add, Nat.pow_add]; ring
    have hq : n / 2 ^ (8 * k) < 256 := Nat.div_lt_of_lt_mul (by rw [Nat.mul_comm, ← h8]; exact h)
    have hr : n % 2 ^ (8 * k) < 2 ^ (8 * k) := Nat.mod_lt _ (by positivity)
    have hu : uint k n = uint k (n % 2 ^ (8 * k)) := uint_mod k n
    simp only [uint, List.cons_append, readUintFrom, Reader.run_bind, readByte_cons, Option.bind_some, byteOf_toNat]
    rw [hu, ih _ _ hr, Nat.mod_eq_of_lt hq, h8]
    have := Nat.div_add_mod n (2 ^ (8 * k))
    congr 2
    nlinarith

@[simp] theorem readUint_uint (k n : Nat) (h : n < 2 ^ (8 * k)) (rest : List Byte) :
    (readUint k).run (uint k n ++ rest) = some (n, rest) := by
  rw [readUint, readUintFrom_uint k 0 n h]
  simp

theorem uint_one (n : Nat) : uint 1 n = [byteOf n] := by simp [uint]

@[simp] theorem readUint_one (b : Byte) (rest : List Byte) : (readUint 1).run (b :: rest) = some (b.toNat, rest) := by
  simp [readUint, readUintFrom]

@[simp] theorem readUint_one_nil : (readUint 1).run [] = none := rfl

@[simp] theorem readFlag_flag (b : Bool) (rest : List Byte) : readFlag.run (flag b ++ rest) = some (b, rest) := by
  cases b <;> rfl

@[simp] theorem readOptional_none {α : Type} (r : Reader α) (rest : List Byte) :
    (readOptional r).run (0 :: rest) = some (none, rest) := rfl

@[simp] theorem readOptional_some {α : Type} (r : Reader α) (rest : List Byte) :
    (readOptional r).run (1 :: rest) = (r.run rest).map (fun p => (some p.1, p.2)) := by
  show (readFlag >>= fun p => if p = true then some <$> r else pure none).run (1 :: rest) = _
  rw [Reader.run_bind, show readFlag.run (1 :: rest) = some (true, rest) from rfl]
  simp

/-! ### Lists, strings and symbols -/

/-- Items read back in order, where each item's writer is read back by `r`. -/
theorem readTimes_flatMap {α β : Type} {r : Reader β} {w : α → List Byte} {v : α → β} (l : List α)
    (h : ∀ a ∈ l, ∀ rest, r.run (w a ++ rest) = some (v a, rest)) (rest : List Byte) :
    (readTimes r l.length).run (l.flatMap w ++ rest) = some (l.map v, rest) := by
  induction l with
  | nil => rfl
  | cons a l ih =>
    simp only [List.flatMap_cons, List.append_assoc, List.length_cons, readTimes, Reader.run_bind]
    rw [h a (by simp)]
    simp [ih (fun x hx => h x (by simp [hx]))]

theorem readList_listOf {α β : Type} {r : Reader β} {w : α → List Byte} {v : α → β} (l : List α) (hl : l.length < 256)
    (h : ∀ a ∈ l, ∀ rest, r.run (w a ++ rest) = some (v a, rest)) (rest : List Byte) :
    (readList r).run (listOf w l ++ rest) = some (l.map v, rest) := by
  simp only [readList, listOf, List.cons_append, Reader.run_bind, readByte_cons, Option.bind_some, byteOf_toNat,
    Nat.mod_eq_of_lt hl]
  exact readTimes_flatMap l h rest

theorem readText_text (n : Name) (hn : n.length < 256) (rest : List Byte) : readText.run (text n ++ rest) = some (n, rest) := by
  have := readList_listOf (r := readByte) (w := fun c => [c]) (v := id) n hn (fun a _ rest => rfl) rest
  simpa [readText, text] using this

theorem Symbol.nibble_lt (x : Symbol) : x.nibble < 13 := by
  cases x with
  | digit d => have := d.isLt; simp only [Symbol.nibble]; omega
  | star => decide
  | hash => decide
  | pause => decide

@[simp] theorem Symbol.ofNibble_nibble (x : Symbol) : Symbol.ofNibble x.nibble = some x := by
  cases x with
  | digit d => simp [Symbol.nibble, Symbol.ofNibble]
  | star => rfl
  | hash => rfl
  | pause => rfl

@[simp] theorem numberOf_nibbles (n : Number) : numberOf (n.map Symbol.nibble) = some n := by
  induction n with
  | nil => rfl
  | cons x n ih =>
    have : List.mapM Symbol.ofNibble (n.map Symbol.nibble) = some n := ih
    simp [numberOf, this]

theorem nibblesOf_byteOf (a b : Nat) (ha : a < 16) (hb : b < 16) : nibblesOf (byteOf (16 * a + b)) = [a, b] := by
  simp only [nibblesOf, byteOf_toNat]
  congr 1
  · omega
  · congr 1; omega

@[simp] theorem packNibbles_length (l : List Nat) : (packNibbles l).length = (l.length + 1) / 2 := by
  induction l using packNibbles.induct with
  | case1 => rfl
  | case2 a => simp [packNibbles]
  | case3 a b rest ih => simp only [packNibbles, List.length_cons, ih]; omega

theorem take_nibbles (l : List Nat) (h : ∀ x ∈ l, x < 16) : ((packNibbles l).flatMap nibblesOf).take l.length = l := by
  induction l using packNibbles.induct with
  | case1 => rfl
  | case2 a =>
    have ha : a < 16 := h a (by simp)
    simp [packNibbles, nibblesOf_byteOf a 15 ha (by omega)]
  | case3 a b rest ih =>
    have ha : a < 16 := h a (by simp)
    have hb : b < 16 := h b (by simp)
    simp [packNibbles, nibblesOf_byteOf a b ha hb, ih (fun x hx => h x (by simp [hx]))]

theorem readTimes_bytes (bs rest : List Byte) : (readTimes readByte bs.length).run (bs ++ rest) = some (bs, rest) := by
  have := readTimes_flatMap (r := readByte) (w := fun c : Byte => [c]) (v := id) bs (fun a _ rest => rfl) rest
  simpa using this

/-- A symbol string is read as its four-bit values (R212). -/
theorem readNibbles_symbols (n : Number) (hn : n.length < 256) (rest : List Byte) :
    readNibbles.run (symbols n ++ rest) = some (n.map Symbol.nibble, rest) := by
  simp only [readNibbles, symbols, List.cons_append, Reader.run_bind, readByte_cons, Option.bind_some, byteOf_toNat,
    Nat.mod_eq_of_lt hn]
  have hl : (n.length + 1) / 2 = (packNibbles (n.map Symbol.nibble)).length := by simp
  rw [hl, readTimes_bytes]
  have ht := take_nibbles (n.map Symbol.nibble) (by
    intro x hx
    obtain ⟨y, _, rfl⟩ := List.mem_map.mp hx
    exact Nat.lt_trans y.nibble_lt (by decide))
  simpa using ht

/-- A dialled number of 1 to 24 symbols is read back (R66). -/
theorem dialledNumber_nibbles (n : Number) (h1 : 1 ≤ n.length) (h2 : n.length ≤ 24) :
    dialledNumber (n.map Symbol.nibble) = some n := by
  have h3 : ¬(n = [] ∨ 24 < n.length) := by
    rintro (rfl | h)
    · simp at h1
    · omega
  simp [dialledNumber, h3]

/-! ### The form check of an order (R206) -/

theorem checked_some {α : Type} {r : Reader α} {own : α → State → State × Answer} {bs : List Byte} {a : α}
    (h : readAll r bs = some a) (s : State) : checked r own bs s = own a s := by simp [checked, h]

theorem checked_none {α : Type} {r : Reader α} {own : α → State → State × Answer} {bs : List Byte}
    (h : readAll r bs = none) (s : State) : checked r own bs s = (s, .refused .malformed) := by simp [checked, h]

end Sys2Proof.Machine
end

