-- ==== Sys2Proof/Laws/Orders.lean ====
section
/-! SUPPORT. What an order command comes to when it is taken at once (R205), and the states in which neither the Print Channel nor
a caller follows a command's own effect. -/

namespace Sys2Proof.Machine

/-! ### The order parser (R205) -/

theorem State.takesOrder.intake {s : State} {tag : Tag} (h : s.takesOrder tag) (code : Byte) (params : List Byte) :
    orderIntake ⟨tag, code, params⟩ s = { s with link := { s.link with orders := [.order ⟨tag, code, params⟩] } } := by
  obtain ⟨h1, h2, _, h4⟩ := h
  simp only [orderIntake, Link.intake, h1, h2]
  cases hl : s.link.last with
  | none => simp
  | some e =>
    obtain ⟨t, r⟩ := e
    simp [h4 t r hl]

/-! #### The owner of each order code (R206) -/

@[simp] theorem ownerOf_1 : ownerOf 1 = checked (readList readConfigItem) configure := rfl
@[simp] theorem ownerOf_2 : ownerOf 2 = checked readRoute loadRoute := rfl
@[simp] theorem ownerOf_3 : ownerOf 3 = checked (readUint 1) clearRoute := rfl
@[simp] theorem ownerOf_4 : ownerOf 4 = checked readProfile loadDialProfile := rfl
@[simp] theorem ownerOf_5 : ownerOf 5 = checked readGroup loadGroup := rfl
@[simp] theorem ownerOf_6 : ownerOf 6 = checked (readList readTariffEntry) stageTariff := rfl
@[simp] theorem ownerOf_7 : ownerOf 7 = checked readNothing applyTariff := rfl
@[simp] theorem ownerOf_8 : ownerOf 8 = checked readBands loadBands := rfl
@[simp] theorem ownerOf_9 : ownerOf 9 = checked readDays loadDayMap := rfl
@[simp] theorem ownerOf_10 : ownerOf 10 = checked readClock setTime := rfl
@[simp] theorem ownerOf_11 : ownerOf 11 = checked readNothing readTime := rfl
@[simp] theorem ownerOf_12 : ownerOf 12 = checked readAccountParams setAccount := rfl
@[simp] theorem ownerOf_13 : ownerOf 13 = checked readZeroing readAccount := rfl
@[simp] theorem ownerOf_14 : ownerOf 14 = checked (readUint 1) takeRecords := rfl
@[simp] theorem ownerOf_15 : ownerOf 15 = checked readSettings setLineSettings := rfl
@[simp] theorem ownerOf_16 : ownerOf 16 = checked (readUint 1) retireLine := rfl
@[simp] theorem ownerOf_17 : ownerOf 17 = checked (readUint 1) returnLine := rfl
@[simp] theorem ownerOf_18 : ownerOf 18 = checked (readUint 1) readLine := rfl
@[simp] theorem ownerOf_19 : ownerOf 19 = checked (readUint 1) openDocument := rfl
@[simp] theorem ownerOf_20 : ownerOf 20 = checked (readUint 1) closeDocument := rfl
@[simp] theorem ownerOf_21 : ownerOf 21 = checked readPair replacePage := rfl
@[simp] theorem ownerOf_22 : ownerOf 22 = checked (readUint 1) releaseDocument := rfl
@[simp] theorem ownerOf_23 : ownerOf 23 = checked readPair readDocument := rfl
@[simp] theorem ownerOf_24 : ownerOf 24 = checked readSend submitSend := rfl
@[simp] theorem ownerOf_25 : ownerOf 25 = checked readPrint submitPrint := rfl
@[simp] theorem ownerOf_26 : ownerOf 26 = checked (readUint 1) cancelJob := rfl
@[simp] theorem ownerOf_27 : ownerOf 27 = checked readPair readJob := rfl
@[simp] theorem ownerOf_28 : ownerOf 28 = checked readNothing readStore := rfl
@[simp] theorem ownerOf_29 : ownerOf 29 = checked readNothing restartOrder := rfl

/-- The state in which an order's owner is given the order: it is in hand, and the order queue is empty. -/
def State.handed (s : State) (o : Order) : State := { s with link := { s.link with orders := [], inHand := some o } }

/-- An order command taken at once: its owner acts, and its one reply joins the reply queue. -/
theorem takeOrder_taken {s : State} {tag : Tag} (h : s.takesOrder tag) (code : Byte) (params : List Byte) :
    takeOrder code tag params s = answerOrder ⟨tag, code, params⟩ (ownerOf code params (s.handed ⟨tag, code, params⟩)) := by
  have h1 := h.1
  have h3 := h.2.2.1
  simp only [takeOrder, parse, h.intake, State.handed]
  simp [runParser, takeEntry, h1, h3]

/-- With no order waiting the parser has nothing to take. -/
theorem parse_nil {s : State} (h : s.link.orders = []) : parse s = s := by simp [parse, runParser, h]

/-- While no reply place is free the parser takes nothing. -/
theorem parse_full {s : State} (h : 4 ≤ s.link.replies.length) : parse s = s := by
  have h' : ¬ s.link.replies.length < 4 := Nat.not_lt.mpr h
  unfold parse
  cases s.link.orders.length with
  | zero => rfl
  | succ n =>
    unfold runParser
    split
    · rw [if_neg h']
    · rfl

/-- What every owner and the answer keep, the parser keeps. -/
theorem runParser_keep {α : Type} (g : State → α) (he : ∀ e s, g (takeEntry e s) = g s)
    (ho : ∀ (s : State) es, g { s with link := { s.link with orders := es } } = g s) (fuel : Nat) (s : State) :
    g (runParser fuel s) = g s := by
  induction fuel generalizing s with
  | zero => rfl
  | succ n ih =>
    unfold runParser
    split
    · split
      · rw [ih, he, ho]
      · rfl
    · rfl

/-- What an owner leaves unchanged in the link while it acts on the order in hand is answered as by State.replied. -/
theorem answerOrder_handed {s : State} {tag : Tag} (h : s.takesOrder tag) (code : Byte) (params : List Byte) (a : Answer) :
    answerOrder ⟨tag, code, params⟩ (s.handed ⟨tag, code, params⟩, a) = s.replied tag code a := by
  have h1 := h.1
  have h2 := h.2.1
  clear h
  cases s
  rename_i link _
  cases link
  simp_all [answerOrder, State.handed, State.replied, Link.withReply]

/-- An order whose owner refuses it, or only reads, changes nothing but the link (R206). -/
theorem takeOrder_reads {s : State} {tag : Tag} (h : s.takesOrder tag) (code : Byte) (params : List Byte) (a : Answer)
    (ho : ownerOf code params (s.handed ⟨tag, code, params⟩) = (s.handed ⟨tag, code, params⟩, a)) :
    takeOrder code tag params s = s.replied tag code a := by
  rw [takeOrder_taken h, ho, answerOrder_handed h]

/-- An order whose form does not fit is refused MALFORMED (R206). -/
theorem takeOrder_malformed {α : Type} {s : State} {tag : Tag} (h : s.takesOrder tag) (code : Byte) (r : Reader α)
    (own : α → State → State × Answer) (params : List Byte) (hc : ownerOf code = checked r own) (hr : readAll r params = none) :
    takeOrder code tag params s = s.replied tag code (.refused .malformed) :=
  takeOrder_reads h code params _ (by rw [hc]; exact checked_none hr _)

/-- A code above 29 has no owner (R206). -/
theorem ownerOf_ge {code : Byte} (h : 30 ≤ code.toNat) : ownerOf code = fun _ => refuse .malformed := by
  unfold ownerOf
  generalize code.toNat = n at h
  match n, h with
  | n + 30, _ => rfl

/-- What holds of the owner of every code up to 29 holds of every owner. -/
theorem ownerOf_forall {P : Owner → Prop} (h : ∀ k < 30, P (ownerOf (BitVec.ofNat 8 k))) (code : Byte) :
    P (ownerOf code) := by
  by_cases hc : code.toNat < 30
  · simpa using h code.toNat hc
  · rw [ownerOf_ge (Nat.not_lt.mp hc)]
    exact h 0 (by decide)

/-- A code without an owner is refused MALFORMED (R206). -/
theorem ownerOf_badCode {code : Byte} (h : badCode code = true) : ownerOf code = fun _ => refuse .malformed := by
  simp only [badCode, Bool.or_eq_true, decide_eq_true_eq] at h
  rcases h with rfl | h
  · rfl
  · exact ownerOf_ge h

/-! ### No print job (R162) -/

theorem printQueue_empty {s : State} (h : ∀ j, s.printJob j = none) : printQueue s = [] := by
  have hp : ∀ pr j, printsAt s pr j = false := by
    intro pr j
    have := h j
    unfold State.printJob at this
    unfold printsAt
    split
    · rename_i heq
      rw [heq] at this
      cases this
    · rfl
  have hf : ∀ pr, printsAt s pr = fun _ => false := fun pr => funext (hp pr)
  simp [printQueue, hf]

/-- With no print job ACTIVE and the Print Channel IDLE there is nothing to look at. -/
theorem printerLook_noPrinting {s : State} (h : s.noPrinting) : printerLook s = s := by
  obtain ⟨h1, h2, h3⟩ := h
  have hq := printQueue_empty h3
  have hphase : ¬ s.printer.phase = .printing := by rw [h1]; decide
  rw [printerLook, if_neg hphase, show lookFuel = 66559 + 1 from rfl, lookAtHead, if_neg hphase, hq]
  cases s
  rename_i printer _ _ _ _ _ _
  cases printer
  simp_all [setPrinter]

/-- Whether anything prints follows from the Print Channel and the job slots. -/
theorem State.noPrinting_congr {s t : State} (h : s.noPrinting) (hp : t.printer = s.printer) (hj : t.jobs.slots = s.jobs.slots) :
    t.noPrinting := by
  obtain ⟨h1, h2, h3⟩ := h
  refine ⟨by rw [hp]; exact h1, by rw [hp]; exact h2, fun j => ?_⟩
  have := h3 j
  simp only [State.printJob, State.job] at this ⊢
  rw [hj]
  exact this

/-! ### No outgoing call (R45, R132, R136, R141) -/

theorem callerNews_none (d : Fin 64) {s : State} {l : LineNo} (h : (s.line l).admission = none) : callerNews d s l = s := by
  simp [callerNews, h]

theorem foldl_fixed {α β : Type} (f : α → β → α) (a : α) (l : List β) (h : ∀ b, f a b = a) : l.foldl f a = a := by
  induction l with
  | nil => rfl
  | cons b l ih => rw [List.foldl_cons, h b, ih]

/-- News of a document reaches nobody where no line holds an outgoing call and nothing prints. -/
theorem documentNews_quiet {s : State} (h : s.quiet) (d : Fin 64) : documentNews d s = s := by
  rw [documentNews, foldl_fixed _ _ _ (fun l => callerNews_none d (h.2 l).1), printerLook_noPrinting h.1]

theorem callersPageGone_quiet {s : State} (h : s.quiet) (p : Fin 256) : callersPageGone p s = s := by
  apply foldl_fixed
  intro l
  have hl := (h.2 l).2
  simp only [callerPageGone]
  split
  · rename_i hc
    rw [hl hc.2]
  · rfl

/-- Whether a state is quiet follows from the Print Channel, the job slots, the lines and the procedure contexts. -/
theorem State.quiet_congr {s t : State} (h : s.quiet) (hp : t.printer = s.printer) (hj : t.jobs.slots = s.jobs.slots)
    (hl : t.lines = s.lines) (hc : t.procs = s.procs) : t.quiet := by
  refine ⟨State.noPrinting_congr h.1 hp hj, fun l => ?_⟩
  have := h.2 l
  simp only [State.line, State.proc] at this ⊢
  rw [hl, hc]
  exact this

/-! ### The release of a line (R119) -/

/-- A line in no state that a release ends is left as it is. -/
theorem releaseLine_not {s : State} {l : LineNo} (h : (s.line l).releasable = false) (why : Reason) (n : Nat) (name : Name) :
    releaseLine l why n name s = s := by simp [releaseLine, h]

/-- The release of a line that holds no outgoing call: the line and its slot. -/
theorem releaseLine_incoming {s : State} {l : LineNo} (h : (s.line l).releasable = true) (ha : (s.line l).admission = none)
    (why : Reason) (n : Nat) (name : Name) :
    releaseLine l why n name s = (s.setLine l ((s.line l).released why s.cfg.guardTime)).setSlot l (s.slot l).resting := by
  simp [releaseLine, releaseContext, h, ha]

/-- The release of a line with an outgoing call: the line and its slot, the charge place, the counts, the Job Table and the
arbiter. -/
theorem releaseLine_outgoing {s : State} {l : LineNo} {a : Admission} (h : (s.line l).releasable = true)
    (ha : (s.line l).admission = some a) (why : Reason) (n : Nat) (name : Name) :
    releaseLine l why n name s =
      trigger (attemptEnd a.job a.dest l why n (lowerCounts a (settleCharge l a (s.line l).answered why n name
        ((s.setLine l ((s.line l).released why s.cfg.guardTime)).setSlot l (s.slot l).resting)))) := by
  simp [releaseLine, releaseContext, h, ha]

/-! ### Dialling (R111) -/

/-- A phase with a duration is started and dialling waits for its end. -/
theorem runDial_phase (a : Admission) (p : Profile) (fuel : Nat) (x : Line) (ph : DialPhase)
    (h : p.duration ph ≠ 0 ∨ ph = .none) : runDial a p (fuel + 1) (.phase x ph) = .phase (x.enterPhase p ph) ph := by
  simp only [runDial]
  rw [if_neg]
  rintro ⟨h1, h2⟩
  rcases h with h | h
  · exact h h1
  · exact h2 h

@[simp] theorem runDial_complete (a : Admission) (p : Profile) (fuel : Nat) : runDial a p fuel .complete = .complete := by
  cases fuel <;> rfl

/-! ### Postings (R191, R195) -/

/-- The Account Table takes an account: its record, and one report at an entry into OVER. -/
theorem putAccount_eq (n : Fin 64) (a : Account) (s : State) :
    putAccount n a s =
      if a.isOver = true ∧ (s.account n).isOver = false then report (overReport n a) (s.setAccount n a) else s.setAccount n a := by
  cases h1 : a.isOver <;> cases h2 : (s.account n).isOver <;> simp [putAccount, h1, h2]

end Sys2Proof.Machine
end

