-- ==== Sys2Proof/Laws/Jobs.lean ====
section
/-! SUPPORT. What the shared operations of the Job Table can do (chapter 4): destination records changed in place, owed print
jobs, and the finish of a job. -/

namespace Sys2Proof.Machine

/-! ### Records changed in place -/

theorem State.sendJob_some {s : State} {j : Fin 32} {doc : Fin 64} {b : SendJob} {w : Option Report}
    (h : s.job j = some ⟨doc, .send b, w⟩) : s.sendJob j = some b := by simp [State.sendJob, h]

theorem State.dest_some {s : State} {j : Fin 32} {doc : Fin 64} {b : SendJob} {w : Option Report}
    (h : s.job j = some ⟨doc, .send b, w⟩) (d : Nat) : s.dest j d = b.dests[d]? := by
  simp [State.dest, State.sendJob_some h]

theorem changeSend_some {s : State} {j : Fin 32} {doc : Fin 64} {b : SendJob} {w : Option Report}
    (h : s.job j = some ⟨doc, .send b, w⟩) (f : SendJob → SendJob) :
    changeSend j f s = s.setJob j (some ⟨doc, .send (f b), w⟩) := by simp [changeSend, h]

theorem changePrint_some {s : State} {j : Fin 32} {doc : Fin 64} {b : PrintJob} {w : Option Report}
    (h : s.job j = some ⟨doc, .print b, w⟩) (f : PrintJob → PrintJob) :
    changePrint j f s = s.setJob j (some ⟨doc, .print (f b), w⟩) := by simp [changePrint, h]

theorem changeReceive_some {s : State} {j : Fin 32} {doc : Fin 64} {b : ReceiveJob} {w : Option Report}
    (h : s.job j = some ⟨doc, .receive b, w⟩) (f : ReceiveJob → ReceiveJob) :
    changeReceive j f s = s.setJob j (some ⟨doc, .receive (f b), w⟩) := by simp [changeReceive, h]

theorem changeDest_some {s : State} {j : Fin 32} {doc : Fin 64} {b : SendJob} {w : Option Report}
    (h : s.job j = some ⟨doc, .send b, w⟩) (d : Nat) (f : Dest → Dest) :
    changeDest j d f s = s.setJob j (some ⟨doc, .send { b with dests := b.dests.modify d f }, w⟩) := by
  rw [changeDest, changeSend_some h]

theorem changeDest_job_ne {s : State} {i j : Fin 32} (h : i ≠ j) (d : Nat) (f : Dest → Dest) :
    (changeDest j d f s).job i = s.job i := by
  simp only [changeDest, changeSend]
  split
  · simp [h]
  · rfl

/-- Reading a destination record after one was changed in place. -/
theorem changeDest_dest (s : State) (i j : Fin 32) (d e : Nat) (f : Dest → Dest) :
    (changeDest j d f s).dest i e = if i = j ∧ e = d then (s.dest j d).map f else s.dest i e := by
  by_cases hi : i = j
  · subst hi
    cases hj : s.sendJob i with
    | none =>
      have hn : ∀ g, changeSend i g s = s := by
        intro g
        simp only [changeSend]
        split
        · rename_i heq
          rw [State.sendJob_some heq] at hj
          cases hj
        · rfl
      simp [changeDest, hn, State.dest, hj]
    | some b =>
      have : ∃ doc w, s.job i = some ⟨doc, .send b, w⟩ := by
        simp only [State.sendJob] at hj
        split at hj
        · rename_i heq
          exact ⟨_, _, by rw [heq, Option.some.inj hj]⟩
        · cases hj
      obtain ⟨doc, w, hb⟩ := this
      rw [changeDest_some hb, State.dest_some (doc := doc) (w := w) (by simp; rfl)]
      simp only [State.dest_some hb, List.getElem?_modify, true_and]
      by_cases he : e = d
      · subst he; simp
      · have he' : ¬ d = e := fun x => he x.symm
        simp [he, he']
  · have h1 := changeDest_job_ne (s := s) hi d f
    simp [hi, State.dest, State.sendJob, h1]

/-! ### Owed print jobs (R83) -/

/-- With no RECEIVE job that owes a print, a slot that becomes free stays free. -/
theorem serveOwed_none {s : State} (h : s.noneOwed) : serveOwed s = s := by
  apply foldl_fixed
  intro r
  simp only [serveOwedAt]
  split
  · rename_i d b w j heq _
    simp [h r d b w heq]
  · rfl

theorem State.noneOwed_congr {s t : State} (h : s.noneOwed) (hj : ∀ j, t.job j = s.job j ∨ t.job j = none) : t.noneOwed := by
  intro j d b w hb
  rcases hj j with e | e
  · exact h j d b w (e ▸ hb)
  · rw [e] at hb; cases hb

/-! ### The finish of a job (R65, R76, R85) -/

/-- A send job with an unfinished destination does not finish (R76). -/
theorem finishIfFinal_unfinished {s : State} {j : Fin 32} {b : SendJob} (h : s.sendJob j = some b)
    (hd : b.dests.all (fun d => d.state.isFinal) = false) : finishIfFinal j s = s := by
  simp [finishIfFinal, h, hd]

/-- A send job whose destinations are all final finishes (R76). -/
theorem finishIfFinal_final {s : State} {j : Fin 32} {b : SendJob} (h : s.sendJob j = some b)
    (hd : b.dests.all (fun d => d.state.isFinal) = true) : finishIfFinal j s = finishJob j s := by
  simp [finishIfFinal, h, hd]

/-- A finished job that is no RECEIVE job: DONE with its report, the document's count lowered, and the report offered. -/
theorem finishJob_send {s : State} {j : Fin 32} {doc : Fin 64} {b : SendJob} (h : s.job j = some ⟨doc, .send b, none⟩) :
    finishJob j s = offerDone j (dropJob doc
      (s.setJob j (some ⟨doc, .send b, some (jobDoneReport j ⟨doc, .send b, none⟩ s)⟩))) := by
  simp [finishJob, h]

theorem finishJob_print {s : State} {j : Fin 32} {doc : Fin 64} {b : PrintJob} (h : s.job j = some ⟨doc, .print b, none⟩) :
    finishJob j s = offerDone j (dropJob doc
      (s.setJob j (some ⟨doc, .print b, some (jobDoneReport j ⟨doc, .print b, none⟩ s)⟩))) := by
  simp [finishJob, h]

/-- A JOB-DONE waits in its slot while the report queue is full (R85). -/
theorem offerDone_full {s : State} {j : Fin 32} (h : 64 ≤ s.link.reports.length) : offerDone j s = s := by
  simp only [offerDone]
  split
  · exact if_neg (by omega)
  · rfl

/-- A waiting JOB-DONE of a send or print job is queued where there is room, and its slot becomes free (R85). -/
theorem offerDone_room {s : State} {j : Fin 32} {doc : Fin 64} {body : JobBody} {r : Report}
    (h : s.job j = some ⟨doc, body, some r⟩) (hr : s.link.reports.length < 64) (hb : ∀ b, body ≠ .receive b) :
    offerDone j s = freeJob j (report r s) := by
  cases body with
  | receive b => exact absurd rfl (hb b)
  | send b => simp [offerDone, h, hr]
  | print b => simp [offerDone, h, hr]

/-! ### The end of an attempt (R74) -/

/-- An attempt's end at a destination that the line no longer holds changes nothing (R79). -/
theorem attemptEnd_untied {s : State} {j : Fin 32} {d : Nat} {l : LineNo} {x : Dest} (h : s.dest j d = some x)
    (hx : ¬(x.state = .onLine ∧ x.line = some l)) (why : Reason) (n : Nat) : attemptEnd j d l why n s = s := by
  simp only [attemptEnd, h]
  split
  · rename_i heq
    cases heq
    rw [if_neg hx]
  · rfl

/-- A retryable end with attempts left makes the destination QUEUED, with its DEST-RESULT (R74, R78). -/
theorem attemptEnd_retry {s : State} {j : Fin 32} {d : Nat} {l : LineNo} {x : Dest} {b : SendJob} (hb : s.sendJob j = some b)
    (h : s.dest j d = some x) (hs : x.state = .onLine) (hl : x.line = some l) {why : Reason} (hw : why.retryable = true)
    (ha : x.attempts < b.attempts) (n : Nat) :
    attemptEnd j d l why n s = reportDest j d (some (l, n)) (changeDest j d (fun x =>
      { x with state := .queued, line := none, reason := some why,
               eligible := some (s.clock.elapsed + BitVec.ofNat 32 b.delay),
               next := if b.policy = .whole then 0 else x.next }) s) := by
  simp [attemptEnd, h, hb, hs, hl, hw, ha]

/-- Every other end makes the destination final, with its DEST-RESULT, and the job may finish (R74, R76). -/
theorem attemptEnd_final {s : State} {j : Fin 32} {d : Nat} {l : LineNo} {x : Dest} {b : SendJob} (hb : s.sendJob j = some b)
    (h : s.dest j d = some x) (hs : x.state = .onLine) (hl : x.line = some l) {why : Reason}
    (hw : why.retryable = false ∨ b.attempts ≤ x.attempts) (n : Nat) :
    attemptEnd j d l why n s = finishIfFinal j (reportDest j d (some (l, n)) (finalDest j d (endState why) why s)) := by
  have hn : ¬(why.retryable = true ∧ x.attempts < b.attempts) := by
    rintro ⟨h1, h2⟩
    rcases hw with h3 | h3
    · rw [h3] at h1; cases h1
    · omega
  simp only [attemptEnd, h, hb, hs, hl]
  simp [hn]

end Sys2Proof.Machine
end

