-- ==== Sys2Proof/Laws/Parser.lean ====
section
/-! SUPPORT. What the order parser keeps (R205): no owner, no turn of the parser and no frame of the link touches the sender's
queue. -/

namespace Sys2Proof.Machine

@[simp] theorem done_fst (data : List Byte) (s : State) : (done data s).1 = s := rfl

@[simp] theorem refuse_fst (why : RefuseReason) (s : State) : (refuse why s).1 = s := rfl

/-! ### The owners -/

@[simp] theorem submitChecked_pending (p : SendParams) (d : Fin 64) (account : Fin 64) (ns : List Number) (s : State) :
    (submitChecked p d account ns s).1.pending = s.pending := by
  unfold submitChecked
  (repeat' split) <;> simp

@[simp] theorem configure_pending (es : List (Nat × ConfigValue)) (s : State) : (configure es s).1.pending = s.pending := by
  unfold configure
  (repeat' split) <;> simp

@[simp] theorem loadRoute_pending (p : RouteParams) (s : State) : (loadRoute p s).1.pending = s.pending := by
  unfold loadRoute
  (repeat' split) <;> simp

@[simp] theorem clearRoute_pending (n : Nat) (s : State) : (clearRoute n s).1.pending = s.pending := by
  unfold clearRoute
  (repeat' split) <;> simp

@[simp] theorem loadDialProfile_pending (p : Nat × Profile) (s : State) : (loadDialProfile p s).1.pending = s.pending := by
  unfold loadDialProfile
  (repeat' split) <;> simp

@[simp] theorem loadGroup_pending (p : Nat × List (List Nat)) (s : State) : (loadGroup p s).1.pending = s.pending := by
  unfold loadGroup
  (repeat' split) <;> simp

@[simp] theorem stageTariff_pending (es : List TariffEntry) (s : State) : (stageTariff es s).1.pending = s.pending := by
  unfold stageTariff
  (repeat' split) <;> simp

@[simp] theorem applyTariff_pending (u : Unit) (s : State) : (applyTariff u s).1.pending = s.pending := by
  simp [applyTariff]

@[simp] theorem loadBands_pending (p : Nat × Nat × List (Nat × Nat)) (s : State) : (loadBands p s).1.pending = s.pending := by
  unfold loadBands
  (repeat' split) <;> simp

@[simp] theorem loadDayMap_pending (ds : List Nat) (s : State) : (loadDayMap ds s).1.pending = s.pending := by
  unfold loadDayMap
  (repeat' split) <;> simp

@[simp] theorem setTime_pending (p : Nat × Nat) (s : State) : (setTime p s).1.pending = s.pending := by
  unfold setTime
  (repeat' split) <;> simp

@[simp] theorem readTime_pending (u : Unit) (s : State) : (readTime u s).1.pending = s.pending := by
  simp [readTime]

@[simp] theorem setAccount_pending (p : AccountParams) (s : State) : (setAccount p s).1.pending = s.pending := by
  unfold setAccount
  (repeat' split) <;> simp

@[simp] theorem readAccount_pending (p : Nat × Bool) (s : State) : (readAccount p s).1.pending = s.pending := by
  unfold readAccount
  (repeat' split) <;> simp

@[simp] theorem takeRecords_pending (n : Nat) (s : State) : (takeRecords n s).1.pending = s.pending := by
  unfold takeRecords
  simp only [done_fst]
  split <;> simp

@[simp] theorem setLineSettings_pending (p : Nat × LineSettings) (s : State) : (setLineSettings p s).1.pending = s.pending := by
  unfold setLineSettings
  (repeat' split) <;> simp

@[simp] theorem retireLine_pending (n : Nat) (s : State) : (retireLine n s).1.pending = s.pending := by
  unfold retireLine
  (repeat' split) <;> simp

@[simp] theorem returnLine_pending (n : Nat) (s : State) : (returnLine n s).1.pending = s.pending := by
  unfold returnLine
  split
  · simp
  · simp only [done_fst]
    split <;> simp

@[simp] theorem readLine_pending (n : Nat) (s : State) : (readLine n s).1.pending = s.pending := by
  unfold readLine
  (repeat' split) <;> simp

@[simp] theorem openDocument_pending (station : Nat) (s : State) : (openDocument station s).1.pending = s.pending := by
  unfold openDocument
  (repeat' split) <;> simp

@[simp] theorem closeDocument_pending (n : Nat) (s : State) : (closeDocument n s).1.pending = s.pending := by
  unfold closeDocument
  (repeat' split) <;> simp

@[simp] theorem replacePage_pending (p : Nat × Nat) (s : State) : (replacePage p s).1.pending = s.pending := by
  unfold replacePage
  (repeat' split) <;> first | (simp; done) | (dsimp only; split <;> simp)

@[simp] theorem releaseDocument_pending (n : Nat) (s : State) : (releaseDocument n s).1.pending = s.pending := by
  unfold releaseDocument
  (repeat' split) <;> simp

@[simp] theorem readDocument_pending (p : Nat × Nat) (s : State) : (readDocument p s).1.pending = s.pending := by
  unfold readDocument
  (repeat' split) <;> simp

@[simp] theorem submitSend_pending (p : SendParams) (s : State) : (submitSend p s).1.pending = s.pending := by
  unfold submitSend
  (repeat' split) <;> simp

@[simp] theorem submitPrint_pending (p : Nat × Nat × Nat) (s : State) : (submitPrint p s).1.pending = s.pending := by
  unfold submitPrint
  (repeat' split) <;> simp

@[simp] theorem cancelJob_pending (n : Nat) (s : State) : (cancelJob n s).1.pending = s.pending := by
  unfold cancelJob
  (repeat' split) <;> simp

@[simp] theorem readJob_pending (p : Nat × Nat) (s : State) : (readJob p s).1.pending = s.pending := by
  unfold readJob
  (repeat' split) <;> simp

@[simp] theorem readStore_pending (u : Unit) (s : State) : (readStore u s).1.pending = s.pending := by
  simp [readStore]

@[simp] theorem restartOrder_pending (u : Unit) (s : State) : (restartOrder u s).1.pending = s.pending := by
  simp [restartOrder]

/-- What an owner keeps, it keeps behind the check of its order's form. -/
theorem checked_keep {α β : Type} (g : State → β) (r : Reader α) (own : α → State → State × Answer)
    (h : ∀ a s, g (own a s).1 = g s) (bs : List Byte) (s : State) : g (checked r own bs s).1 = g s := by
  unfold checked
  split
  · rfl
  · exact h _ s

theorem ownerOf_pending (code : Byte) (bs : List Byte) (s : State) : (ownerOf code bs s).1.pending = s.pending := by
  refine ownerOf_forall (P := fun own => (own bs s).1.pending = s.pending) (fun k hk => ?_) code
  match k, hk with
  | 0, _ => rfl
  | 1, _ => exact checked_keep State.pending _ _ (by simp) bs s
  | 2, _ => exact checked_keep State.pending _ _ (by simp) bs s
  | 3, _ => exact checked_keep State.pending _ _ (by simp) bs s
  | 4, _ => exact checked_keep State.pending _ _ (by simp) bs s
  | 5, _ => exact checked_keep State.pending _ _ (by simp) bs s
  | 6, _ => exact checked_keep State.pending _ _ (by simp) bs s
  | 7, _ => exact checked_keep State.pending _ _ (by simp) bs s
  | 8, _ => exact checked_keep State.pending _ _ (by simp) bs s
  | 9, _ => exact checked_keep State.pending _ _ (by simp) bs s
  | 10, _ => exact checked_keep State.pending _ _ (by simp) bs s
  | 11, _ => exact checked_keep State.pending _ _ (by simp) bs s
  | 12, _ => exact checked_keep State.pending _ _ (by simp) bs s
  | 13, _ => exact checked_keep State.pending _ _ (by simp) bs s
  | 14, _ => exact checked_keep State.pending _ _ (by simp) bs s
  | 15, _ => exact checked_keep State.pending _ _ (by simp) bs s
  | 16, _ => exact checked_keep State.pending _ _ (by simp) bs s
  | 17, _ => exact checked_keep State.pending _ _ (by simp) bs s
  | 18, _ => exact checked_keep State.pending _ _ (by simp) bs s
  | 19, _ => exact checked_keep State.pending _ _ (by simp) bs s
  | 20, _ => exact checked_keep State.pending _ _ (by simp) bs s
  | 21, _ => exact checked_keep State.pending _ _ (by simp) bs s
  | 22, _ => exact checked_keep State.pending _ _ (by simp) bs s
  | 23, _ => exact checked_keep State.pending _ _ (by simp) bs s
  | 24, _ => exact checked_keep State.pending _ _ (by simp) bs s
  | 25, _ => exact checked_keep State.pending _ _ (by simp) bs s
  | 26, _ => exact checked_keep State.pending _ _ (by simp) bs s
  | 27, _ => exact checked_keep State.pending _ _ (by simp) bs s
  | 28, _ => exact checked_keep State.pending _ _ (by simp) bs s
  | 29, _ => exact checked_keep State.pending _ _ (by simp) bs s
  | n + 30, h => exact absurd h (by omega)

/-! ### The parser and the link -/

@[simp] theorem answerOrder_pending (o : Order) (r : State × Answer) : (answerOrder o r).pending = r.1.pending := rfl

@[simp] theorem takeEntry_pending (e : OrderEntry) (s : State) : (takeEntry e s).pending = s.pending := by
  unfold takeEntry
  split
  · simp [ownerOf_pending]
  · rfl

@[simp] theorem parse_pending (s : State) : (parse s).pending = s.pending :=
  runParser_keep State.pending takeEntry_pending (fun _ _ => rfl) _ s

@[simp] theorem takeOrder_pending (code : Byte) (tag : Tag) (params : List Byte) (s : State) :
    (takeOrder code tag params s).pending = s.pending := by simp [takeOrder, orderIntake]

@[simp] theorem dealFrame_pending (f : Frame) (s : State) : (dealFrame f s).pending = s.pending := by
  unfold dealFrame orderFrame
  (repeat' split) <;> simp

@[simp] theorem goodFrame_pending (src : Byte) (kind : FrameKind) (payload : List Byte) (s : State) :
    (goodFrame src kind payload s).pending = s.pending := by simp [goodFrame, checkerIdle]

@[simp] theorem arriveBytes_pending (bytes : List Byte) (s : State) : (arriveBytes bytes s).pending = s.pending := by
  unfold arriveBytes
  exact foldl_keep State.pending _ (fun s f => dealFrame_pending f s) _ _

@[simp] theorem transmitSelect_pending (s : State) : (transmitSelect s).pending = s.pending := by
  unfold transmitSelect
  (repeat' split) <;> simp [transmit]

end Sys2Proof.Machine
end

