-- ==== Sys2Proof/Machine/ModuleOps.lean ====
section
/-! DEFINITION. The word from a line's module (R214) read into the commands that it brings. A run is given the commands (log 25):
what is defined here says which ones the words of a module stand for. -/

namespace Sys2Proof.Machine

/-- The command that a whole message brings (R127, R215): the row of its code, or, for bytes no row fits, the row of a message that
is discarded. -/
def messageCommand (l : LineNo) (bytes : List Byte) : Instr :=
  match bytes with
  | 1 :: rest => .ability l rest
  | 2 :: rest => .choice l rest
  | 3 :: rest => .trialGood l rest
  | 4 :: rest => .trialBad l rest
  | 5 :: rest => .pageEnd l rest
  | 6 :: 0 :: rest => .verdictGood l rest
  | 6 :: 1 :: rest => .verdictResend l rest
  | 7 :: rest => .wait l rest
  | 8 :: rest => .close l rest
  | _ => .messageCheckError l false bytes

/-- The message bytes held after a word, `held` being those since the last boundary (R214). -/
def heldAfter (held : List Byte) (m : ModuleWord) : List Byte :=
  if m.pageData then held else (if m.boundary then [] else held) ++ m.data.toList

/-- A data byte of page data, the end of a stretch of page data, or the end of a message, with its check (R214). -/
def receptionCommands (l : LineNo) (held : List Byte) (m : ModuleWord) : List Instr :=
  if m.pageData then (m.data.toList.map (.pageDataByte l)) ++ (if m.boundary then [.pageDataEnd l] else [])
  else if m.boundary then [if m.checkError then .messageCheckError l true held else messageCommand l held]
  else []

/-- A change of ring present (R116): a new ring interval, or its end. -/
def ringCommands (x : Line) (t : Slot) (l : LineNo) (m : ModuleWord) : List Instr :=
  if m.ring = t.ringPresent then []
  else if m.ring then [if x.state = .ringing then .ringIntervalStart l else .ringPresent l]
  else [.ringEnd l 0]

/-- What space for a data byte is used for (R135, R140, R214): a CLOSE whose bytes have all gone has been handed over; messages in
hand go before page data. -/
def spaceCommand (x : Proc) (t : Slot) (l : LineNo) : Instr :=
  if t.out = [] ∧ t.closing.isSome = true then .closeHanded l
  else if t.out = [] ∧ x.phase = .sending then .pageDataByteSend l
  else .messageByteSend l

/-- The commands that a word from the module of a line brings, in the order of its bits from data valid down. -/
def moduleCommands (l : LineNo) (held : List Byte) (w : BitVec 32) (s : State) : List Instr :=
  let m := readModuleWord w
  ringCommands (s.line l) (s.slot l) l m ++
    (if m.loop = (s.slot l).loopPresent then [] else [.loopCurrentChange l m.loop]) ++
    (if m.busy then [.busy l] else []) ++ receptionCommands l held m ++
    (if m.trialValid then [.trialQuality l m.trialGood] else []) ++
    (if m.space then [spaceCommand (s.proc l) (s.slot l) l] else [])

/-- The module of a line sends a word: the commands it brings join the queue. -/
def State.hearModule (s : State) (l : LineNo) (held : List Byte) (w : BitVec 32) : State :=
  { s with pending := s.pending ++ moduleCommands l held w s }

end Sys2Proof.Machine
end

