-- ==== Sys2Proof/WellFormed.lean ====
section
/-! DEFINITION. Which commands can reach the part: the bounds that the frame, the slot and the table formats set on the
operands. Any other bytes of a payload or a message may arrive, and the part judges them. -/

namespace Sys2Proof

/-- The length of a link frame's payload (R211). -/
def fitsFrame (n : Nat) : Bool := decide (n ≤ 300)

/-- The payload of a frame that fits, behind `k` bytes of its own. -/
def fitsBehind (k : Nat) (bytes : List Byte) : Bool := fitsFrame (k + bytes.length)

/-- The bounds on a command's operands. -/
def Instr.wf : Instr → Bool
  | .hardReset _ => true
  | .frameCheckFail _ => true
  | .frameDiscarded _ _ _ payload => fitsFrame payload.length
  | .orderFrame _ payload => fitsFrame payload.length
  | .orderBadCode _ code params => (decide (code = 0) || decide (29 < code.toNat)) && fitsBehind 3 params
  | .configure _ params => fitsBehind 3 params
  | .loadRoute _ params => fitsBehind 3 params
  | .clearRoute _ params => fitsBehind 3 params
  | .loadDialProfile _ params => fitsBehind 3 params
  | .loadGroup _ params => fitsBehind 3 params
  | .stageTariff _ params => fitsBehind 3 params
  | .applyTariff _ params => fitsBehind 3 params
  | .loadBands _ params => fitsBehind 3 params
  | .loadDayMap _ params => fitsBehind 3 params
  | .setTime _ params => fitsBehind 3 params
  | .readTime _ params => fitsBehind 3 params
  | .setAccount _ params => fitsBehind 3 params
  | .readAccount _ params => fitsBehind 3 params
  | .takeRecords _ params => fitsBehind 3 params
  | .setLine _ params => fitsBehind 3 params
  | .retireLine _ params => fitsBehind 3 params
  | .returnLine _ params => fitsBehind 3 params
  | .readLine _ params => fitsBehind 3 params
  | .openDocument _ params => fitsBehind 3 params
  | .closeDocument _ params => fitsBehind 3 params
  | .replacePage _ params => fitsBehind 3 params
  | .releaseDocument _ params => fitsBehind 3 params
  | .readDocument _ params => fitsBehind 3 params
  | .submitSend _ params => fitsBehind 3 params
  | .submitPrint _ params => fitsBehind 3 params
  | .cancelJob _ params => fitsBehind 3 params
  | .readJob _ params => fitsBehind 3 params
  | .readStore _ params => fitsBehind 3 params
  | .restart _ params => fitsBehind 3 params
  | .sheetStart _ fields => fitsBehind 1 fields
  | .sheetEnd _ fields => fitsBehind 1 fields
  | .sheetAbort _ fields => fitsBehind 1 fields
  | .raster _ payload => fitsFrame payload.length
  | .coderTurn => true
  | .admissionPass => true
  | .cadencePhaseEnd _ => true
  | .lineLost _ => true
  | .busy _ => true
  | .guardTimeEnd _ => true
  | .ringPresent _ => true
  | .ringEnd _ _ => true
  | .ringingEpisodeEnd _ => true
  | .answerBlankingEnd _ => true
  | .ability _ _ => true
  | .choice _ _ => true
  | .trialQuality _ _ => true
  | .trialGood _ _ => true
  | .trialBad _ _ => true
  | .pageDataByteSend _ => true
  | .pageDataByte _ _ => true
  | .pageDataEnd _ => true
  | .pageEnd _ _ => true
  | .verdictGood _ _ => true
  | .verdictResend _ _ => true
  | .wait _ _ => true
  | .close _ _ => true
  | .messageCheckError _ _ _ => true
  | .closeHanded _ => true
  | .classTick _ => true
  | .answerTimeout _ => true
  | .messageTimeout _ => true
  | .dataTimeout _ => true
  | .pageTimeout _ => true
  | .scanTimeout _ => true
  | .printTimeout => true
  | .secondEvent => true
  | .unitBoundary _ => true
  | .destinationEligible _ _ => true
  | .printerCredit _ payload => fitsFrame payload.length
  | .paperOut _ rest => fitsBehind 1 rest
  | .paperReady _ rest => fitsBehind 1 rest
  | .printerFrameSent => true
  | .transmitSelect => true
  | .messageByteSend _ => true
  | .loopCurrentChange _ _ => true
  | .ringIntervalStart _ => true

end Sys2Proof
end

