-- ==== Sys2Proof/Tests/Slice0.lean ====
section
/-! SUPPORT. Tests: ill-formed commands, worked cases of the spec, and for every statement a state and operands that meet
its hypotheses. The expected values of the worked cases are the spec's tables. -/

namespace Sys2Proof.Machine.Tests

-- The proofs are checked one after another: started all at once they take more threads than a build under a memory limit has.
set_option Elab.async false

/-! ### Well-formedness: each check refuses an ill-formed command -/

/-- A payload one byte above the limit of R211. -/
def longPayload : List Byte := List.replicate 301 0

theorem test_wf_frame : (Instr.frameDiscarded 0 1 8 longPayload).wf = false := by decide +kernel
theorem test_wf_order_frame : (Instr.orderFrame 1 longPayload).wf = false := by decide +kernel
theorem test_wf_bad_code : (Instr.orderBadCode 1 29 []).wf = false := by decide
theorem test_wf_bad_code_zero : (Instr.orderBadCode 1 0 []).wf = true := by decide
theorem test_wf_order : (Instr.configure 1 (longPayload.drop 3)).wf = false := by decide +kernel
theorem test_wf_order_fits : (Instr.configure 1 (longPayload.drop 4)).wf = true := by decide +kernel
theorem test_wf_sheet : (Instr.sheetStart 2 (longPayload.drop 1)).wf = false := by decide +kernel
theorem test_wf_raster : (Instr.raster 2 longPayload).wf = false := by decide +kernel
theorem test_wf_credit : (Instr.printerCredit 6 longPayload).wf = false := by decide +kernel
theorem test_wf_paper : (Instr.paperOut 6 (longPayload.drop 1)).wf = false := by decide +kernel

/-! ### Worked cases of the spec -/

/-- Section 12.5, R211: the CRC of the nine bytes 31 to 39 hex. -/
theorem test_crc : crc16 [0x31, 0x32, 0x33, 0x34, 0x35, 0x36, 0x37, 0x38, 0x39] = 0x29B1#16 := by decide +kernel

/-- The runs of the reference line of section 2.2. -/
def caseReference : Raster := expandRuns false [500, 20, 500, 20, 1008]
/-- The runs of line i of section 2.2. -/
def caseLine : Raster := expandRuns false [500, 22, 498, 20, 1008]

/-- Section 2.2: the line is stored as DELTA with the four code bytes given there. -/
theorem test_case_delta : codeLine 1 (some caseReference) true caseLine = [0x96, 0xC7, 0x00, 0xB5, 0xAE] := by decide +kernel
/-- Section 2.2: at anchor position 0 it is stored as PLAIN, 9 bytes. -/
theorem test_case_plain : (codeLine 0 (some caseReference) true caseLine).length = 9 := by decide +kernel
/-- Section 2.6: PASS at 9600 bit/s and 10 ms sends 12 bytes. -/
theorem test_case_pad : (padded 4 2 [0x96, 0xC7, 0x00, 0xB5, 0xAE]).length = 12 := by decide
/-- Section 2.6: the greatest Bmin. -/
theorem test_greatest_pad : minBytes 6 4 = 72 := by decide
/-- Section 2.2, read back: the DELTA bytes give the line, and its zero byte is no fill. -/
theorem test_case_decoded :
    (({ Decoder.start 2048 with reference := some caseReference, index := 1 }).feedAll [0x96, 0xC7, 0x00, 0xB5, 0xAE]).2 =
      [⟨caseLine, 1, true, some .delta, [0x96, 0xC7, 0x00, 0xB5, 0xAE], [520, 2, 1526]⟩] := by decide +kernel

/-- Section 10.1: the accumulator and the next second's length under a correction of +40. -/
theorem test_correction :
    (nextLength 40 0, nextLength 40 120, nextLength 40 115, nextLength 40 35) = ((40, 8000), (35, 8001), (30, 8001), (75, 8000)) := by
  decide

/-- Section 10.4: the cell with whole 37 and fraction 8 at two boundaries: 37 seconds with dither 8, then 38 with dither 0. -/
theorem test_dither :
    ((Meter.initial.reload ⟨37, 8, 0⟩).remaining, ((Meter.initial.reload ⟨37, 8, 0⟩).reload ⟨37, 8, 0⟩).remaining,
      ((Meter.initial.reload ⟨37, 8, 0⟩).reload ⟨37, 8, 0⟩).dither) = (37, 38, 0) := by decide

/-- A number of digits. -/
def dial (ds : List (Fin 10)) : Number := ds.map .digit

/-- Section 5.2: the longer open prefix 0044 wins over the barred 00; entry 3 wins over entry 7, which has the same prefix. -/
theorem test_match :
    let r : Route := ⟨true, [], false, 0, 0, [], [0], .inOrder, 8⟩
    let es := store (store (store (store (Vector.replicate 48 Route.invalid) 0 r) 1 { r with digits := dial [0, 0], barred := true })
      2 { r with digits := dial [0, 0, 4, 4] }) 3 { r with digits := dial [0, 2, 0] }
    let es := store es 7 { r with digits := dial [0, 2, 0] }
    (matchEntry es (dial [5, 5, 5]), matchEntry es (dial [0, 0, 3, 1]), matchEntry es (dial [0, 0, 4, 4, 2]),
      matchEntry es (dial [0, 2, 0, 1])) = (some 0, some 1, some 2, some 3) := by decide +kernel

/-- A word laid out by the table of R214: data byte C3 hex in bits 31 to 24, data valid in bit 23, loop current in bit 21, page data in bit 14. -/
theorem test_module_word :
    readModuleWord 0xC3A04000 = ⟨some 0xC3, false, true, false, false, false, false, false, false, true⟩ := by decide

/-- The same word while loop current is already shown: it brings that byte of page data and no other command. -/
theorem test_module_commands : moduleCommands 3 [] 0xC3A04000 State.reset = [.pageDataByte 3 0xC3] := by decide +kernel

/-- No word spells a command, so a fetch word changes nothing. -/
theorem test_fetch_word : State.reset.withFetchWord 32 0xFFFFFFFF = State.reset := rfl

/-! ### Small states -/

/-- A machine with four blocks of page memory and no report waiting. -/
def base : State := { State.reset with store := Store.initial 4, link := { State.reset.link with reports := [] } }

/-- A SEALED page of document 0: an all-white line of 1024 pixels and the page-end mark. -/
def sealedPage : Page := ⟨.sealed, some (0, 0), true, 1024, .standard, 1, 4, [0], 0, false, false, 0⟩
/-- An OPEN document of channel 0 with one page. -/
def deskDoc : Document := ⟨.scanned 0, true, false, [0], [], none, false, 0⟩
/-- Document 0, bound to channel 0, with one SEALED page. -/
def desk : State :=
  { base with
    store := { base.store with freeList := [1, 2, 3], pages := store base.store.pages 0 sealedPage,
                               docs := store base.store.docs 0 (some deskDoc), mem := [(0, 0x69), (1, 0xCE), (2, 0xE0), (3, 0xC3)] },
    scan := { base.scan with channels := store base.scan.channels 0 { Channel.idle with binding := .bound 0 } } }
/-- A route for every number. -/
def anyRoute : Route := ⟨true, [], false, 3, 0, [], [0, 1], .inOrder, 1⟩
def number : Number := [.digit 7, .digit 0]
/-- A READY destination. -/
def ready : Dest := ⟨number, .ready, 0, none, 0, none, 0, none, false⟩
/-- A destination with a call on line 1. -/
def onLine : Dest := ⟨number, .onLine, 1, none, 0, some 1, 0, none, false⟩
def sendBody (x : Dest) : SendJob := ⟨5, 1, 3, 60, .resume, [x]⟩
def jobDoc : Document := { deskDoc with jobCount := 1 }
/-- Job 0 sends document 0 to one destination for account 5. -/
def sending (x : Dest) : State :=
  { desk with
    routes := { desk.routes with entries := store desk.routes.entries 2 anyRoute, passing := true },
    jobs := { desk.jobs with slots := store desk.jobs.slots 0 (some ⟨0, .send (sendBody x), none⟩), order := [0] },
    store := { desk.store with docs := store desk.store.docs 0 (some jobDoc), claims := [⟨.dest 0 0, 0, 0, 0, false, false⟩] } }
def admission : Admission := ⟨0, 0, number, 5, 2, 3, 0, []⟩
/-- Line 1 holds the call of job 0. -/
def calling (st : LineState) (ph : DialPhase) (answered : Bool) : State :=
  let s := sending onLine
  { s with
    lines := store s.lines 1 { Line.initial with state := st, direction := some .outgoing, admission := some admission, answered := answered, cadence := ⟨ph, 0, 0, 0, 8⟩, part := .number },
    charges := ⟨[⟨1, 0, 0⟩], []⟩,
    accounts := store s.accounts 5 { Account.initial with active := 1 },
    routes := { s.routes with active := store s.routes.active 2 1, passing := false },
    meters := store s.meters 1 { Meter.initial with running := answered, account := 5 } }
/-- The same line CONNECTED, its engine's context given. -/
def talking (x : Proc) (answered : Bool) : State := (calling .connected .none answered).setProc 1 x
/-- Line 3 receives job 4 into document 2. -/
def receiving (x : Proc) (slots : List (Fin 256)) (held : Option (Fin 256)) (g : Page) : State :=
  let s := desk.setLine 3 { Line.initial with state := .connected, direction := some .incoming, receive := some (4, 2) }
  let s := (s.setProc 3 { x with role := .called }).setJob 4 (some ⟨2, .receive ⟨3, false, none⟩, none⟩)
  let s := s.setDoc 2 (some ⟨.received 3, true, false, slots, [], held, false, 1⟩)
  { s with store := { s.store with pages := store s.store.pages 5 g, freeList := [2, 3] } }

theorem takes (s : State) (tag : Tag)
    (h : s.link.inHand = none ∧ s.link.orders = [] ∧ s.link.replies.length < 4 ∧ s.link.last = none) : s.takesOrder tag := by
  obtain ⟨h1, h2, h3, h4⟩ := h
  exact ⟨h1, h2, h3, by intro t r h; rw [h4] at h; cases h⟩
theorem quietOf (s : State)
    (h : (s.printer.phase = .idle ∧ s.printer.job = none ∧ ∀ j : Fin 32, s.printJob j = none) ∧
      ∀ l : LineNo, (s.line l).admission = none ∧ ((s.proc l).role = .caller → (s.proc l).phase = .idle)) : s.quiet := h
theorem noPrintingOf (s : State) (h : s.printer.phase = .idle ∧ s.printer.job = none ∧ ∀ j : Fin 32, s.printJob j = none) :
    s.noPrinting := h
theorem nextPageOf (st : Store) (p : Fin 256)
    (h : (fetch st.pages p).state = .free ∧ st.isHeld p = false ∧
      ∀ q : Fin 256, q < p → (fetch st.pages q).state ≠ .free ∨ st.isHeld q = true) : st.nextPage p := h

theorem base_takes : base.takesOrder 7 := takes _ _ (by decide +kernel)
theorem desk_takes : desk.takesOrder 7 := takes _ _ (by decide +kernel)
theorem desk_quiet : desk.quiet := quietOf _ (by decide +kernel)

/-! ### Witnesses: steps and invariants -/

theorem witness_StepRunsFrontCommand :
    ({ desk with pending := [.coderTurn, .printTimeout] }).pending = .coderTurn :: [.printTimeout] := rfl
theorem witness_ExecLeavesTheQueue : ∃ t, exec .admissionPass { sending ready with pending := [.coderTurn] } = .next t := ⟨_, rfl⟩
theorem witness_IdleStepIsOneFrame : (calling .dialing .toneOn false).pending = [] := rfl
theorem witness_MemoryStaysCanonical : desk.store.mem.wf = true ∧ ∃ t, step { desk with pending := [.coderTurn] } = .next t :=
  ⟨by decide, _, rfl⟩
theorem desk_pagesKept : desk.store.pagesKept := by
  have only : ∀ d : Fin 64, d ≠ 0 → fetch desk.store.docs d = none := by decide +kernel
  have first : fetch desk.store.docs 0 = some deskDoc := by decide +kernel
  have mapped : ∀ p : Fin 256, (fetch desk.store.pages p).mapped = true ↔ p ∈ deskDoc.slots := by decide +kernel
  refine ⟨by decide +kernel, fun p => ⟨fun h => ⟨0, deskDoc, first, (mapped p).1 h⟩, ?_⟩, ?_⟩
  · rintro ⟨d, x, hd, hp⟩
    by_cases h : d = 0
    · subst h
      rw [first] at hd
      injection hd with hd
      subst hd
      exact (mapped p).2 hp
    · rw [only d h] at hd
      cases hd
  · intro d x hd
    by_cases h : d = 0
    · subst h
      rw [first] at hd
      injection hd with hd
      subst hd
      refine ⟨by decide, fun p hp => ⟨0, ?_⟩⟩
      rw [List.mem_singleton.1 hp]
      decide +kernel
    · rw [only d h] at hd
      cases hd
theorem witness_BlocksStayKept :
    desk.store.blocksKept ∧ desk.store.pagesKept ∧ ∃ t, step { desk with pending := [.coderTurn] } = .next t :=
  ⟨by unfold Store.blocksKept; decide +kernel, desk_pagesKept, _, rfl⟩
/-- A call's meter at the last second of its period. -/
def metered (left : Nat) : State :=
  { (calling .connected .none true).setMeter 1 ⟨true, true, left, 8, 3, 5, 2, 5, 0, 0⟩ with
    clock := { base.clock with active := store base.clock.active 2 ⟨37, 8, 2⟩, second := 86399, accumulator := 100 },
    accounts := store base.accounts 5 ⟨4, 5, false, true, .cut, 1⟩ }
theorem witness_TimeStaysInRange : (metered 1).timeKept ∧ ∃ t, step { metered 1 with pending := [.secondEvent] } = .next t :=
  ⟨by unfold State.timeKept Clock.inRange Meter.inRange Cell.inRange; decide +kernel, _, rfl⟩
theorem witness_AccountsStayJudged : (metered 1).accountsKept ∧ ∃ t, step { metered 1 with pending := [.secondEvent] } = .next t :=
  ⟨by unfold State.accountsKept Account.inRange; decide +kernel, _, rfl⟩
theorem calling_ties : (calling .connected .none true).tiesKept := by
  have h : ∀ j : Fin 32, j ≠ 0 → (calling .connected .none true).sendJob j = none := by decide +kernel
  intro j d x hx
  by_cases hj : j = 0
  · subst hj
    rcases d with _ | d
    · have : (calling .connected .none true).dest 0 0 = some onLine := rfl
      rw [this] at hx
      injection hx with hx
      subst hx
      exact ⟨fun h => absurd rfl h, fun _ => ⟨1, admission, rfl, by decide +kernel, rfl, rfl⟩⟩
    · have : (calling .connected .none true).dest 0 (d + 1) = none := rfl
      rw [this] at hx
      cases hx
  · have h' := h j hj
    unfold State.dest at hx
    rw [h'] at hx
    cases hx
theorem witness_CallsAndChargesAgree :
    (calling .connected .none true).callsKept ∧ (calling .connected .none true).tiesKept ∧
      ∃ t, step { calling .connected .none true with pending := [.closeHanded 1] } = .next t :=
  ⟨by unfold State.callsKept State.callKept; decide +kernel, calling_ties, _, rfl⟩
theorem witness_QueuesStayBounded : desk.queuesKept ∧ desk.parserKept ∧
    ∃ t, step { desk with pending := [.printerCredit 6 [9]] } = .next t :=
  ⟨by unfold State.queuesKept Channel.creditsKept; decide +kernel, .inl rfl, _, rfl⟩
/-- The widest line, coded against a reference, and a line of one pixel at the start of a page. -/
theorem witness_CodedLinesDecode :
    (let d : Decoder := { Decoder.start 2048 with reference := some caseReference, index := 1 }
     0 < caseLine.length ∧ caseLine.length ≤ 2048 ∧ d.width = caseLine.length ∧ d.line = none ∧ d.ended = false ∧
      (∀ f, d.reference = some f → f.length = caseLine.length) ∧ (1 ≠ 0 → d.reference ≠ none → 0 < d.index)) ∧
    (let d := Decoder.start 1
     0 < [true].length ∧ [true].length ≤ 2048 ∧ d.width = [true].length ∧ d.line = none ∧ d.ended = false ∧
      (∀ f, d.reference = some f → f.length = [true].length) ∧ (0 ≠ 0 → d.reference ≠ none → 0 < d.index)) := by
  refine ⟨⟨by decide +kernel, by decide +kernel, by decide +kernel, rfl, rfl, ?_, by decide⟩,
    ⟨by decide, by decide, rfl, rfl, rfl, ?_, by decide⟩⟩
  · intro f h
    injection h with h
    subst h
    decide +kernel
  · intro f h
    cases h

/-! ### Witnesses: frames and orders -/

/-- Clause 1: a payload of 300 bytes behind noise; clause 2: a wrong CRC; clause 3: length 301. -/
theorem witness_InboundChecker :
    (base.link.bytes = [] ∧ (List.replicate 300 (1 : Byte)).length ≤ 300 ∧ 0xA5#8 ∉ [(0x3C : Byte), 1]) ∧
    (let body : List Byte := [0, 1, 8] ++ uint 2 3 ++ [0, 1, 28]
     base.link.bytes = [] ∧ [(0 : Byte), 1, 28].length ≤ 300 ∧ [(0 : Byte), 0] ≠ uint 2 (crc16 body).toNat ∧
       0xA5#8 ∉ body ++ [0, 0]) ∧
    (base.link.bytes = [] ∧ 300 < 301 ∧ 301 < 65536 ∧ 0xA5#8 ∉ [(0 : Byte), 1, 8] ++ uint 2 301) := by decide +kernel
/-- A source outside the table, a short order, payloads one byte off, the sheet kind 3 and the printer status 2. -/
theorem witness_FramesThatChangeNothing :
    base.link.bytes = [] ∧
    ¬((0 : Byte) = 0 ∧ (((2 : Byte) = 1 ∧ (8 : Byte) = 8) ∨ (2 ≤ (2 : Byte).toNat ∧ (2 : Byte).toNat ≤ 5 ∧ ((8 : Byte) = 1 ∨ (8 : Byte) = 2)) ∨
        ((2 : Byte) = 6 ∧ ((8 : Byte) = 3 ∨ (8 : Byte) = 7)))) ∧
    ((1 : Byte) ≠ 1 ∨ [(0 : Byte), 1].length < 3) ∧
    ([(9 : Byte), 4, 0].length ≠ 4 ∨ ¬(2 ≤ (2 : Byte).toNat ∧ (2 : Byte).toNat ≤ 5)) ∧
    ([(9 : Byte), 0, 5, 0].length ≠ 3 ∨ ¬(2 ≤ (2 : Byte).toNat ∧ (2 : Byte).toNat ≤ 5)) ∧
    ([(9 : Byte)].length ≠ 1 ∨ ¬(2 ≤ (6 : Byte).toNat ∧ (6 : Byte).toNat ≤ 5)) ∧
    ([(9 : Byte), 0].length < 3 ∨ ¬(2 ≤ (2 : Byte).toNat ∧ (2 : Byte).toNat ≤ 5)) ∧
    ([(9 : Byte), 0].length ≠ 1 ∨ (6 : Byte) ≠ 6) ∧ ([(0 : Byte)] ≠ [] ∨ (6 : Byte) ≠ 6) ∧
    (2 ≤ (5 : Byte).toNat ∧ (5 : Byte).toNat ≤ 5 ∧ [(9 : Byte), 0].length < 3 ∧
      ∀ k rest, [(3 : Byte), 9, 4, 0, 0] = k :: rest → 2 < k.toNat) ∧
    ([(9 : Byte), 0].length ≠ 1 ∧ ∀ v, [(2 : Byte)] = [v] → 1 < v.toNat) :=
  ⟨rfl, by decide, .inr (by decide), by decide, by decide, by decide, by decide, by decide, by decide,
    ⟨by decide, by decide, by decide, fun _ _ h => by injection h with h; subst h; decide⟩,
    by decide, fun _ h => by injection h with h; subst h; decide⟩
/-- R213: the greatest sheet kind, 2, is an ABORT, which ends the START that the channel holds. -/
theorem test_sheet_kind_two_is_taken :
    let x := { Channel.idle with heldStart := some ⟨9, 1024, 0⟩, sheet := .active, number := 4 }
    (match exec (.frameDiscarded 0 2 2 [2, 9]) (base.setChannel 0 x) with
      | .next t => decide ((t.channel 0).heldStart = none)
      | _ => false) = true := by decide +kernel
/-- A reply that waits, and the part with no reply place free and some entries in the order queue. -/
def oldReply : Reply := ⟨9, 28, .done []⟩
def fullDesk (es : List OrderEntry) : State :=
  { base with link := { base.link with replies := [oldReply, oldReply, oldReply, oldReply], orders := es } }
/-- A tag that waits, the last answered tag with and without a reply place, an order of the table, a code outside it, and no
reply place with the order queue one short of full and full. -/
theorem witness_OrderFrameIsTakenOrWaits :
    ((fullDesk [.again 7 oldReply]).link.bytes = [] ∧ (fullDesk [.again 7 oldReply]).parserKept ∧
      ∃ e ∈ (fullDesk [.again 7 oldReply]).link.orders, e.tag = 7) ∧
    (let s := { base with link := { base.link with last := some (7, oldReply) } }
     s.link.bytes = [] ∧ s.parserKept ∧ s.link.orders = [] ∧ s.link.inHand = none ∧ s.link.last = some (7, oldReply)) ∧
    orderOfCommand (.readStore 7 []) = some ⟨7, 28, []⟩ ∧
    (base.link.bytes = [] ∧ base.parserKept ∧ base.link.orders = [] ∧ base.link.inHand = none ∧ base.link.last = none ∧
      base.link.replies.length < 4 ∧ ((30 : Byte) = 0 ∨ 29 < (30 : Byte).toNat)) ∧
    ((fullDesk []).parserKept ∧ (fullDesk []).link.orders.length < 4 ∧ (fullDesk []).link.last = none ∧
      4 ≤ (fullDesk []).link.replies.length) ∧
    (let e : OrderEntry := .order ⟨1, 28, []⟩
     (fullDesk [e, e, e, e]).parserKept ∧ ¬(fullDesk [e, e, e, e]).link.orders.length < 4) :=
  ⟨⟨rfl, .inr (.inr (by decide)), .again 7 oldReply, List.mem_singleton.2 rfl, rfl⟩, ⟨rfl, .inl rfl, rfl, rfl, rfl⟩, rfl,
    ⟨rfl, .inl rfl, rfl, rfl, rfl, by decide⟩, ⟨.inl rfl, by decide, rfl, by decide⟩, .inr (.inr (by decide)), by decide⟩
/-- R205: an order that waits while the reply queue is full is taken when a reply has left. -/
theorem test_transmit_takes_waiting_order :
    (match exec .transmitSelect (fullDesk [.order ⟨5, 28, [1]⟩, .order ⟨6, 28, [1]⟩]) with
      | .next t => decide (t.link.orders = [.order ⟨6, 28, [1]⟩] ∧
          t.link.replies = [oldReply, oldReply, oldReply, ⟨5, 28, .refused .malformed⟩])
      | _ => false) = true := by decide +kernel
/-- R205: an order that arrives as a frame is taken at once where nothing waits. -/
theorem test_order_frame_is_taken :
    (match exec (.orderFrame 1 [0, 5, 28, 1]) base with
      | .next t => decide (t.link.orders = [] ∧ t.link.replies = [⟨5, 28, .refused .malformed⟩])
      | _ => false) = true := by decide +kernel
/-- R84: line, result, document, name and pages of a RECEIVE job's JOB-DONE, in that order. -/
theorem test_receive_job_done :
    (Report.receiveDone 2 .storeFull 9 [65] 4).content = [0, 1, 2, 1, 14, 9, 0, 0, 0, 0, 0, 0, 0, 1, 1, 65, 1, 4] := by decide +kernel
theorem witness_OrderIsAnsweredOnce :
    orderOfCommand (.readStore 7 []) = some ⟨7, 28, []⟩ ∧ base.takesOrder 7 ∧
      (let s := { base with link := { base.link with last := some (7, ⟨7, 28, .done []⟩) } }
       s.link.inHand = none ∧ s.link.orders = [] ∧ s.link.replies.length < 4 ∧ s.link.last = some (7, ⟨7, 28, .done []⟩)) :=
  ⟨rfl, base_takes, rfl, rfl, by decide, rfl⟩
/-- CANCEL-JOB of a job slot that holds no job is refused. -/
theorem witness_RefusedOrderChangesNothing :
    orderOfCommand (.cancelJob 7 [0]) = some ⟨7, 26, [0]⟩ ∧ base.takesOrder 7 ∧
      ∃ t, exec (.cancelJob 7 [0]) base = .next t ∧ t.link.last = some (7, ⟨7, 26, .refused .noSuch⟩) :=
  ⟨rfl, base_takes, _, rfl, by decide +kernel⟩
/-- A parameter list of one byte fits no order that takes another length, and an empty one none that takes one byte. -/
theorem witness_MisformedOrderIsMalformed :
    base.takesOrder 7 ∧ ((30 : Byte) = 0 ∨ 29 < (30 : Byte).toNat) ∧ ([0] : List Byte) ≠ [] ∧ ([] : List Byte).length ≠ 1 ∧
      ([0] : List Byte).length ≠ 2 ∧ ([0] : List Byte).length ≠ 3 ∧ ([0] : List Byte).length ≠ 4 ∧ ([0] : List Byte).length ≠ 5 ∧
      ([0] : List Byte).length ≠ 6 ∧ ([0] : List Byte).length ≠ 7 ∧ ([0] : List Byte).length ≠ 19 ∧ ([] : List Byte).length < 1 ∧
      ([0] : List Byte).length < 2 ∧ ([0, 0] : List Byte).length < 3 ∧ (List.replicate 8 (0 : Byte)).length < 9 :=
  ⟨base_takes, by decide⟩

/-! ### Witnesses: orders on the tables -/

theorem witness_ConfigureStoresValues :
    desk.takesOrder 7 ∧ ((65535 < 65536 ∧ desk.store.freeCount ≤ min 4095 65535) ∧ (List.replicate 24 Symbol.star).length ≤ 24 ∧
      (List.replicate 20 (65 : Byte)).length ≤ 20 ∧ (2048 = 1024 ∨ 2048 = 1536 ∨ 2048 = 2048) ∧
      (-32768 : Int) ≤ -32768 ∧ (-32768 : Int) ≤ 32767) := ⟨desk_takes, by decide +kernel⟩
theorem witness_RouteOrders :
    desk.takesOrder 7 ∧
    (let digits : Number := List.replicate 8 (.digit 0)
     digits.length ≤ 8 ∧ (∀ x ∈ digits, ∃ d, x = .digit d) ∧ [Symbol.star, .hash, .digit 9, .star].length ≤ 4 ∧
      (∀ x ∈ [Symbol.star, .hash, .digit 9, .star], x ≠ .pause) ∧ [(3 : LineNo), 1] ≠ [] ∧ [(3 : LineNo), 1].Nodup ∧ 1 ≤ 8 ∧ 8 ≤ 8) :=
  ⟨desk_takes, by decide, fun _ h => ⟨0, List.eq_of_mem_replicate h⟩, by decide, by decide, by decide, by decide, by decide,
    by decide⟩
theorem witness_ProfileAndGroupOrders :
    desk.takesOrder 7 ∧
    (let p : Profile := ⟨.pulse, 10, 0, 255, 0, 1, 65535, 300, 0, 1, 5, 600⟩
     (p.unit = 1 ∨ p.unit = 2 ∨ p.unit = 5 ∨ p.unit = 10) ∧ p.toneOn < 256 ∧ p.toneOff < 256 ∧ p.breakTime < 256 ∧
      p.makeTime < 256 ∧ p.interdigit < 65536 ∧ p.seizePause < 65536 ∧ p.accessPause < 65536 ∧ p.commaPause < 65536 ∧
      p.bridge < 65536 ∧ p.blanking < 65536) ∧
    (let ns := List.replicate 16 (List.replicate 24 Symbol.star)
     ns.length ≤ 16 ∧ ∀ n ∈ ns, 1 ≤ n.length ∧ n.length ≤ 24) := ⟨desk_takes, by decide, by decide +kernel⟩
theorem witness_TariffOrders :
    desk.takesOrder 7 ∧
    (let es : List TariffEntry := [⟨3, 7, ⟨1023, 15, 15⟩⟩, ⟨0, 0, ⟨0, 0, 0⟩⟩]
     es ≠ [] ∧ es.length ≤ 8 ∧ es.Pairwise (fun e f => ¬(e.band = f.band ∧ e.zone = f.zone)) ∧
      ∀ e ∈ es, e.band ≤ 3 ∧ e.zone ≤ 7 ∧ e.cell.whole ≤ 1023 ∧ e.cell.fraction ≤ 15 ∧ e.cell.setup ≤ 15) :=
  ⟨desk_takes, by decide⟩
theorem witness_ClockOrders :
    desk.takesOrder 7 ∧
    (let points : List (Nat × Fin 4) := [(0, 1), (86399, 2)]
     points.length ≤ 6 ∧ (∀ p ∈ points, p.1 ≤ 86399) ∧ points.Pairwise (fun p q => p.1 < q.1)) ∧ 86399 ≤ 86399 ∧
    (16777215 < 16777216 ∧ 255 < 256 ∧ (86399 < 16777215 ∨ 6 < 255)) := ⟨desk_takes, by decide⟩
/-- Before the first switch point, and at the second one. -/
theorem witness_BandInEffect :
    let x : Schedule := ⟨3, [(100, 1), (86399, 2)]⟩
    x.points.Pairwise (fun p q => p.1 < q.1) ∧ (∀ p ∈ x.points, 99 < p.1) ∧
      ((86399, 2) ∈ x.points ∧ 86399 ≤ 86399 ∧ ∀ q ∈ x.points, q.1 ≤ 86399 → q.1 ≤ 86399) ∧
    let c : Clock := { Clock.initial with
      second := 86399, day := 6, schedules := #v[⟨0, []⟩, x], dayMap := #v[0, 0, 0, 0, 0, 0, 1] }
    fetch c.schedules (fetch c.dayMap c.day) = x := by decide
theorem witness_SecondEventAdvances :
    let x : Dest := { ready with state := .queued, eligible := some 0 }
    (∃ doc b, (sending x).job 0 = some ⟨doc, .send b, none⟩) ∧ (sending x).dest 0 0 = some x := ⟨⟨0, _, rfl⟩, rfl⟩
theorem witness_CorrectionIsPartsPerMillion : (-255 : Int) ≤ -255 ∧ (-255 : Int) ≤ 255 ∧ 124 ≤ 124 := by decide
theorem witness_BoundaryAndEligible :
    (((metered 30).meter 1).running = true ∧ ((metered 30).meter 1).timed = true) ∧
    (let x : Dest := { ready with state := .queued, eligible := some 3 }
     (sending x).job 0 = some ⟨0, .send (sendBody x), none⟩ ∧ (sendBody x).dests[(0 : Fin 16).val]? = some x ∧ x.state = .queued) := by
  decide +kernel

/-! ### Witnesses: orders on accounts, lines, documents and jobs -/

/-- A HELD destination whose account is OVER. -/
def holding : State := (sending { ready with state := .held }).setAccount 5 ⟨9, 9, true, false, .finish, 2⟩
/-- The account leaves OVER (limit 10), and the greatest limit. -/
theorem witness_AccountOrders :
    holding.takesOrder 7 ∧ 10 ≤ 16777215 ∧ 16777215 ≤ 16777215 ∧
      ((holding.account 5).isOver || (holding.account 5).blocked) = true ∧
      holding.job 0 = some ⟨0, .send (sendBody { ready with state := .held }), none⟩ ∧
      (sendBody { ready with state := .held }).account = 5 ∧
      (sendBody { ready with state := .held }).dests[0]? = some { ready with state := .held } :=
  ⟨takes _ _ (by decide +kernel), by decide +kernel⟩
theorem witness_TakeRecordsTakesOldest : desk.takesOrder 7 := desk_takes
theorem witness_LineOrders : (desk.setLine 3 { Line.initial with state := .ringing, retiring := true, rings := 2 }).takesOrder 7 :=
  takes _ _ (by decide +kernel)
/-- Channel 3 is unbound and document 1 the lowest free one; document 0 of channel 0 is CLOSED, in a sheet, and quiet. -/
theorem witness_OpenAndCloseDocument :
    desk.takesOrder 7 ∧
    ((desk.channel 3).binding = .unbound ∧ (desk.doc 1).isNone = true ∧ ∀ e : Fin 64, e < 1 → (desk.doc e).isSome = true) ∧
    (desk.doc 0 = some deskDoc ∧ deskDoc.kind = .scanned 0) ∧
    ((desk.setDoc 0 (some { deskDoc with isOpen := false })).doc 0 = some { deskDoc with isOpen := false }) ∧
    (((desk.setChannel 0 { Channel.idle with binding := .bound 0, sheet := .active }).channel 0).sheet ≠ .idle) ∧
    (deskDoc.isOpen = true ∧ deskDoc.closePending = false ∧ (desk.channel 0).sheet = .idle ∧ desk.quiet ∧ deskDoc.slots ≠ [] ∧
      (desk.channel 0).binding = .bound 0) :=
  ⟨desk_takes, by decide +kernel, by decide +kernel, by decide +kernel, by decide +kernel, by decide +kernel, by decide +kernel,
    by decide +kernel, desk_quiet, by decide +kernel, by decide +kernel⟩
/-- A CLOSED document 0 with a number of jobs. -/
def closedDoc (jobs : Nat) : Document := { deskDoc with isOpen := false, jobCount := jobs }
def closedDesk (jobs : Nat) : State :=
  { desk with store := { desk.store with docs := store base.store.docs 0 (some (closedDoc jobs)) }, scan := base.scan }
theorem closedDesk_replaces (jobs : Nat) : ∀ (c : ChannelNo) (e : Fin 64) (k : Nat) (p : Fin 256),
    ((closedDesk jobs).channel c).replacement = .pending e k ∨ ((closedDesk jobs).channel c).replacement = .filling e k p →
      e ≠ 0 := by
  have h : ∀ c : ChannelNo, (base.channel c).replacement = .none := by decide +kernel
  intro c e k p hc
  have h' : ((closedDesk jobs).channel c).replacement = .none := h c
  rw [h'] at hc
  rcases hc with hc | hc <;> cases hc
/-- Slot 0 can be replaced; a document with two jobs, and one with none, can be released. -/
theorem witness_ReplaceAndReleaseDocument :
    (desk.takesOrder 7 ∧ desk.doc 0 = some deskDoc ∧ 0 ≤ 127 ∧ deskDoc.kind = .scanned 0 ∧ deskDoc.slots[0]? = some 0 ∧
      deskDoc.released = false ∧ (desk.page 0).state ≠ .filling ∧ (desk.channel 0).replacement = .none ∧
      (desk.channel 0).binding = .bound 0) ∧
    ((closedDesk 2).takesOrder 7 ∧ (closedDesk 2).doc 0 = some (closedDoc 2) ∧ (closedDoc 2).isOpen = false ∧
      (closedDoc 2).closePending = false ∧ (closedDoc 2).released = false ∧ 0 < (closedDoc 2).jobCount) ∧
    ((closedDesk 0).takesOrder 7 ∧ (closedDesk 0).doc 0 = some (closedDoc 0) ∧ (closedDoc 0).isOpen = false ∧
      (closedDoc 0).closePending = false ∧ (closedDoc 0).released = false ∧ (closedDoc 0).jobCount = 0) ∧
    (∀ (c : ChannelNo) (e : Fin 64) (k : Nat) (p : Fin 256), ((closedDesk 0).channel c).replacement = .pending e k ∨
        ((closedDesk 0).channel c).replacement = .filling e k p → e ≠ 0) :=
  ⟨⟨desk_takes, by decide +kernel⟩, ⟨takes _ _ (by decide +kernel), by decide +kernel⟩,
    ⟨takes _ _ (by decide +kernel), by decide +kernel⟩, closedDesk_replaces 0⟩
theorem witness_ReadStoreReplies : desk.takesOrder 7 := desk_takes
/-- Indices at both ends of the checks: 63 and 127, 64 and 128, 31 and 15, 32 and 16. -/
theorem witness_ReadDocumentAndJob :
    holding.takesOrder 7 ∧ ((63 : Fin 64).val = 63 ∧ 127 ≤ 127 ∧ 63 < 256 ∧ 127 < 256) ∧ ((63 < 64 ∨ 127 < 128) ∧ 64 < 256 ∧ 128 < 256) ∧
      ((31 : Fin 32).val = 31 ∧ 15 ≤ 15) ∧ (31 < 32 ∨ 15 < 16) := ⟨takes _ _ (by decide +kernel), by decide⟩
/-- Document 0 and a route for every number. -/
def routed : State := { desk with routes := { desk.routes with entries := store desk.routes.entries 2 anyRoute, passing := true } }
theorem witness_SubmitSendCreatesJob :
    routed.takesOrder 7 ∧ routed.noPrinting ∧ (routed.doc 0 = some deskDoc ∧ deskDoc.released = false ∧
      (deskDoc.isOpen = true ∨ deskDoc.slots ≠ []) ∧ routed.job 0 = none ∧ (∀ i : Fin 32, i < 0 → routed.job i ≠ none) ∧
      (0 : Fin 32) ∉ routed.jobs.order ∧ 65535 < 65536 ∧ [number, [.digit 1, .pause]] ≠ [] ∧ [number, [.digit 1, .pause]].length ≤ 16 ∧
      [number, [.digit 1, .pause]].Nodup) ∧
    ∀ n ∈ [number, [.digit 1, .pause]], 1 ≤ n.length ∧ n.length ≤ 24 ∧ n ≠ routed.cfg.ownNumber ∧ ∃ i, matchNumber n routed = .entry i := by
  refine ⟨takes _ _ (by decide +kernel), noPrintingOf _ (by decide +kernel), by decide +kernel, ?_⟩
  intro n hn
  rcases List.mem_cons.1 hn with h | h
  · subst h; exact ⟨by decide, by decide, by decide +kernel, 2, by decide +kernel⟩
  · rw [List.mem_singleton.1 h]; exact ⟨by decide, by decide, by decide +kernel, 2, by decide +kernel⟩
/-- An OPEN document without slots. -/
def emptyDesk : State := desk.setDoc 0 (some { deskDoc with slots := [] })
/-- The all-white first line of desk's page, and the decoder behind it. -/
def whiteRaster : Raster := List.replicate 1024 false
def firstLine : DecodedLine := ⟨whiteRaster, 0, true, some .plain, [0x69, 0xCE, 0xE0], [1024]⟩
def afterFirst : Decoder := ⟨1024, some whiteRaster, 1, 3, false, none, false⟩
theorem desk_firstLine : desk.store.nextLine 0 (Decoder.start 1024) = (afterFirst, .line firstLine) := by decide +kernel
/-- Without a page; with one while paper is OUT; and with one whose first line is decoded. -/
theorem witness_SubmitPrintCreatesJob :
    emptyDesk.takesOrder 7 ∧ emptyDesk.noPrinting ∧ (emptyDesk.doc 0 = some { deskDoc with slots := [] } ∧ deskDoc.released = false ∧
      deskDoc.isOpen = true ∧ emptyDesk.job 0 = none ∧ (∀ i : Fin 32, i < 0 → emptyDesk.job i ≠ none) ∧
      (0 : Fin 32) ∉ emptyDesk.jobs.order ∧ ∀ k ∈ emptyDesk.store.claims, k.holder ≠ .print 0) ∧
    (let s : State := { desk with printer := { desk.printer with paperOut := true } }
     s.takesOrder 7 ∧ s.noPrinting ∧ s.doc 0 = some deskDoc ∧ deskDoc.slots ≠ [] ∧ s.printer.paperOut = true) ∧
    (desk.takesOrder 7 ∧ desk.noPrinting ∧ deskDoc.slots = 0 :: [] ∧ desk.printer.paperOut = false ∧ (desk.page 0).state = .sealed ∧
      desk.store.nextLine 0 (Decoder.start (desk.page 0).width) = (afterFirst, .line firstLine)) :=
  ⟨takes _ _ (by decide +kernel), noPrintingOf _ (by decide +kernel), by decide +kernel,
    ⟨takes _ _ (by decide +kernel), noPrintingOf _ (by decide +kernel), by decide +kernel⟩,
    desk_takes, desk_quiet.1, rfl, rfl, by decide +kernel, desk_firstLine⟩
theorem holding_owes : holding.noneOwed := by
  have h : ∀ j : Fin 32, (match holding.job j with | some ⟨_, .receive _, _⟩ => false | _ => true) = true := by decide +kernel
  intro j d b w hj
  have h' := h j
  rw [hj] at h'
  cases h'
theorem witness_CancelJobEndsJob :
    holding.takesOrder 7 ∧ holding.noPrinting ∧ holding.noneOwed ∧ (holding.link.reports.length ≤ 62 ∧
      holding.job 0 = some ⟨0, .send (sendBody { ready with state := .held }), none⟩ ∧
      (sendBody { ready with state := .held }).dests = [{ ready with state := .held }] ∧ holding.doc 0 = some jobDoc ∧
      jobDoc.released = false) :=
  ⟨takes _ _ (by decide +kernel), noPrintingOf _ (by decide +kernel), holding_owes, by decide +kernel⟩
/-- A CONNECTED line, a RINGING one that is RETIRING, a sheet in progress and a page in print. -/
def busy : State :=
  { ((calling .connected .none true).setLine 2 { Line.initial with state := .ringing, retiring := true }).setChannel 0
      { Channel.idle with sheet := .active, number := 9, expected := 4, limit := 6, binding := .bound 0 } with
    printer := { PrintChannel.initial with phase := .printing, job := some 3, sent := 7, credits := 2 },
    jobs := { (calling .connected .none true).jobs with slots := store (calling .connected .none true).jobs.slots 3 (some ⟨0, .print (.fresh 1 0 false), none⟩) } }
theorem witness_RestartClearsWork :
    busy.takesOrder 7 ∧ ((busy.line 1).releasable = true ∧ (busy.line 1).admission.isSome = true ∧ (busy.line 1).answered = true) ∧
      (busy.line 2).state = .ringing ∧ ((busy.line 0).releasable = false ∧ (busy.line 0).state ≠ .ringing) ∧
      (busy.channel 0).sheet ≠ .idle ∧
      (busy.printer.phase = .printing ∧ busy.printer.job = some 3 ∧ busy.job 3 = some ⟨0, .print (.fresh 1 0 false), none⟩) :=
  ⟨takes _ _ (by decide +kernel), by decide +kernel⟩

/-! ### Witnesses: the scan path -/

/-- Channel 0 takes a START: page record 1 is next. -/
theorem witness_SheetStartTakesPage :
    (desk.link.bytes = [] ∧ (desk.channel 0).sheet = .idle ∧ (desk.channel 0).replacement = .none) ∧
    ((2048 = 1024 ∨ 2048 = 1536 ∨ 2048 = 2048) ∧ desk.quiet ∧ (desk.channel 0).binding = .bound 0 ∧ desk.doc 0 = some deskDoc ∧
      deskDoc.slots.length < 128 ∧ desk.store.nextPage 1) ∧
    (let s := desk.setChannel 0 { Channel.idle with binding := .replaceOnly 0, replacement := .pending 0 0 }
     (s.quiet ∧ s.store.nextPage 1) ∧ s.link.bytes = [] ∧ (s.channel 0).sheet = .idle ∧ (s.channel 0).binding ≠ .unbound ∧
      (s.channel 0).replacement = .pending 0 0 ∧ s.doc 0 = some deskDoc ∧ deskDoc.slots[0]? = some 0) ∧
    ((desk.channel 1).sheet = .idle ∧ (desk.channel 1).replacement = .none ∧ (desk.channel 1).binding = .unbound) ∧
    (2047 < 65536 ∧ 2047 ≠ 1024 ∧ 2047 ≠ 1536 ∧ 2047 ≠ 2048) :=
  ⟨by decide +kernel, ⟨by decide, desk_quiet, by decide +kernel, by decide +kernel, by decide +kernel,
    nextPageOf _ _ (by decide +kernel)⟩, ⟨⟨quietOf _ (by decide +kernel), nextPageOf _ _ (by decide +kernel)⟩, by decide +kernel⟩,
    by decide +kernel, by decide⟩
/-- A sheet's channel: page record 0 is its page. -/
def sheet (st : SheetState) (expected limit : Nat) (staging : List Staged) (stop : Option Nat) (coder : CoderContext) : Channel :=
  { Channel.idle with
    binding := .bound 0, sheet := st, number := 9, width := 1024, expected := expected, limit := limit, staging := staging, endEntry := stop,
    coder := coder, sup := ⟨if st = .active then some .scan else none, 1, false⟩ }
/-- A FILLING page of document 0. -/
def filling (length : Nat) : Page := ⟨.filling, some (0, 0), true, 1024, .standard, 2, length, [0], 0, false, false, 0⟩
def scanning (x : Channel) (length : Nat) : State :=
  let s := desk.setChannel 0 x
  { s with store := { s.store with pages := store s.store.pages 0 (filling length) } }
/-- Three lines are staged, and three more may come. -/
def active : State := scanning (sheet .active 3 6 [] none .empty) 1
theorem witness_SheetEndStopsLines :
    (active.link.bytes = [] ∧ 65535 < 65536 ∧ (active.channel 0).sheet = .active ∧ (9 : Byte).toNat = (active.channel 0).number) ∧
    ((active.channel 0).sheet ≠ .active ∨ (8 : Byte).toNat ≠ (active.channel 0).number) ∧
    ((active.channel 0).sup.cls = some .scan ∧ (active.channel 0).sup.suspended = false) := by decide +kernel
theorem active_quiet : active.quiet := quietOf _ (by decide +kernel)
theorem witness_SheetAbortDiscardsPage :
    active.link.bytes = [] ∧ active.quiet ∧ ((active.channel 0).sheet ≠ .idle ∧ (9 : Byte).toNat = (active.channel 0).number ∧
      (active.channel 0).heldStart = none ∧ (active.channel 0).replacement = .none ∧ (active.channel 0).binding = .bound 0 ∧
      active.doc 0 = some deskDoc ∧ deskDoc.closePending = false ∧ (active.page (active.channel 0).page).state = .filling ∧
      (active.page (active.channel 0).page).mapped = true ∧ (active.page (active.channel 0).page).place = some (0, 0) ∧
      (∀ e ∈ active.store.claims, e.page = (active.channel 0).page → e.inUse = false) ∧
      deskDoc.slots = [] ++ [(active.channel 0).page] ∧ (active.channel 0).page ∉ ([] : List (Fin 256))) :=
  ⟨rfl, active_quiet, by decide +kernel⟩
/-- 128 bytes of pixels. -/
def lineBits : List Byte := List.replicate 128 0xA0
/-- Line 5, the last with a credit; line 3, the first; line 6, without one; line 4095; another sheet's line. -/
theorem witness_RasterStagesLine :
    (active.link.bytes = [] ∧ (active.channel 0).sheet = .active ∧ (9 : Byte).toNat = (active.channel 0).number) ∧
    (5 < 65536 ∧ 5 < 4095 ∧ (active.channel 0).expected ≤ 5 ∧ 5 < (active.channel 0).limit ∧ lineBits.length * 8 = (active.channel 0).width) ∧
    ((active.channel 0).expected ≤ 3 ∧ 3 < (active.channel 0).limit) ∧ (6 < 4095 ∧ (active.channel 0).limit ≤ 6) ∧ (4095 ≤ 4095) ∧
    ((active.channel 0).sheet ≠ .active ∨ (8 : Byte).toNat ≠ (active.channel 0).number) := by decide +kernel
def lineRaster : Raster := lineBits.flatMap byteBits
/-- A line with one missing before it, its page's block with room. -/
def waiting : State := scanning (sheet .active 6 9 [⟨5, lineRaster, 1⟩, ⟨6, lineRaster, 0⟩] none .empty) 7
/-- A line whose reference equals it, its page's block full; the free count is not above the reserve of 256. -/
def waitingFull : State := scanning (sheet .active 6 9 [⟨5, lineRaster, 0⟩] none ⟨some lineRaster, 4, 2⟩) 2048
theorem witness_CoderTurnServesChannel :
    (∀ c, (desk.channel c).waiting = false) ∧
    (waiting.quiet ∧ (arbiterOrder waiting.scan.lastServed).find? (fun k => (waiting.channel k).waiting) = some 0 ∧
      (waiting.channel 0).staging = [⟨5, lineRaster, 1⟩, ⟨6, lineRaster, 0⟩] ∧ (waiting.page (waiting.channel 0).page).state = .filling ∧
      7 + (codeLine 0 none true (substituteRaster 1024 none)).length ≤ 1 * 2048 ∧ waiting.store.mem.wf = true ∧
      waiting.store.blocksKept ∧ ∀ q, (waiting.page q).length ≤ (waiting.page q).chain.length * 2048) ∧
    (waitingFull.quiet ∧ (arbiterOrder waitingFull.scan.lastServed).find? (fun k => (waitingFull.channel k).waiting) = some 0 ∧
      (waitingFull.channel 0).staging = [⟨5, lineRaster, 0⟩] ∧ (waitingFull.page (waitingFull.channel 0).page).state = .filling ∧
      ¬2048 + (codeLine 2 (some lineRaster) true lineRaster).length ≤ 1 * 2048 ∧
      waitingFull.store.freeList.length ≤ waitingFull.cfg.reserve) :=
  ⟨by decide +kernel, ⟨quietOf _ (by decide +kernel), by decide +kernel, by decide +kernel, by decide +kernel, by decide +kernel, rfl,
    by unfold Store.blocksKept; decide +kernel, by decide +kernel⟩, quietOf _ (by decide +kernel), by decide +kernel⟩
/-- A sheet's end, one byte of its block being free. -/
def sheetEnding : State := scanning { sheet .ending 6 6 [] (some 0) ⟨some lineRaster, 4, 2⟩ with truncate := true } 2047
/-- The end of a replacement sheet for slot 0, whose page record 0 a claim has in use and another has not. -/
def replacing : State :=
  let y := { sheet .ending 6 6 [] (some 0) ⟨some lineRaster, 4, 2⟩ with page := 1, binding := .replaceOnly 0, replacement := .filling 0 0 1 }
  let g : Page := { filling 2047 with mapped := false, chain := [1], version := 1 }
  let s := desk.setChannel 0 y
  { s with store := { s.store with
      pages := store s.store.pages 1 g, freeList := [2, 3],
      claims := [⟨.dest 9 0, 0, 0, 0, true, false⟩, ⟨.dest 9 1, 0, 0, 0, false, false⟩] } }
/-- The page-end mark finds its block full, with one block above the reserve, and with none. -/
def sheetFull (reserve : Nat) : State :=
  { scanning (sheet .ending 6 6 [] (some 0) ⟨some lineRaster, 4, 2⟩) 2048 with cfg := { desk.cfg with reserve := reserve } }
/-- R34: the mark of a full page takes the block at the head of the free list, and reads back there as 0xC3. -/
theorem test_mark_takes_block :
    (match exec .coderTurn (sheetFull 2) with
      | .next t => decide ((t.page 0).chain = [0, 1] ∧ t.store.freeList = [2, 3] ∧ t.store.pageByte 0 2048 = 0xC3)
      | _ => false) = true := by decide +kernel
theorem witness_CoderTurnSealsPage :
    (sheetEnding.store.mem.wf = true ∧ sheetEnding.store.blocksKept ∧
      ∀ q, (sheetEnding.page q).length ≤ (sheetEnding.page q).chain.length * 2048) ∧
    (∀ r, r = 2 ∨ r = 3 → let s := sheetFull r
      s.quiet ∧ (arbiterOrder s.scan.lastServed).find? (fun e => (s.channel e).waiting) = some 0 ∧ (s.channel 0).staging = [] ∧
      (s.channel 0).endEntry = some 0 ∧ (s.channel 0).heldStart = none ∧ s.doc 0 = some deskDoc ∧ (s.page 0).state = .filling ∧
      (s.page 0).place = some (0, 0) ∧ ¬(s.page 0).length + 1 ≤ (s.page 0).chain.length * 2048) ∧
    ((sheetFull 2).store.mem.wf = true ∧ (sheetFull 2).store.blocksKept ∧
      (∀ q, ((sheetFull 2).page q).length ≤ ((sheetFull 2).page q).chain.length * 2048) ∧
      (sheetFull 2).cfg.reserve < (sheetFull 2).store.freeList.length ∧ (sheetFull 2).store.freeList = 1 :: [2, 3] ∧
      (sheetFull 3).store.freeList.length ≤ (sheetFull 3).cfg.reserve) ∧
    (replacing.quiet ∧ replacing.store.mem.wf = true ∧ replacing.store.blocksKept ∧
      (∀ q, (replacing.page q).length ≤ (replacing.page q).chain.length * 2048) ∧
    (let y := replacing.channel 0
     let g := replacing.page y.page
     (arbiterOrder replacing.scan.lastServed).find? (fun e => (replacing.channel e).waiting) = some 0 ∧ y.staging = [] ∧
      y.endEntry = some 0 ∧ y.replacement = .filling 0 0 y.page ∧ y.heldStart = none ∧ y.binding = .replaceOnly 0 ∧
      replacing.doc 0 = some deskDoc ∧ g.state = .filling ∧ g.place = some (0, 0) ∧ g.length + 1 ≤ g.chain.length * 2048 ∧
      g.mapped = false ∧ deskDoc.slots[0]? = some 0 ∧ 0 ≠ y.page ∧ (replacing.page 0).state = .sealed ∧
      ∀ e, (replacing.channel e).stalled = false)) ∧
    sheetEnding.quiet ∧
    (let y := sheetEnding.channel 0
     let g := sheetEnding.page y.page
     (arbiterOrder sheetEnding.scan.lastServed).find? (fun e => (sheetEnding.channel e).waiting) = some 0 ∧ y.staging = [] ∧
      y.endEntry = some 0 ∧ y.replacement = .none ∧ y.heldStart = none ∧ y.binding = .bound 0 ∧ sheetEnding.doc 0 = some deskDoc ∧
      deskDoc.closePending = false ∧ deskDoc.slots ≠ [] ∧ g.state = .filling ∧ g.place = some (0, 0) ∧ g.mapped = true ∧
      g.length + 1 ≤ g.chain.length * 2048) :=
  ⟨⟨by decide +kernel, by unfold Store.blocksKept; decide +kernel, by decide +kernel⟩,
    fun r h => by rcases h with rfl | rfl <;> exact ⟨quietOf _ (by decide +kernel), by decide +kernel⟩,
    ⟨by decide +kernel, by unfold Store.blocksKept; decide +kernel, by decide +kernel⟩,
    ⟨quietOf _ (by decide +kernel), by decide +kernel, by unfold Store.blocksKept; decide +kernel, by decide +kernel, by decide +kernel⟩,
    quietOf _ (by decide +kernel), by decide +kernel⟩

/-! ### Witnesses: routes, admission and lines -/

/-- Entry 2 matches every number, entry 4 bars 7, and entry 9 has entry 4's prefix. -/
def barring : Table Route 48 :=
  let r := { anyRoute with digits := [.digit 7], barred := true }
  store (store (store base.routes.entries 2 anyRoute) 4 r) 9 { r with barred := false }
theorem witness_LongestPrefixMatches :
    (matchEntry barring number = some 4 ∧ matchEntry barring [.digit 8] = some 2 ∧ matchEntry base.routes.entries number = none ∧
      ({ base with routes := { base.routes with entries := barring } } : State).routes.entries = barring ∧
      (fetch barring 2).digits.length < (fetch barring 4).digits.length ∧ (fetch barring 4).valid = true ∧
      (fetch barring 9).valid = true ∧ (fetch barring 4).digits = (fetch barring 9).digits ∧ (4 : Fin 48) < 9) := by decide +kernel
/-- A pass whose one candidate is destination 0 of job 0, under an account and a route. -/
def passing (x : Dest) (a : Account) (r : Route) : State :=
  let s := (sending x).setAccount 5 a
  { s with routes := { s.routes with entries := store s.routes.entries 2 r, candidates := [(0, 0)] } }
/-- Two destinations are READY: that of job 7 has the higher priority. -/
def twoReady : State :=
  let s := { sending ready with routes := { (sending ready).routes with passing := false } }
  s.setJob 7 (some ⟨0, .send { sendBody ready with priority := 2 }, none⟩)
/-- R99: priority 3 first. -/
theorem test_candidate_order : candidates twoReady = [(7, 0), (0, 0)] := by decide +kernel
/-- The first line of an IN-ORDER route; the second of a SPREAD one for a number with the last digit 1; an account that is OVER; a barred
route, with another destination unfinished; a route at its limit. -/
theorem witness_AdmissionPassPlaces :
    twoReady.routes.passing = false ∧
    (passing ready Account.initial anyRoute).noPrinting ∧
    (let s := passing ready Account.initial anyRoute
     s.routes.passing = true ∧ s.routes.candidates = [(0, 0)] ∧ s.job 0 = some ⟨0, .send (sendBody ready), none⟩ ∧
      (sendBody ready).dests[0]? = some ready ∧ matchNumber ready.number s = .entry 2 ∧ fetch s.routes.active 2 < anyRoute.limit ∧
      s.charges.reserved.length + s.charges.filled.length < 32 ∧ number = [.digit 7] ++ .digit 0 :: [] ∧
      anyRoute.lines = [] ++ 0 :: [1] ∧ (s.line 0).state = .idle ∧ (s.profile 0).seizePause ≠ 0) ∧
    (let r := { anyRoute with mode := .spread, lines := [5, 0, 1] }
     [Symbol.digit 1, .hash] = [] ++ .digit 1 :: [.hash] ∧ (∀ z, Symbol.digit z ∉ [Symbol.hash]) ∧
      r.lines.drop (1 % r.lines.length) ++ r.lines.take (1 % r.lines.length) = [0] ++ 1 :: [5]) ∧
    (let s := passing ready ⟨9, 9, true, false, .finish, 0⟩ anyRoute
     matchNumber ready.number s = .entry 2 ∧ (s.account 5).isOver = true) ∧
    (let s := passing ready Account.initial { anyRoute with barred := true }
     matchNumber ready.number s = .barred ∧ ∃ y ∈ [ready, ready].eraseIdx 0, y.state.isFinal = false) ∧
    (let s := passing ready Account.initial { anyRoute with limit := 0 }
     ¬fetch s.routes.active 2 < (fetch s.routes.entries 2).limit) ∧
    (passing { ready with state := .cancelled } Account.initial anyRoute).routes.candidates = [(0, 0)] :=
  ⟨by decide +kernel, noPrintingOf _ (by decide +kernel), by decide +kernel, by decide, by decide +kernel,
    ⟨by decide +kernel, ready, List.mem_singleton.2 rfl, rfl⟩, by decide +kernel, rfl⟩
/-- A line in a phase of its dialling. -/
def dialling (st : LineState) (ph : DialPhase) (position breaks : Nat) : State :=
  (calling st ph false).setLine 1 { (calling st ph false).line 1 with position := position, breaks := breaks }
/-- A line with access digits. -/
def withAccess (access : Number) (ph : DialPhase) (part : DialPart) (position : Nat) : State :=
  let s := dialling .dialing ph position 0
  s.setLine 1 { s.line 1 with part := part, admission := some { admission with access := access } }
theorem witness_DialPhasesFollow :
    ((dialling .seized .seizePause 0 0).line 1).admission = some admission ∧ (admission.access = [] ∧ admission.number = .digit 7 :: [.digit 0]) ∧
    (((dialling .seized .seizePause 0 0).profile 0).method = .tone ∧ ((dialling .seized .seizePause 0 0).profile 0).toneOn ≠ 0) ∧
    (((dialling .dialing .breakOn 0 4).line 1).cadence.phase = .breakOn ∧ ((dialling .dialing .breakOn 0 4).profile 0).makeTime ≠ 0) ∧
    (1 < ((dialling .dialing .makeOn 0 2).line 1).breaks ∧ ((dialling .dialing .makeOn 0 2).profile 0).breakTime ≠ 0) ∧
    (((dialling .dialing .makeOn 0 1).line 1).breaks = 1 ∧ ((dialling .dialing .makeOn 0 1).profile 0).interdigit ≠ 0) ∧
    ((dialling .dialing .toneOn 0 0).profile 0).toneOff ≠ 0 ∧
    (let x := (withAccess [.digit 9, .star] .toneOff .access 0).line 1
     x.state = .dialing ∧ x.part = .access ∧ [Symbol.digit 9, .star][x.position + 1]? = some .star) ∧
    (let s := withAccess [.digit 9, .star] .toneOff .access 1
     (s.line 1).position + 1 = 2 ∧ (s.profile 0).accessPause ≠ 0) ∧
    (let x := (withAccess [.digit 9] .accessPause .access 1).line 1
     x.state = .dialing ∧ x.cadence.phase = .accessPause) ∧
    (((dialling .dialing .toneOff 0 0).line 1).part = .number ∧ admission.number[1]? = some (.digit 0)) ∧
    (((dialling .dialing .toneOff 1 0).line 1).part = .number ∧
      ((dialling .dialing .toneOff 1 0).line 1).position + 1 = admission.number.length) := by decide +kernel
theorem witness_LineLostOrBusyEndsAttempt :
    (dialling .dialing .toneOn 0 0).noPrinting ∧
    (let s := dialling .dialing .toneOn 0 0
     (s.line 1).state = .dialing ∧ (s.line 1).admission = some admission ∧ (s.line 1).answered = false ∧
      s.job 0 = some ⟨0, .send (sendBody onLine), none⟩ ∧ (sendBody onLine).dests[0]? = some onLine ∧ onLine.line = some 1 ∧
      onLine.attempts < (sendBody onLine).attempts) := ⟨noPrintingOf _ (by decide +kernel), by decide +kernel⟩
/-- Line 3 in each state of the clauses. -/
theorem witness_LineEventsEnd :
    ((desk.setLine 3 { Line.initial with state := .releasing }).line 3).state = .releasing ∧ (desk.line 3).state ≠ .releasing ∧
    ((desk.setLine 3 { Line.initial with state := .ringing, retiring := true }).line 3).state = .ringing ∧ (desk.line 3).state ≠ .ringing ∧
    ((desk.setLine 3 { Line.initial with state := .answering }).line 3).state = .answering := by decide +kernel
/-- Line 3 RINGING, with the receive reserve below the free count. -/
def ringing (on after rings : Nat) (retiring : Bool) : State :=
  { desk.setLine 3 { Line.initial with state := .ringing, onCount := on, rings := rings, retiring := retiring, settings := ⟨after, 0, false, 0⟩ } with
    cfg := { desk.cfg with reserve := 1 } }
/-- No free job slot, no free document record, and no FREE page record. -/
def jobsTaken (s : State) : State :=
  { s with jobs := { s.jobs with slots := Vector.replicate 32 (some ⟨0, .receive ⟨0, false, none⟩, none⟩) } }
def docsTaken (s : State) : State := { s with store := { s.store with docs := Vector.replicate 64 (some deskDoc) } }
def pagesTaken (s : State) : State := { s with store := { s.store with pages := Vector.replicate 256 (filling 1) } }
/-- R117: of two conditions that fail the first in order is the cause, and a second failure of an episode reports nothing. -/
theorem test_refused_ring :
    (match exec (.ringEnd 3 1596) (docsTaken (pagesTaken (ringing 4 2 1 false))) with
      | .next t =>
        decide (t.link.reports.map QueuedReport.report = [.ringRefused 3 2 .noDocument]) &&
          (match exec (.ringEnd 3 1596) (t.setLine 3 { t.line 3 with onCount := 4 }) with
            | .next u => decide (u.link.reports = t.link.reports ∧ (u.line 3).rings = 3 ∧ (u.line 3).state = .ringing)
            | _ => false)
      | _ => false) = true := by decide +kernel
/-- A ring one frame too short, a ring of exactly the minimum, the answer-after count reached, and each cause of a refusal. -/
theorem witness_RingsAndAnswer :
    (let s := ringing 4 2 1 false
     s.store.freeList.length ≤ ({ s with cfg := { s.cfg with reserve := 3 } } : State).cfg.reserve ∧
      s.cfg.reserve < s.store.freeList.length ∧ (s.line 3).retiring = false ∧ s.job 0 = none ∧ s.doc 1 = none ∧
      (∀ j, (jobsTaken s).job j ≠ none) ∧ (∀ d, (docsTaken s).doc d ≠ none) ∧
      ∀ p, ((pagesTaken s).page p).state = .free → (pagesTaken s).store.isHeld p = true) ∧
    (desk.line 3).state = .idle ∧
    (let s := ringing 4 0 0 false
     (s.line 3).state = .ringing ∧ 0 < (s.line 3).onCount ∧ (s.line 3).onCount + 1595 < s.cfg.ringOnMinimum * 8 ∧
      s.cfg.ringOnMinimum * 8 ≤ (s.line 3).onCount + 1596 ∧ (s.line 3).settings.answerAfter = 0) ∧
    (let s := ringing 4 2 1 true
     s.cfg.ringOnMinimum * 8 ≤ (s.line 3).onCount + 1596 ∧ 0 < (s.line 3).settings.answerAfter ∧
      (s.line 3).settings.answerAfter ≤ min 255 ((s.line 3).rings + 1) ∧ (s.line 3).retiring = true ∧ (s.line 3).refused = false) ∧
    (let s := ringing 4 2 1 false
     ((s.line 3).retiring = false ∧ (s.line 3).settings.copies = 0 ∧ s.cfg.reserve < s.store.freeList.length ∧ s.job 0 = none ∧
      s.doc 1 = none ∧ (∀ e : Fin 64, e < 1 → s.doc e ≠ none) ∧ (0 : Fin 32) ∉ s.jobs.order ∧ (s.profile 0).blanking ≠ 0) ∧
      s.noPrinting ∧ s.store.nextPage 1) :=
  ⟨by decide +kernel, by decide +kernel, by decide +kernel, by decide +kernel, by decide +kernel, noPrintingOf _ (by decide +kernel),
    nextPageOf _ _ (by decide +kernel)⟩

/-! ### Witnesses: the call procedure -/

def remote : Abilities := ⟨2048, false, true, 6, 4, List.replicate 20 65⟩
/-- Line 1 waits for the remote ABILITY. -/
def waitAbility : State := talking { Proc.idle with phase := .waitAbility, sup := ⟨some .answer, 1, false⟩ } false
/-- Line 1 waits for the outcome of a trial at a rate. -/
def waitTrial (rate : Nat) : State :=
  talking { Proc.idle with phase := .waitTrial, remote := some remote, settings := ⟨1024, .standard, true, rate, 3⟩, page := some 0, sup := ⟨some .message, 1, false⟩ } true
theorem witness_CallerTakesAbilityAndTrial :
    waitAbility.noPrinting ∧
    (let s := waitAbility
     (s.line 1).admission = some admission ∧ (s.slot 1).closing = none ∧ (s.proc 1).phase = .waitAbility ∧ (s.proc 1).settings.rate = 0 ∧
      remote.maxWidth = 2048 ∧ 1 ≤ remote.maxRate ∧ remote.maxRate ≤ 6 ∧ remote.lineTime ≤ 4 ∧ remote.name.length ≤ 20 ∧
      s.job 0 = some ⟨0, .send (sendBody onLine), none⟩ ∧ s.doc 0 = some jobDoc ∧ jobDoc.slots[(s.proc 1).slot]? = some 0 ∧
      (s.page 0).state = .sealed ∧ (s.page 0).width ≤ remote.maxWidth) ∧
    (waitTrial 2).noPrinting ∧
    (let s := waitTrial 2
     (s.line 1).admission = some admission ∧ (s.slot 1).closing = none ∧ (s.proc 1).phase = .waitTrial ∧ (s.proc 1).remote = some remote ∧
      s.job 0 = some ⟨0, .send (sendBody onLine), none⟩ ∧ s.store.slotPage 0 (s.proc 1).slot = some 0 ∧ 1 < (s.proc 1).settings.rate) ∧
    (waitTrial 1).noPrinting ∧
    (let s := waitTrial 1
     (s.proc 1).settings.rate ≤ 1 ∧ s.store.usedClaim (.dest 0 0) = none) :=
  ⟨noPrintingOf _ (by decide +kernel), by decide +kernel, noPrintingOf _ (by decide +kernel), by decide +kernel,
    noPrintingOf _ (by decide +kernel), by decide +kernel⟩
def received (slots : List (Fin 256)) (held : Option (Fin 256)) : Document := ⟨.received 3, true, false, slots, [], held, false, 1⟩
/-- Line 3 waits for the call's first CHOICE. -/
def waitChoice : State := receiving { Proc.idle with phase := .waitChoice, sup := ⟨some .message, 0, false⟩ } [] (some 5) Page.blank
def best : Settings := ⟨2048, .fine, true, 6, 4⟩
/-- A CHOICE at every limit, and one that is too wide. -/
theorem witness_CalledTakesChoiceAndTrial :
    waitChoice.quiet ∧
    (let s := waitChoice
     (s.proc 3).phase = .waitChoice ∧ (s.line 3).receive = some (4, 2) ∧ s.doc 2 = some (received [] (some 5)) ∧
      (received [] (some 5)).held = some 5 ∧ (s.page 5).state = .free ∧ best.width ≤ s.cfg.maxWidth ∧ s.cfg.fine = true ∧
      s.cfg.delta = true ∧ best.rate ≤ s.cfg.maxRate ∧ best.lineTime ≤ 4 ∧ (List.replicate 20 (65 : Byte)).length ≤ 20) ∧
    (2049 < 65536 ∧ waitChoice.cfg.maxWidth < 2049 ∧ (waitChoice.proc 3).sup = ⟨some .message, 0, false⟩) ∧
    ((receiving { Proc.idle with phase := .judging } [5] none (.taken 2048 .fine 2 0 true 0)).proc 3).phase = .judging :=
  ⟨quietOf _ (by decide +kernel), by decide +kernel⟩
/-- Line 1 sends page data: the recoder has read the page's mark and is inside its first line, or has the page before it. -/
def sendingData (buffer : List Byte) (atEnd : Bool) (d : Decoder) : State :=
  (waitTrial 4).setProc 1 { (waitTrial 4).proc 1 with
    phase := .sending, recoder := { Recoder.idle with active := true, buffer := buffer, atEnd := atEnd, decoder := d }, sup := .off }
def lastByte : State := (sendingData [0xC3] true afterFirst).setDoc 0 (some (closedDoc 1))
/-- Page record 0 still FILLING behind its first line. -/
def behindScan : State :=
  let s := sendingData [1] false afterFirst
  { s with store := { s.store with pages := store s.store.pages 0 { sealedPage with state := .filling, length := 3 } } }
/-- A page of two lines, in HALVE: the second is decoded and not sent. -/
def halving : State :=
  let s := sendingData [1] false { afterFirst with index := 1, place := 3 }
  { s with store := { s.store with
      mem := [(0, 0x69), (1, 0xCE), (2, 0xE0), (3, 0x5A), (4, 0x5A), (5, 0xC3)], pages := store s.store.pages 0 { sealedPage with length := 6 } } }
def handing (out : List OutItem) : State := (waitTrial 4).setSlot 1 { Slot.initial with out := out, command := .sendMessage }
theorem witness_BytesGoOut :
    (let s := sendingData [3, 4] false (.start 1024)
     (s.slot 1).handed = false ∧ (s.slot 1).out = [] ∧ (s.proc 1).phase = .sending ∧ (s.proc 1).recoder.buffer = 3 :: 4 :: []) ∧
    ((sendingData [] false (.start 1024)).proc 1).recoder.buffer = [] ∧
    (let s := sendingData [1] false (.start 1024)
     (s.slot 1).handed = false ∧ (s.slot 1).out = [] ∧ (s.proc 1).recoder.buffer = [1] ∧ (s.proc 1).recoder.atEnd = false ∧
      s.store.nextLine (s.proc 1).recoder.page (s.proc 1).recoder.decoder = (afterFirst, .line firstLine) ∧
      (s.proc 1).recoder.mode ≠ .halve ∧ firstLine.index % 2 = 0) ∧
    (let s := halving
     let d : Decoder := { afterFirst with index := 2, place := 4 }
     s.store.nextLine 0 (s.proc 1).recoder.decoder = (d, .line ⟨whiteRaster, 1, true, some .repeatLine, [0x5A], []⟩) ∧
      s.store.nextLine 0 d = ({ d with index := 3, place := 5 }, .line ⟨whiteRaster, 2, true, some .repeatLine, [0x5A], []⟩)) ∧
    (let s := sendingData [1] false afterFirst
     s.store.nextLine 0 afterFirst = ({ afterFirst with place := 4, ended := true }, .finished)) ∧
    (behindScan.store.nextLine 0 afterFirst = (afterFirst, .waiting)) ∧
    (let s := lastByte
     (s.slot 1).handed = false ∧ (s.slot 1).out = [] ∧ (s.proc 1).phase = .sending ∧ (s.proc 1).recoder.buffer = [0xC3] ∧
      (s.proc 1).recoder.atEnd = true ∧ (s.line 1).admission = some admission ∧ (s.proc 1).page = some 0 ∧
      s.job 0 = some ⟨0, .send (sendBody onLine), none⟩ ∧
      s.doc 0 = some (closedDoc 1) ∧ (closedDoc 1).isOpen = false ∧ (closedDoc 1).slots.length ≤ (s.proc 1).slot + 1) ∧
    ((handing [.byte 4, .endMessage]).slot 1).out = .byte 4 :: [.endMessage] ∧
    ((handing [.endMessage, .trial 4]).slot 1).out = .endMessage :: [.trial 4] ∧ ((handing [.trial 4]).slot 1).out = .trial 4 :: [] ∧
    (((handing []).slot 1).out = [] ∧ ((handing []).line 1).state = .connected ∧ ((handing []).proc 1).phase ≠ .sending) ∧
    (let s := (handing [.byte 4]).setSlot 1 { (handing [.byte 4]).slot 1 with handed := true }
     (s.slot 1).handed = true) := by
  decide +kernel
/-- The received page. -/
def receivedPage (length : Nat) : Page := { Page.taken 1024 .standard 2 0 true 0 with chain := [1], length := length, lines := 1 }
/-- Line 3 in a phase of its page. -/
def pageIn (d : Decoder) (ph : Phase) (bad resends length : Nat) : State :=
  receiving { Proc.idle with
    phase := ph, settings := ⟨1024, .standard, true, 6, 0⟩, page := some 5, bad := bad, resends := resends, checker := ⟨d, 0⟩,
    sup := ⟨some .data, 2, false⟩ } [5] none (receivedPage length)
/-- An all-white line of 1024 pixels, coded. -/
def whiteLine : List Byte := codeLine 0 none true (List.replicate 1024 false)
def lastOfLine : Decoder := ((Decoder.start 1024).feedAll whiteLine.dropLast).1
/-- The last block is full and no block is free. -/
def storeFull (d : Decoder) : State :=
  let s := pageIn d .receiving 0 0 2048
  { s with store := { s.store with freeList := [] } }
theorem witness_ReceivedPageIsStored :
    ((pageIn (.start 1024) .receiving 0 0 10).page 5).state = .filling ∧ ((pageIn (.start 1024) .receiving 0 0 10).proc 3).page = some 5 ∧
    ((Decoder.start 1024).feed 0x69).2 = .none ∧
    ((lastOfLine.feed (whiteLine.getLastD 0)).2 = .line firstLine ∧ firstLine.kind = some .plain ∧ 0 < 4095 ∧
      2045 + (codedLine .plain firstLine.runs).length ≤ (receivedPage 2045).chain.length * 2048 ∧ (receivedPage 2045).chain.Nodup ∧
      (pageIn lastOfLine .receiving 0 0 2045).store.mem.wf = true) ∧
    ((Decoder.start 1024).feed 0x11).2 = .line ⟨whiteRaster, 0, false, none, [0x11], []⟩ ∧
    ((pageIn lastOfLine .receiving 0 0 2046).store.freeList = 2 :: [3] ∧
      (receivedPage 2046).chain.length * 2048 < 2046 + (codedLine .plain firstLine.runs).length) ∧
    ((storeFull lastOfLine).quiet ∧ (storeFull lastOfLine).store.freeList = [] ∧
      ∀ k ∈ (storeFull lastOfLine).store.claims, k.page = 5 → k.inUse = false) ∧
    ((Decoder.start 1024).line = none ∧ (receivedPage 2047).length + 1 ≤ (receivedPage 2047).chain.length * 2048) ∧
    ((pageIn (.start 1024) .waitPageEnd 16 1 10).quiet ∧ ((pageIn (.start 1024) .waitPageEnd 16 1 10).proc 3).phase = .waitPageEnd ∧
      ((pageIn (.start 1024) .waitPageEnd 16 1 10).page 5).mapped = true ∧
      ((pageIn (.start 1024) .waitPageEnd 16 1 10).proc 3).bad ≤ (pageIn (.start 1024) .waitPageEnd 16 1 10).cfg.acceptLimit) ∧
    ((2 : Byte).toNat ≤ 2 ∧ (pageIn (.start 1024) .waitPageEnd 17 1 10).noPrinting ∧
      (pageIn (.start 1024) .waitPageEnd 17 1 10).cfg.acceptLimit < ((pageIn (.start 1024) .waitPageEnd 17 1 10).proc 3).bad ∧
      ((pageIn (.start 1024) .waitPageEnd 17 1 10).proc 3).resends < 2) :=
  ⟨by decide +kernel, by decide +kernel, by decide +kernel, by decide +kernel, by decide +kernel, by decide +kernel,
    ⟨quietOf _ (by decide +kernel), by decide +kernel⟩, by decide +kernel,
    ⟨quietOf _ (by decide +kernel), by decide +kernel⟩, by decide, noPrintingOf _ (by decide +kernel), by decide +kernel⟩
/-- Line 1 waits for a verdict, its claim in use. -/
def judged (k : PageEndKind) (sends : Nat) (a : Account) : State :=
  let s := talking { Proc.idle with
    phase := .waitVerdict, remote := some remote, settings := ⟨1024, .standard, true, 4, 3⟩, page := some 0, sends := sends, pageEnd := some k,
    sup := ⟨some .message, 1, false⟩ } true
  { s with store := { s.store with claims := [⟨.dest 0 0, 0, 0, 0, true, false⟩] }, accounts := store s.accounts 5 a }
/-- The same with a second page in the document, under a policy, at a rate. -/
def twoPages (k : PageEndKind) (sends rate : Nat) (policy : RestartPolicy) : State :=
  let s := judged k sends Account.initial
  let s := s.setProc 1 { s.proc 1 with settings := ⟨1024, .standard, true, rate, 4⟩ }
  let s := s.setJob 0 (some ⟨0, .send { sendBody onLine with policy := policy }, none⟩)
  let s := s.setDoc 0 (some { jobDoc with slots := [0, 1] })
  { s with store := { s.store with
      pages := store s.store.pages 1 { sealedPage with place := some (0, 1), chain := [1] }, freeList := [2, 3],
      claims := s.store.claims ++ [⟨.dest 0 0, 0, 1, 1, false, false⟩] } }
theorem witness_VerdictsAreTaken :
    (judged .last 3 ⟨9, 9, true, false, .cut, 1⟩).noPrinting ∧
    (let s := judged .last 3 ⟨9, 9, true, false, .cut, 1⟩
     (s.proc 1).phase = .waitVerdict ∧ (s.line 1).admission = some admission ∧ s.job 0 = some ⟨0, .send (sendBody onLine), none⟩ ∧
      (sendBody onLine).dests[0]? = some onLine ∧ onLine.state = .onLine ∧
      (⟨.dest 0 0, 0, (s.proc 1).slot, 0, true, false⟩ : Claim) ∈ s.store.claims ∧
      (∀ k ∈ s.store.claims, k.holder = .dest 0 0 → k.inUse = true → k = ⟨.dest 0 0, 0, (s.proc 1).slot, 0, true, false⟩) ∧
      (s.page 0).state = .sealed ∧ (s.page 0).mapped = true ∧ (s.proc 1).pageEnd = some .last ∧ s.cfg.resendLimit < (s.proc 1).sends) ∧
    (let s := judged .next 1 ⟨9, 9, true, false, .cut, 1⟩
     (s.proc 1).pageEnd = some .next ∧ (s.account 5).isOver = true ∧ (s.account 5).policy = .cut ∧
      (s.proc 1).sends ≤ s.cfg.resendLimit) ∧
    (twoPages .next 2 1 .whole).noPrinting ∧
    (let s := twoPages .next 2 1 .whole
     (s.proc 1).remote = some remote ∧ s.doc 0 = some { jobDoc with slots := [0, 1] } ∧
      ¬((s.account 5).isOver = true ∧ (s.account 5).policy = .cut) ∧ (s.page 1).state = .sealed ∧
      (s.proc 1).settings.width = (s.page 1).width ∧ (s.proc 1).settings.resolution = (s.page 1).resolution ∧
      (∀ k ∈ s.store.claims, k.holder = .dest 0 0 → k.inUse = true → k = ⟨.dest 0 0, 0, (s.proc 1).slot, 0, true, false⟩) ∧
      (s.proc 1).sends ≤ s.cfg.resendLimit ∧ (s.proc 1).settings.rate = 1) ∧
    (let s := twoPages .new 2 4 .resume
     (s.proc 1).pageEnd = some .new ∧ (s.page 1).width ≤ remote.maxWidth ∧ (s.proc 1).settings.rate ≠ 0 ∧ 1 < (s.proc 1).settings.rate) :=
  ⟨noPrintingOf _ (by decide +kernel), by decide +kernel, by decide +kernel, noPrintingOf _ (by decide +kernel), by decide +kernel,
    by decide +kernel⟩
/-- Line 1 with its CLOSE in hand. -/
def closingCall : State := (talking Proc.idle true).setSlot 1 { Slot.initial with closing := some ⟨.width, 2, [65]⟩ }
/-- Line 1 waits under the PAGE class. -/
def holdingCall : State :=
  (judged .next 1 Account.initial).setProc 1 { (judged .next 1 Account.initial).proc 1 with phase := .holding, sup := ⟨some .page, 0, false⟩ }
theorem witness_CallsEnd :
    ((closingCall.line 1).state = .connected ∧ (closingCall.slot 1).closing = some ⟨.width, 2, [65]⟩ ∧
      (closingCall.line 1).admission = some admission ∧ (closingCall.line 1).answered = true) ∧
    (let s := judged .next 1 Account.initial
     (s.line 1).state = .connected ∧ (s.proc 1).phase ≠ .idle ∧ (s.proc 1).role = .caller ∧ (s.proc 1).sup.cls = some .message) ∧
    (let s := pageIn (.start 1024) .receiving 0 0 10
     (s.line 3).state = .connected ∧ (s.proc 3).phase ≠ .idle ∧ (s.proc 3).role = .called ∧ (s.line 3).admission = none ∧
      (s.proc 3).sup.cls = some .data) ∧
    ((waitAbility.line 1).state = .connected ∧ (waitAbility.line 1).answered = false ∧ (waitAbility.proc 1).sup.cls = some .answer) ∧
    (let s := receiving { Proc.idle with phase := .waitClose, sup := ⟨some .message, 0, false⟩ } [5] none (receivedPage 10)
     (s.proc 3).sup.cls = some .message ∧ (s.proc 3).role = .called ∧ (s.line 3).admission = none ∧ (s.proc 3).phase = .waitClose) ∧
    ((holdingCall.line 1).state = .connected ∧ (holdingCall.proc 1).sup.cls = some .page) := by decide +kernel
/-- Channel 0 waits under SCAN. -/
def silent : State := scanning { sheet .active 3 6 [] none .empty with sup := ⟨some .scan, 1, false⟩ } 1
/-- Line 1 has waited two ticks for a verdict. -/
def oldWait : State :=
  let s := judged .next 1 Account.initial
  s.setProc 1 { s.proc 1 with sup := ⟨some .message, 2, false⟩ }
/-- A line is ready for the printer. -/
def printing : State :=
  { desk with printer := { PrintChannel.initial with phase := .printing, sup := ⟨some .print, 1, false⟩, ready := some (3, lineRaster) } }
theorem witness_WaitsAndTicks :
    ((∀ b rest, [(0 : Byte), 1] = b :: rest → b = 0 ∨ 8 < b.toNat) ∧ [(1 : Byte)] ≠ [] ∧
      (∀ w v a b r t n name, [8, 0, 1, 2, 6, 0, (0 : Byte)] = [w, v, a, b, r, t, n] ++ name →
        1 < a.toNat ∨ 1 < b.toNat ∨ 20 < n.toNat ∨ n.toNat ≠ name.length) ∧
      (∀ k, [(3 : Byte)] = [k] → 2 < k.toNat) ∧ (∀ v, [(2 : Byte)] = [v] → 1 < v.toNat) ∧ ([] : List Byte).length ≠ 1 ∧
      (judged .next 1 Account.initial).noPrinting ∧ ((judged .next 1 Account.initial).proc 1).phase ≠ .idle) ∧
    (∀ l, ((judged .next 1 Account.initial).proc l).sup.cls = some .message → ((judged .next 1 Account.initial).proc l).sup.age < 2) ∧
    (∀ c, (silent.channel c).sup.cls = some .scan → (silent.channel c).sup.suspended = false → (silent.channel c).sup.age < 2) ∧
    ((oldWait.proc 1).sup.cls = some .message ∧ 2 ≤ (oldWait.proc 1).sup.age ∧
      ∀ m, m ≠ 1 → (oldWait.proc m).sup.cls ≠ some .message) ∧
    (printing.printer.sup.cls = some .print ∧ printing.printer.sup.age < 2) := by
  refine ⟨⟨?_, by decide, ?_, ?_, ?_, by decide, noPrintingOf _ (by decide +kernel), by decide +kernel⟩, by decide +kernel, by decide +kernel,
    by decide +kernel, by decide +kernel⟩
  · intro b rest h
    injection h with h _
    exact .inl h.symm
  · intro w v a b r t n name h
    simp only [List.cons_append, List.nil_append, List.cons.injEq] at h
    obtain ⟨-, -, -, rfl, -⟩ := h
    exact .inr (.inl (by decide))
  · intro k h
    injection h with h
    subst h
    decide
  · intro v h
    injection h with h
    subst h
    decide

/-! ### Witnesses: the print path and the transmitter -/

def printBody : PrintJob := ⟨8, 3, false, false, 1, 0, 0, false⟩
/-- Job 3 prints document 0: its page is in hand, its claim in use, and the frame in hand has begun to leave. -/
def atPage (b : PrintJob) (doc : Document) (d : Decoder) : State :=
  { desk with
    store := { desk.store with docs := store desk.store.docs 0 (some doc), claims := [⟨.print 3, 0, 0, 0, true, false⟩] },
    printer := { PrintChannel.initial with
      phase := .printing, job := some 3, page := some 0, decoder := d, started := true, frames := [.printLine 2 lineRaster], credits := 1 },
    jobs := { desk.jobs with slots := store desk.jobs.slots 3 (some ⟨0, .print b, none⟩), order := [3] } }
/-- The job at the last of its two copies. -/
def lastCopy : PrintJob := ⟨2, 3, false, false, 2, 0, 1, false⟩
theorem atPage_owes (b : PrintJob) (doc : Document) (d : Decoder) : (atPage b doc d).noneOwed := by
  have h : ∀ j : Fin 32, j ≠ 3 → (atPage b doc d).job j = none := by
    intro j hj
    have : ∀ k : Fin 32, k ≠ 3 → desk.job k = none := by decide +kernel
    rw [← this j hj]
    simp only [atPage, State.job, fetch_store]
    rw [if_neg (fun h => hj h)]
  intro j e r w hj
  by_cases hk : j = 3
  · subst hk
    have : (atPage b doc d).job 3 = some ⟨0, .print b, none⟩ := by simp [atPage, State.job]
    rw [this] at hj
    cases hj
  · rw [h j hk] at hj
    cases hj
theorem witness_PrinterCreditsPaceLines :
    (let s := atPage lastCopy (closedDoc 1) (.start 1024)
     s.printer.started = true ∧ s.printer.frames = [.printLine 2 lineRaster] ∧ s.printer.ready = none ∧ s.printer.page = some 0 ∧
      s.store.nextLine 0 s.printer.decoder = (afterFirst, .line firstLine)) ∧
    (let s := atPage lastCopy (closedDoc 1) afterFirst
     s.store.nextLine 0 s.printer.decoder = ({ afterFirst with place := 4, ended := true }, .finished) ∧ s.printer.job = some 3 ∧
      s.job 3 = some ⟨0, .print lastCopy, none⟩ ∧ (∀ i, i ≠ 3 → s.printJob i = none) ∧ (3 : Fin 32) ∈ s.jobs.order ∧
      s.doc 0 = some (closedDoc 1) ∧ (closedDoc 1).slots.length = lastCopy.slot + 1 ∧
      (⟨.print 3, 0, 0, 0, true, false⟩ : Claim) ∈ s.store.claims ∧
      (∀ k ∈ s.store.claims, k.holder = .print 3 → k.inUse = true → k = ⟨.print 3, 0, 0, 0, true, false⟩) ∧
      (s.page 0).state = .sealed ∧ (s.page 0).mapped = true ∧ (closedDoc 1).isOpen = false ∧ lastCopy.copies ≤ lastCopy.copy ∧
      lastCopy.copies ≤ lastCopy.completed + 1 ∧ lastCopy.autoRelease = false ∧ (closedDoc 1).released = false ∧
      s.link.reports.length < 64) ∧
    (atPage lastCopy (closedDoc 1) afterFirst).noneOwed ∧
    ((atPage printBody deskDoc afterFirst).doc 0 = some deskDoc ∧ deskDoc.isOpen = true ∧ deskDoc.slots.length = printBody.slot + 1) ∧
    (desk.link.bytes = [] ∧ desk.noPrinting) ∧ (1 : Byte) ≠ 0 ∧
    (printing.link.bytes = [] ∧ printing.printer.phase = .printing ∧ printing.printer.stopping = false ∧ printing.printer.paused = false ∧
      printing.printer.ready = some (3, lineRaster) ∧ printing.printer.frames = [] ∧ printing.printer.sup.cls = some .print) ∧
    (let x : PrintChannel := { printing.printer with started := true, frames := [.printLine 2 lineRaster], credits := 1 }
     x.started = true ∧ x.frames = [.printLine 2 lineRaster] ∧ x.phase = .printing ∧ x.ready = some (3, lineRaster) ∧ 0 < x.credits) ∧
    (let s : State := { desk with printer := { PrintChannel.initial with started := true, frames := [.printLine 2 lineRaster] } }
     s.printer.started = true ∧ s.printer.frames = .printLine 2 lineRaster :: [] ∧ s.noPrinting ∧ s.printer.stopping = false) :=
  ⟨by decide +kernel, by decide +kernel, atPage_owes _ _ _, by decide +kernel, ⟨rfl, desk_quiet.1⟩, by decide, by decide +kernel,
    by decide +kernel, rfl, rfl, noPrintingOf _ (by decide +kernel), rfl⟩
/-- Job 3 prints document 0, with its claim on the page. -/
def printJob (out : Bool) (ph : PrintPhase) (claim : Claim) : State :=
  { desk with
    store := { desk.store with claims := [claim] },
    printer := { PrintChannel.initial with phase := ph, job := some 3, page := some 0, paperOut := out, credits := 5 },
    jobs := { desk.jobs with slots := store desk.jobs.slots 3 (some ⟨0, .print printBody, none⟩), order := [3] } }
/-- Page record 0 replaced by record 1 while in print: VOID, and held by the claim in use alone. -/
def replacedInPrint : State :=
  let s := printJob false .printing ⟨.print 3, 0, 0, 0, true, false⟩
  { s with store := { s.store with
      pages := store (store s.store.pages 0 { sealedPage with state := .void, mapped := false, place := none }) 1
        { sealedPage with chain := [1], version := 1 },
      freeList := [2, 3], docs := store s.store.docs 0 (some { deskDoc with slots := [1] }) } }
theorem witness_PaperStatesAreTaken :
    (desk.link.bytes = [] ∧ desk.printer.paperOut = false ∧ desk.printer.phase ≠ .printing) ∧
    (({ desk with printer := { PrintChannel.initial with paperOut := true } } : State).noPrinting) ∧
    (let s := printJob false .printing ⟨.print 3, 0, 0, 0, true, false⟩
     s.link.bytes = [] ∧ s.job 3 = some ⟨0, .print printBody, none⟩ ∧ (∀ i, i ≠ 3 → s.printJob i = none) ∧ (3 : Fin 32) ∈ s.jobs.order ∧
      printBody.priority ≤ 3 ∧ s.doc 0 = some deskDoc ∧ deskDoc.slots[printBody.slot]? = some 0 ∧ (s.page 0).state = .sealed ∧
      s.printer.paperOut = false ∧ s.printer.phase = .printing ∧ s.printer.job = some 3 ∧ s.printer.stopping = false ∧
      (⟨.print 3, 0, printBody.slot, 0, true, false⟩ : Claim) ∈ s.store.claims ∧
      (∀ k ∈ s.store.claims, k.holder = .print 3 → k.inUse = true → k = ⟨.print 3, 0, printBody.slot, 0, true, false⟩) ∧
      (s.page 0).mapped = true) ∧
    (let s := replacedInPrint
     (s.page 0).state = .void ∧ (s.page 0).mapped = false ∧ (0 : Fin 256) ≠ 1 ∧ s.doc 0 = some { deskDoc with slots := [1] } ∧
      (s.page 1).state = .sealed ∧ ∀ k ∈ s.store.claims, k.page = 0 → k = ⟨.print 3, 0, printBody.slot, 0, true, false⟩) ∧
    (let s := printJob true .waitPage ⟨.print 3, 0, 0, 0, false, false⟩
     s.printer.paperOut = true ∧ s.printer.phase = .waitPage ∧ s.job 3 = some ⟨0, .print printBody, none⟩ ∧
      s.store.nextLine 0 (Decoder.start (s.page 0).width) = (afterFirst, .line firstLine)) :=
  ⟨by decide +kernel, noPrintingOf _ (by decide +kernel), by decide +kernel, by decide +kernel, by decide +kernel⟩
/-- A reply with no order waiting, with one order, with several, and with a repeat; a CREDIT frame for station 4; a printer frame; a
report. -/
theorem witness_TransmitSelectsInOrder :
    (desk.link.orders = [] ∧ ({ desk.link with replies := [oldReply] } : Link).replies = oldReply :: []) ∧
    (let o : Order := ⟨7, 28, []⟩
     let rest := [oldReply, oldReply, oldReply]
     (fullDesk [.order o]).link.replies = oldReply :: rest ∧ (fullDesk [.order o]).link.inHand = none ∧ rest.length = 3 ∧
      orderOfCommand (.readStore 7 []) = some o ∧ (fullDesk [.order o]).link.last = none ∧
      (fullDesk [.order o, .order o]).link.orders = .order o :: [.order o] ∧
      (fullDesk [.again 7 oldReply]).link.orders = .again 7 oldReply :: []) ∧
    (let credits := store desk.link.credits 2 (some ⟨3, 7, 3, false⟩)
     desk.link.replies = [] ∧ fetch credits 2 = some ⟨3, 7, 3, false⟩ ∧ ∀ e, e < 2 → fetch credits e = none) ∧
    ((∀ c, fetch desk.link.credits c = none) ∧
      ({ desk.printer with frames := [.printLine 2 lineRaster] } : PrintChannel).frames = .printLine 2 lineRaster :: [] ∧
      desk.printer.started = false ∧ desk.printer.frames = [] ∧
      ({ desk.link with reports := [⟨.recordsWaiting 3 2, true⟩] } : Link).reports = ⟨.recordsWaiting 3 2, true⟩ :: []) ∧
    (∀ (j : Fin 32) (x : Job), desk.job j = some x → x.waiting = none) := by
  refine ⟨⟨rfl, rfl⟩, ⟨rfl, rfl, rfl, rfl, rfl, rfl, rfl⟩, by decide +kernel, ⟨by decide +kernel, rfl, rfl, rfl, rfl⟩, ?_⟩
  have h : ∀ j : Fin 32, desk.job j = none := by decide +kernel
  intro j x hj
  rw [h j] at hj
  cases hj
end Sys2Proof.Machine.Tests
end

section
/-! PROOFS. A RASTER frame at its scan channel (R53): the way from the link to the channel, one equation per test of R53, and the
look at the grant condition (R52) after an accepted line. -/

namespace Sys2Proof.Machine

/-! ### From the link to the channel (R203, R213) -/

theorem channelOf_station (c : ChannelNo) : channelOf (byteOf (c.val + 2)).toNat = some c := by
  revert c; decide

theorem frameTaken_raster (c : ChannelNo) (payload : List Byte) :
    frameTaken ⟨0, byteOf (c.val + 2), byteOf FrameKind.raster.code, payload⟩ = .raster c := by
  simp only [frameTaken, channelOf_station]
  rfl

theorem checkerIdle_of_bytes_nil {s : State} (h : s.link.bytes = []) : checkerIdle s = s := by
  rw [checkerIdle, ← h]

/-- The three bytes before the pixel string are read back (R213). -/
theorem readRaster_uint (n : Byte) {line : Nat} (h : line < 65536) (bits : List Byte) :
    readRaster ([n] ++ uint 2 line ++ bits) = some (n.toNat, line, bits) := by
  have hv : 256 * (line / 256 % 256) + line % 256 = line := by omega
  simp [readRaster, uint, hv]

/-- With nothing in the checker, a RASTER frame of a scanner station goes to that station's channel and nowhere else. -/
theorem exec_raster_arrives {s : State} (hs : s.link.bytes = []) (c : ChannelNo) (n : Byte) {line : Nat} (hl : line < 65536)
    (bits : List Byte) :
    exec (.raster (byteOf (c.val + 2)) ([n] ++ uint 2 line ++ bits)) s = .next (arriveRaster c n.toNat line bits s) := by
  calc exec (.raster (byteOf (c.val + 2)) ([n] ++ uint 2 line ++ bits)) s
      = .next (goodFrame (byteOf (c.val + 2)) .raster ([n] ++ uint 2 line ++ bits) s) := rfl
    _ = .next (rasterFrame c ([n] ++ uint 2 line ++ bits) s) := by
        rw [goodFrame, checkerIdle_of_bytes_nil hs, dealFrame, frameTaken_raster]
    _ = .next (arriveRaster c n.toNat line bits s) := by rw [rasterFrame, readRaster_uint n hl]

/-! ### The tests of R53, in order -/

/-- The channel behind an accepted line, before it looks at its grant condition. -/
def Channel.accepted (x : Channel) (line : Nat) (bits : List Byte) : Channel :=
  { x with staging := x.staging ++ [⟨line, readPixels bits, line - x.expected⟩], expected := line + 1, sup := x.sup.progress .scan }

section
variable {c : ChannelNo} {sheet line : Nat} {bits : List Byte} {s : State}

theorem arriveRaster_not_of_sheet (h : (s.channel c).sheet ≠ .active ∨ sheet ≠ (s.channel c).number) :
    arriveRaster c sheet line bits s = s := by
  rw [arriveRaster, if_pos h]

theorem arriveRaster_beyond_page (ha : (s.channel c).sheet = .active) (hn : sheet = (s.channel c).number) (hl : 4095 ≤ line) :
    arriveRaster c sheet line bits s = s.setChannel c { s.channel c with truncate := true } := by
  simp [arriveRaster, ha, hn, hl]

theorem arriveRaster_discarded (ha : (s.channel c).sheet = .active) (hn : sheet = (s.channel c).number) (hl : line < 4095)
    (h : line < (s.channel c).expected ∨ (s.channel c).limit ≤ line ∨ bits.length * 8 ≠ (s.channel c).width) :
    arriveRaster c sheet line bits s = s := by
  simp [arriveRaster, ha, hn, Nat.not_le.mpr hl, h]

theorem arriveRaster_accepted (ha : (s.channel c).sheet = .active) (hn : sheet = (s.channel c).number) (hl : line < 4095)
    (he : (s.channel c).expected ≤ line) (hc : line < (s.channel c).limit) (hw : bits.length * 8 = (s.channel c).width) :
    arriveRaster c sheet line bits s = grant c (s.setChannel c ((s.channel c).accepted line bits)) := by
  simp [arriveRaster, Channel.accepted, ha, hn, hw, Nat.not_le.mpr hl, Nat.not_lt.mpr he, Nat.not_le.mpr hc]

end

/-! ### The grant condition after an accepted line (R52) -/

/-- The accepted line counts among the staged lines, and the credits still unused are those above it. -/
theorem Channel.accepted_mayGrant {x : Channel} (ha : x.sheet = .active) (line : Nat) (bits : List Byte) :
    (x.accepted line bits).mayGrant =
      (!x.stalled && decide ((x.accepted line bits).staging.length + (x.limit - (line + 1)) < 4 ∧ x.limit < 4095)) := by
  simp [Channel.mayGrant, Channel.unused, Channel.accepted, ha, Bool.and_assoc]

/-- A channel just written looks at its grant condition: the limit and the CREDIT frame in one form for both outcomes. -/
theorem grant_setChannel (c : ChannelNo) (s : State) (x : Channel) :
    grant c (s.setChannel c x) =
      let limit := if x.mayGrant then min 4095 (x.expected + 4 - x.staging.length) else x.limit
      let s' := s.setChannel c { x with limit := limit }
      if x.mayGrant then sendCredit c ⟨x.number, limit, x.expected, false⟩ s' else s' := by
  rcases grant_cases c (s.setChannel c x) with ⟨hm, hg⟩ | ⟨hm, hg⟩
  all_goals
    rw [State.setChannel_channel_same] at hm
    simp [hg, hm]

/-! ### O42 -/

/-- Settles O42: the four tests of R53 by their equations, the last one with the look at the grant condition. -/
theorem rasterStagesLine : Obligations.RasterStagesLine := by
  intro s c n line bits hs hl x run
  have hrun : run = .next (arriveRaster c n.toNat line bits s) := exec_raster_arrives hs c n hl bits
  refine ⟨fun h => ?_, fun ha hn h => ?_, fun ha hn h hd => ?_, fun ha hn h he hc hw => ?_⟩
  · rw [hrun, arriveRaster_not_of_sheet h]
  · rw [hrun, arriveRaster_beyond_page ha hn h]
  · rw [hrun, arriveRaster_discarded ha hn h hd]
  · intro staged grants limit s'
    have hgrants : (x.accepted line bits).mayGrant = grants := Channel.accepted_mayGrant ha line bits
    rw [hrun, arriveRaster_accepted ha hn h he hc hw, grant_setChannel, hgrants]
    rfl

end Sys2Proof.Machine
end

section
/-! PROOFS. The match of a number (R93, R94): the search over the entries finds the fitting entry that comes before all others that
fit, and the result of a match says whether that entry is barred. -/

namespace Sys2Proof.Machine

section
variable {es : Table Route 48} {n : Number} {is : List (Fin 48)} {best : Option (Fin 48)} {i j : Fin 48} {s : State}

/-! ### The order of the entries -/

/-- The entry is valid and its prefix begins the number. -/
def Fits (es : Table Route 48) (n : Number) (i : Fin 48) : Prop := (fetch es i).valid = true ∧ (fetch es i).digits <+: n

/-- Entry `i` is preferred to entry `j`: its prefix is longer, or as long and its index not higher. -/
def Precedes (es : Table Route 48) (i j : Fin 48) : Prop :=
  (fetch es j).digits.length < (fetch es i).digits.length ∨
    ((fetch es j).digits.length = (fetch es i).digits.length ∧ i ≤ j)

/-- Entry `i` fits and is preferred to every entry that fits. -/
def LongestMatch (es : Table Route 48) (n : Number) (i : Fin 48) : Prop := Fits es n i ∧ ∀ j, Fits es n j → Precedes es i j

theorem matches_iff_fits : (fetch es i).matches n = true ↔ Fits es n i := by
  simp [Route.matches, Fits]

theorem Precedes.refl (es : Table Route 48) (i : Fin 48) : Precedes es i i := .inr ⟨rfl, le_refl i⟩

theorem Precedes.trans {k : Fin 48} (hij : Precedes es i j) (hjk : Precedes es j k) : Precedes es i k := by
  unfold Precedes at *
  omega

theorem Precedes.antisymm (hij : Precedes es i j) (hji : Precedes es j i) : i = j := by
  unfold Precedes at *
  omega

theorem LongestMatch.unique (hi : LongestMatch es n i) (hj : LongestMatch es n j) : i = j :=
  (hi.2 j hj.1).antisymm (hj.2 i hi.1)

/-! ### The search (R93) -/

theorem betterMatch_of_not_fits (h : ¬Fits es n i) : betterMatch es n best i = best := by
  rw [betterMatch.eq_def, if_neg (mt matches_iff_fits.1 h)]

theorem betterMatch_none (h : Fits es n i) : betterMatch es n none i = some i := by
  rw [betterMatch.eq_def, if_pos (matches_iff_fits.2 h)]

theorem betterMatch_some (h : Fits es n i) (b : Fin 48) :
    betterMatch es n (some b) i = if (fetch es b).digits.length < (fetch es i).digits.length then some i else some b := by
  rw [betterMatch.eq_def, if_pos (matches_iff_fits.2 h)]

/-- The match so far, after the entries of a list: the one of them that fits and is preferred to all that fit, or none where none
fits. -/
def MatchSoFar (es : Table Route 48) (n : Number) (is : List (Fin 48)) : Option (Fin 48) → Prop
  | none => ∀ j ∈ is, ¬Fits es n j
  | some b => b ∈ is ∧ Fits es n b ∧ ∀ j ∈ is, Fits es n j → Precedes es b j

/-- Among equals the earlier entry stays, so the entries have to come in rising order. -/
theorem MatchSoFar.next (h : MatchSoFar es n is best) (hlt : ∀ j ∈ is, j < i) :
    MatchSoFar es n (is ++ [i]) (betterMatch es n best i) := by
  have hmem : i ∈ is ++ [i] := List.mem_append_right is (List.mem_singleton_self i)
  have extend {p : Fin 48 → Prop} (his : ∀ j ∈ is, p j) (hi : p i) : ∀ j ∈ is ++ [i], p j :=
    List.forall_mem_append.2 ⟨his, List.forall_mem_singleton.2 hi⟩
  by_cases hi : Fits es n i
  · cases best with
    | none =>
      rw [betterMatch_none hi]
      exact ⟨hmem, hi, extend (fun j hj hf => absurd hf (h j hj)) fun _ => .refl es i⟩
    | some b =>
      obtain ⟨hb, hfit, hbest⟩ := h
      rw [betterMatch_some hi]
      split
      next longer => exact ⟨hmem, hi, extend (fun j hj hf => .trans (.inl longer) (hbest j hj hf)) fun _ => .refl es i⟩
      next notLonger =>
        have hbi : Precedes es b i := (Nat.lt_or_eq_of_le (Nat.not_lt.1 notLonger)).imp_right fun he => ⟨he, (hlt b hb).le⟩
        exact ⟨List.mem_append_left [i] hb, hfit, extend hbest fun _ => hbi⟩
  · rw [betterMatch_of_not_fits hi]
    cases best with
    | none => exact extend h hi
    | some b =>
      obtain ⟨hb, hfit, hbest⟩ := h
      exact ⟨List.mem_append_left [i] hb, hfit, extend hbest fun hf => absurd hf hi⟩

theorem matchSoFar_foldl (is : List (Fin 48)) (h : is.Pairwise (· < ·)) :
    MatchSoFar es n is (is.foldl (betterMatch es n) none) := by
  induction is using List.reverseRecOn with
  | nil => exact fun j hj => absurd hj List.not_mem_nil
  | append_singleton is i ih =>
    obtain ⟨his, -, hlt⟩ := List.pairwise_append.1 h
    rw [List.foldl_append]
    exact (ih his).next fun j hj => hlt j hj i (List.mem_singleton_self i)

theorem matchSoFar_matchEntry (es : Table Route 48) (n : Number) : MatchSoFar es n (indices 48) (matchEntry es n) :=
  matchSoFar_foldl (indices 48) (List.pairwise_lt_finRange 48)

/-! ### The match and its result (R93) -/

theorem longestMatch_of_matchEntry (h : matchEntry es n = some i) : LongestMatch es n i := by
  have hm := matchSoFar_matchEntry es n
  rw [h] at hm
  obtain ⟨-, hfit, hbest⟩ := hm
  exact ⟨hfit, fun j => hbest j (mem_indices j)⟩

theorem matchEntry_eq_none_iff : matchEntry es n = none ↔ ∀ i, ¬Fits es n i := by
  constructor
  · intro h i
    have hm := matchSoFar_matchEntry es n
    rw [h] at hm
    exact hm i (mem_indices i)
  · intro h
    cases hm : matchEntry es n with
    | none => rfl
    | some i => exact absurd (longestMatch_of_matchEntry hm).1 (h i)

theorem matchEntry_eq_some_iff : matchEntry es n = some i ↔ LongestMatch es n i := by
  refine ⟨longestMatch_of_matchEntry, fun h => ?_⟩
  cases hm : matchEntry es n with
  | none => exact absurd h.1 (matchEntry_eq_none_iff.1 hm i)
  | some j => rw [(longestMatch_of_matchEntry hm).unique h]

/-- An entry matches no number that a preferred entry fits (R94). -/
theorem matchEntry_ne_of_precedes (hi : Fits es n i) (hij : Precedes es i j) (hne : i ≠ j) : matchEntry es n ≠ some j := by
  intro hj
  obtain ⟨-, hbest⟩ := longestMatch_of_matchEntry hj
  exact hne (hij.antisymm (hbest i hi))

theorem matchNumber_of_none (h : matchEntry s.routes.entries n = none) : matchNumber n s = .noRoute := by
  rw [matchNumber, h]

theorem matchNumber_of_some (h : matchEntry s.routes.entries n = some i) :
    matchNumber n s = if (fetch s.routes.entries i).barred then .barred else .entry i := by
  rw [matchNumber, h]

theorem matchNumber_eq_noRoute_iff : matchNumber n s = .noRoute ↔ matchEntry s.routes.entries n = none := by
  cases h : matchEntry s.routes.entries n with
  | none => simp [matchNumber_of_none h]
  | some i => cases hb : (fetch s.routes.entries i).barred <;> simp [matchNumber_of_some h, hb]

theorem matchNumber_eq_barred_iff :
    matchNumber n s = .barred ↔ ∃ i, matchEntry s.routes.entries n = some i ∧ (fetch s.routes.entries i).barred = true := by
  cases h : matchEntry s.routes.entries n with
  | none => simp [matchNumber_of_none h]
  | some i => cases hb : (fetch s.routes.entries i).barred <;> simp [matchNumber_of_some h, hb]

theorem matchNumber_eq_entry_iff :
    matchNumber n s = .entry i ↔ matchEntry s.routes.entries n = some i ∧ (fetch s.routes.entries i).barred = false := by
  cases h : matchEntry s.routes.entries n with
  | none => simp [matchNumber_of_none h]
  | some j =>
    rw [matchNumber_of_some h]
    cases hb : (fetch s.routes.entries j).barred with
    | true =>
      simp only [if_true, reduceCtorEq, Option.some.injEq, false_iff, not_and]
      rintro rfl
      simp [hb]
    | false =>
      simp only [Bool.false_eq_true, if_false, RouteMatch.entry.injEq, Option.some.injEq, iff_self_and]
      rintro rfl
      exact hb

end

/-! ### O45 -/

/-- Settles O45: the search finds the longest match (R93), the result of a match reads that entry's barred mark, and an entry is no
number's match where a preferred one fits (R94). -/
theorem longestPrefixMatches : Obligations.LongestPrefixMatches := by
  constructor
  · intro es n fits longest
    refine ⟨fun i => matchEntry_eq_some_iff, matchEntry_eq_none_iff, ?results, fun i j hi _ hlt => ?longer⟩
    case results =>
      rintro s rfl
      refine ⟨?_, matchNumber_eq_noRoute_iff.trans matchEntry_eq_none_iff, fun i => ?_⟩
      · exact matchNumber_eq_barred_iff.trans (exists_congr fun i => and_congr_left' matchEntry_eq_some_iff)
      · exact matchNumber_eq_entry_iff.trans (and_congr_left' matchEntry_eq_some_iff)
    case longer =>
      refine matchEntry_ne_of_precedes hi (.inl hlt) ?_
      rintro rfl
      exact lt_irrefl _ hlt
  · intro es i j hi _ hd hlt n hj
    obtain ⟨⟨-, hpre⟩, -⟩ := longestMatch_of_matchEntry hj
    have hij : Precedes es i j := .inr ⟨by rw [hd], hlt.le⟩
    exact matchEntry_ne_of_precedes ⟨hi, hd ▸ hpre⟩ hij hlt.ne hj

end Sys2Proof.Machine
end

section
/-! PROOFS. What a command is made of. `Change` lists the elementary changes of the state: one constructor for each kind of update
that an invariant has to look at, the rest together in `same`. `Reaches` chains them, and one lemma for each operation of the
model says that it is such a chain. An invariant then needs a proof for each elementary change only. -/

namespace Sys2Proof.Machine

/-! ### The elementary changes -/

/-- The elementary changes of the store (chapter 1). -/
inductive StoreChange : Store → Store → Prop
  | append {st u : Store} {reserve : Nat} {purpose : Purpose} {p : Fin 256} {bytes : List Byte} {kind : AppendKind}
      (h : st.append reserve purpose p bytes kind = some u) : StoreChange st u
  | dropClaims (st : Store) (gone : Claim → Bool) : StoreChange st (st.dropClaims gone)
  | claimDocument (st : Store) (h : Holder) (d : Fin 64) : StoreChange st (st.claimDocument h d)
  | useClaim (st : Store) (h : Holder) (k : Nat) : StoreChange st (st.useClaim h k)
  | endUse (st : Store) (h : Holder) (success drops gone : Bool) : StoreChange st (st.endUse h success drops gone)
  | freeDocument (st : Store) (d : Fin 64) : StoreChange st (st.freeDocument d)
  | changeDoc (st : Store) (d : Fin 64) {f : Document → Document} (hf : ∀ x, (f x).slots = x.slots) :
      StoreChange st (st.changeDoc d f)
  | openDoc (st : Store) {d : Fin 64} {x : Document} (hd : fetch st.docs d = none) (hx : x.slots = []) :
      StoreChange st (st.setDocument d (some x))
  | mapPage (st : Store) {p : Fin 256} (w : Nat) (r : Resolution) (d : Fin 64) (hs : List Holder)
      (hp : (fetch st.pages p).state = .free) : StoreChange st (st.mapPage p w r d hs)
  | takeReplacement (st : Store) {p : Fin 256} (w : Nat) (r : Resolution) (d : Fin 64) (slot : Nat)
      (hp : (fetch st.pages p).state = .free) : StoreChange st (st.takeReplacement p w r d slot)
  | sealPage (st : Store) (p : Fin 256) (truncated damaged : Bool) : StoreChange st ((st.sealPage p truncated damaged).settle p)
  | sealReplacement (st : Store) {p : Fin 256} (truncated damaged : Bool) {d : Fin 64} {slot : Nat}
      (hp : (fetch st.pages p).place = some (d, slot)) :
      StoreChange st (((st.sealPage p truncated damaged).remap p d slot).settle p)
  | discard (st : Store) (p : Fin 256) : StoreChange st (st.discard p)
  | refill (st : Store) (p : Fin 256) : StoreChange st (st.refill p)
  | form (st : Store) (p : Fin 256) (w : Nat) (r : Resolution) :
      StoreChange st (st.setPage p { fetch st.pages p with width := w, resolution := r })

/-- The parts of the state that the invariants and the statements about the link speak of. -/
def State.core (s : State) :=
  (s.cfg, s.store, s.scan.channels, s.jobs.slots, s.routes.active, s.lines, s.printer.credits, s.clock, s.meters, s.accounts,
    s.charges, s.link.bytes, s.link.orders, s.link.inHand, s.link.replies, s.link.last, s.link.reports, s.link.sending,
    s.pending)

/-- The destination records of a job slot's contents. -/
def destsOf : Option Job → List Dest
  | some ⟨_, .send b, _⟩ => b.dests
  | _ => []

/-- A destination that holds no line, and is not ON-LINE. -/
def Dest.loose (x : Dest) : Prop := x.state ≠ .onLine ∧ x.line = none

/-- A line context that keeps its call, or drops the marks of an answer that it cannot have in a state without a call. -/
def LineKept (x y : Line) : Prop :=
  y.admission = x.admission ∧ (x.releasable = true → y.releasable = true) ∧
    (y.answered = x.answered ∨ (x.releasable = false ∧ y.answered = false))

/-- The elementary changes of the state. -/
inductive Change : State → State → Prop
  /-- A change of nothing that an invariant speaks of. -/
  | same {s t : State} (h : t.core = s.core) : Change s t
  | reports {s : State} (rs : List QueuedReport) (gap : Bool) (h : s.link.reports.length ≤ 64 → rs.length ≤ 64) :
      Change s { s with link := { s.link with reports := rs, gap := gap } }
  | store {s : State} {st : Store} (h : StoreChange s.store st) : Change s { s with store := st }
  | channel {s : State} {c : ChannelNo} {x : Channel} (h : (s.channel c).creditsKept → x.creditsKept) : Change s (s.setChannel c x)
  | printer {s : State} {x : PrintChannel} (h : s.printer.credits ≤ 16 → x.credits ≤ 16) : Change s (setPrinter x s)
  /-- A destination record of the new contents is one that stood there, with its tie to a line, or holds no line. -/
  | job {s : State} {j : Fin 32} {x : Option Job}
      (h : ∀ (d : Nat) (y : Dest), (destsOf x)[d]? = some y →
        (∃ z, s.dest j d = some z ∧ y.state = z.state ∧ y.line = z.line) ∨ y.loose ∨
          (∃ z, s.dest j d = some z ∧ z.state ≠ .onLine ∧ y.state ≠ .onLine ∧ y.line = z.line)) :
      Change s (s.setJob j x)
  | line {s : State} {l : LineNo} {x : Line} (h : LineKept (s.line l) x) : Change s (s.setLine l x)
  | meter {s : State} {l : LineNo} {m : Meter} (h : s.timeKept → m.inRange) (hr : m.running = (s.meter l).running) :
      Change s (s.setMeter l m)
  | account {s : State} {n : Fin 64} {a : Account} (h : (s.account n).inRange → a.inRange)
      (ha : a.active = (s.account n).active) : Change s (s.setAccount n a)
  | clock {s : State} {c : Clock} (h : s.timeKept → c.inRange) : Change s (setClock c s)
  | config {s : State} {cfg : Configuration} {c : Clock}
      (h : s.timeKept → c.inRange ∧ -255 ≤ cfg.correction ∧ cfg.correction ≤ 255) : Change s { s with cfg := cfg, clock := c }
  | records {s : State} (rs : List ChargeRecord) (h : rs.length ≤ s.charges.filled.length) :
      Change s { s with charges := { s.charges with filled := rs } }
  /-- A destination placed on an IDLE line (R101, R102). -/
  | place {s : State} (j : Fin 32) (d : Nat) (x : Dest) (b : SendJob) (i : Fin 48) {l : LineNo} (hl : (s.line l).state = .idle)
      (hu : s.charges.used < 32) : Change s (place j d x b i l s)
  /-- The meter starts at the ABILITY that answers an outgoing call (R131, R184). -/
  | answer {s : State} {l : LineNo} {a : Admission} (h : (s.line l).admission = some a) :
      Change s (meterStart l a.zone a.account (s.setLine l { s.line l with answered := true }))
  /-- A line released whose destination, if it has one, no longer holds it (R79, R119). -/
  | release {s : State} {l : LineNo} (why : Reason) (n : Nat) (name : Name) (h : (s.line l).releasable = true)
      (hu : ∀ a x, (s.line l).admission = some a → s.dest a.job a.dest = some x → ¬(x.state = .onLine ∧ x.line = some l)) :
      Change s (releaseContext l why n name s)
  /-- A line released, and its destination let go (R69, R74, R119). -/
  | releaseDest {s : State} {l : LineNo} {a : Admission} (why : Reason) (n : Nat) (name : Name) {f : Dest → Dest}
      (h : (s.line l).releasable = true) (ha : (s.line l).admission = some a) (hf : ∀ x, (f x).loose) :
      Change s (changeDest a.job a.dest f (releaseContext l why n name s))
  /-- The blocks' parts of RESTART (R210). -/
  | restart {s : State} : Change s (restartBlocks s)

/-- A chain of elementary changes. -/
def Reaches : State → State → Prop := Relation.ReflTransGen Change

section
variable {s t : State}

theorem Reaches.refl : Reaches s s := Relation.ReflTransGen.refl

theorem Reaches.trans {u : State} (h : Reaches s t) (h' : Reaches t u) : Reaches s u := Relation.ReflTransGen.trans h h'

theorem Reaches.change {u : State} (h : Reaches s t) (h' : Change t u) : Reaches s u := Relation.ReflTransGen.tail h h'

theorem Reaches.same {u : State} (h : Reaches s t) (h' : u.core = t.core) : Reaches s u := h.change (.same h')

/-- What every elementary change keeps, a chain keeps. -/
theorem Reaches.keeps {P : State → Prop} (hP : ∀ s t, Change s t → P s → P t) (h : Reaches s t) (hs : P s) : P t := by
  induction h with
  | refl => exact hs
  | tail _ hc ih => exact hP _ _ hc ih

theorem Reaches.foldl {α : Type} {f : State → α → State} (hf : ∀ s a, Reaches s (f s a)) (h : Reaches s t) (l : List α) :
    Reaches s (l.foldl f t) := by
  induction l generalizing t with
  | nil => exact h
  | cons a l ih => exact ih (h.trans (hf t a))

theorem Reaches.ite {c : Prop} [Decidable c] {u v : State} (h : Reaches s u) (h' : Reaches s v) :
    Reaches s (if c then u else v) := by
  split <;> assumption

end

/-! ### Shared operations (Ops) -/

section
variable {s t : State}

theorem Reaches.report (h : Reaches s t) {r : Report} : Reaches s (report r t) := by
  refine h.trans ?_
  unfold Machine.report Link.offer
  split
  next hl => exact Reaches.refl.change (.reports (t.link.reports ++ [⟨r, t.link.gap⟩]) false fun _ => by simpa using hl)
  next hl => exact Reaches.refl.change (.reports t.link.reports true id)

theorem Reaches.sendCredit (h : Reaches s t) {c : ChannelNo} {f : CreditFrame} : Reaches s (sendCredit c f t) := h.same rfl

theorem Reaches.startPass (h : Reaches s t) : Reaches s (startPass t) := h.same (by simp only [State.core, Machine.startPass])

theorem Reaches.trigger (h : Reaches s t) : Reaches s (trigger t) := by
  unfold Machine.trigger
  split
  · exact h.same rfl
  · exact h.startPass

/-- A channel whose staging, limit, expected line and sheet stand as they were keeps its bounds. -/
theorem Reaches.setChannel (h : Reaches s t) {c : ChannelNo} {x : Channel}
    (hx : (t.channel c).creditsKept → x.creditsKept) : Reaches s (t.setChannel c x) := h.change (.channel hx)

theorem Channel.mayGrant_kept {x : Channel} (h : x.mayGrant = true) (hx : x.creditsKept) :
    Channel.creditsKept { x with limit := min 4095 (x.expected + 4 - x.staging.length) } := by
  simp only [Channel.mayGrant, Channel.creditsKept, Channel.unused, Bool.and_eq_true, decide_eq_true_eq] at *
  obtain ⟨⟨⟨hs, -⟩, hl⟩, hm⟩ := h
  simp only [hs, if_true] at *
  omega

theorem Reaches.grant (h : Reaches s t) {c : ChannelNo} : Reaches s (grant c t) := by
  rcases grant_cases c t with ⟨-, e⟩ | ⟨hm, e⟩
  · rwa [e]
  · rw [e]
    exact (h.setChannel (Channel.mayGrant_kept hm)).sendCredit

theorem Reaches.endStall (h : Reaches s t) {c : ChannelNo} : Reaches s (endStall c t) := by
  unfold Machine.endStall
  refine .ite (Reaches.grant (h.setChannel ?_)) h
  exact id

theorem Reaches.endStalls (h : Reaches s t) : Reaches s (endStalls t) := h.foldl (fun _ _ => Reaches.refl.endStall) _

/-- A chain of elementary changes of the store. -/
def StoreReaches : Store → Store → Prop := Relation.ReflTransGen StoreChange

theorem Reaches.store (h : Reaches s t) {st : Store} (hst : StoreReaches t.store st) : Reaches s { t with store := st } := by
  induction hst with
  | refl => exact h
  | @tail a b _ hc ih => exact ih.change (.store (s := { t with store := a }) hc)

theorem Reaches.withStore (h : Reaches s t) {f : Store → Store} (hf : StoreReaches t.store (f t.store)) :
    Reaches s (withStore f t) := by
  unfold Machine.withStore
  exact .ite (h.store hf).endStalls (h.store hf)

theorem StoreChange.reaches {a b : Store} (h : StoreChange a b) : StoreReaches a b := .single h

theorem StoreReaches.freeIfDone (st : Store) (d : Fin 64) : StoreReaches st (st.freeIfDone d) := by
  unfold Store.freeIfDone
  split
  · exact .refl
  · split
    · exact (StoreChange.freeDocument st d).reaches
    · exact .refl

theorem Reaches.addJob (h : Reaches s t) {d : Fin 64} : Reaches s (addJob d t) :=
  h.store (StoreChange.changeDoc (f := fun x => { x with jobCount := x.jobCount + 1 }) _ d fun _ => rfl).reaches

theorem Reaches.dropJob (h : Reaches s t) {d : Fin 64} : Reaches s (dropJob d t) :=
  h.withStore (.trans (StoreChange.changeDoc (f := fun x => { x with jobCount := x.jobCount - 1 }) _ d fun _ => rfl).reaches
    (StoreReaches.freeIfDone _ d))

theorem Reaches.releaseDoc (h : Reaches s t) {d : Fin 64} : Reaches s (releaseDoc d t) :=
  h.withStore (.trans (StoreChange.changeDoc (f := fun x => { x with released := true }) _ d fun _ => rfl).reaches
    (StoreReaches.freeIfDone _ d))

theorem Reaches.dropHolder (h : Reaches s t) {k : Holder} : Reaches s (Machine.withStore (fun st => st.dropHolder k) t) :=
  h.withStore (StoreChange.dropClaims _ _).reaches

end

/-! ### The Job Table (JobOps) -/

section
variable {s t : State}

theorem State.dest_eq_destsOf (s : State) (j : Fin 32) (d : Nat) : s.dest j d = (destsOf (s.job j))[d]? := by
  unfold State.dest State.sendJob destsOf
  split <;> split at * <;> simp_all

/-- The new contents of a slot hold no destination, or those that the slot held. -/
theorem Reaches.setJob (h : Reaches s t) {j : Fin 32} {x : Option Job} (hx : destsOf x = [] ∨ destsOf x = destsOf (t.job j)) :
    Reaches s (t.setJob j x) := by
  refine h.change (.job fun d y hy => ?_)
  rcases hx with e | e
  · simp [e] at hy
  · exact .inl ⟨y, by rw [State.dest_eq_destsOf, ← e, hy], rfl, rfl⟩

/-- A new slot's destinations hold no line. -/
theorem Reaches.setJob_loose (h : Reaches s t) {j : Fin 32} {x : Option Job} (hx : ∀ y ∈ destsOf x, y.loose) :
    Reaches s (t.setJob j x) :=
  h.change (.job fun _ _ hy => .inr (.inl (hx _ (List.mem_of_getElem? hy))))

/-- A destination record changed in place: its tie to a line stays, or it holds no line after the change. -/
theorem Reaches.changeDest (h : Reaches s t) {j : Fin 32} {d : Nat} {f : Dest → Dest}
    (hf : ∀ x, t.dest j d = some x → ((f x).state = x.state ∧ (f x).line = x.line) ∨ (f x).loose ∨
      (x.state ≠ .onLine ∧ (f x).state ≠ .onLine ∧ (f x).line = x.line)) : Reaches s (changeDest j d f t) := by
  unfold Machine.changeDest changeSend
  split
  next doc b w hj =>
    refine h.change (.job fun e y hy => ?_)
    simp only [destsOf, List.getElem?_modify, Option.map_eq_map, Option.map_eq_some_iff] at hy
    obtain ⟨x, hx, rfl⟩ := hy
    have hd : t.dest j e = some x := by rw [State.dest_some hj, hx]
    split
    next he =>
      subst he
      rcases hf x hd with h1 | h2 | h3
      · exact .inl ⟨x, hd, h1.1, h1.2⟩
      · exact .inr (.inl h2)
      · exact .inr (.inr ⟨x, hd, h3.1, h3.2.1, h3.2.2⟩)
    next => exact .inl ⟨x, hd, rfl, rfl⟩
  next => exact h

theorem Reaches.changePrint (h : Reaches s t) {j : Fin 32} {f : PrintJob → PrintJob} : Reaches s (changePrint j f t) := by
  unfold Machine.changePrint
  split
  · exact h.setJob (.inl rfl)
  · exact h

theorem Reaches.changeReceive (h : Reaches s t) {j : Fin 32} {f : ReceiveJob → ReceiveJob} :
    Reaches s (changeReceive j f t) := by
  unfold Machine.changeReceive
  split
  · exact h.setJob (.inl rfl)
  · exact h

theorem Reaches.createJob (h : Reaches s t) {j : Fin 32} {x : Job} (hx : ∀ y ∈ destsOf (some x), y.loose) :
    Reaches s (createJob j x t) := (h.setJob_loose hx (j := j)).same rfl

theorem Reaches.createPrint (h : Reaches s t) {j : Fin 32} {d : Fin 64} {b : PrintJob} : Reaches s (createPrint j d b t) := by
  unfold Machine.createPrint
  exact (h.createJob (by simp [destsOf])).addJob.store (StoreChange.claimDocument _ _ _).reaches

theorem Reaches.serveOwedAt (h : Reaches s t) {r : Fin 32} : Reaches s (serveOwedAt t r) := by
  unfold Machine.serveOwedAt
  split
  next => 
    have h1 {d : Fin 64} {b : ReceiveJob} {w : Option Report} : Reaches s (t.setJob r (some ⟨d, .receive b, w⟩)) := h.setJob (.inl rfl)
    exact .ite (.ite (Reaches.ite h1 h1.createPrint).dropJob (.ite h1 h1.createPrint)) h
  next => exact h

theorem Reaches.serveOwed (h : Reaches s t) : Reaches s (serveOwed t) := h.foldl (fun _ _ => Reaches.refl.serveOwedAt) _

theorem Reaches.freeJob (h : Reaches s t) {j : Fin 32} : Reaches s (freeJob j t) := by
  unfold Machine.freeJob
  refine Reaches.serveOwed ?_
  exact (h.setJob (.inl rfl) (j := j) (x := none)).same rfl

theorem Reaches.becomeOwed (h : Reaches s t) {j : Fin 32} {d : Fin 64} {b : ReceiveJob} : Reaches s (becomeOwed j d b t) := by
  unfold Machine.becomeOwed
  exact .ite h.dropJob.freeJob h.createPrint.dropJob

theorem Reaches.offerDone (h : Reaches s t) {j : Fin 32} : Reaches s (offerDone j t) := by
  unfold Machine.offerDone
  split
  next =>
    split
    · split
      · exact .ite h.report.becomeOwed h.report.freeJob
      · exact h.report.freeJob
    · exact h
  next => exact h

theorem Reaches.finishJob (h : Reaches s t) {j : Fin 32} : Reaches s (finishJob j t) := by
  unfold Machine.finishJob
  split
  next d body hj =>
    have h1 {r : Report} : Reaches s (t.setJob j (some ⟨d, body, some r⟩)) := h.setJob (.inr (by rw [hj]; cases body <;> rfl))
    split
    · exact (Reaches.ite h1 h1.dropJob).offerDone
    · exact h1.dropJob.offerDone
  next => exact h

theorem Reaches.finishIfFinal (h : Reaches s t) {j : Fin 32} : Reaches s (finishIfFinal j t) := by
  unfold Machine.finishIfFinal
  split
  · exact .ite h.finishJob h
  · exact h

theorem Reaches.reportDest (h : Reaches s t) {j : Fin 32} {d : Nat} {e : Option (LineNo × Nat)} :
    Reaches s (reportDest j d e t) := by
  unfold Machine.reportDest
  split
  · exact h.report
  · exact h

theorem Reaches.finalDest (h : Reaches s t) {j : Fin 32} {d : Nat} {st : DestState} {why : Reason} (hst : st ≠ .onLine) :
    Reaches s (finalDest j d st why t) :=
  (h.changeDest fun _ _ => .inr (.inl ⟨hst, rfl⟩)).dropHolder

theorem Reaches.cancelDest (h : Reaches s t) {j : Fin 32} {d : Nat} {st : DestState} {why : Reason} (hst : st ≠ .onLine) :
    Reaches s (cancelDest j d st why t) := (h.finalDest hst).reportDest

/-- A destination that is not ON-LINE becomes READY. -/
theorem Reaches.readyDest (h : Reaches s t) {j : Fin 32} {d : Nat} (hd : ∀ x, t.dest j d = some x → x.state ≠ .onLine) :
    Reaches s (readyDest j d t) :=
  h.changeDest fun x hx => .inr (.inr ⟨hd x hx, by simp, rfl⟩)

/-- Destinations that are not ON-LINE become READY in turn. -/
theorem Reaches.readyDests (h : Reaches s t) (ds : List (Fin 32 × Nat))
    (hd : ∀ e ∈ ds, ∀ x, t.dest e.1 e.2 = some x → x.state ≠ .onLine) :
    Reaches s (ds.foldl (fun s e => Machine.readyDest e.1 e.2 s) t) := by
  induction ds generalizing t with
  | nil => exact h
  | cons e ds ih =>
    refine ih (h.readyDest (hd e (by simp))) fun e' he' x hx => ?_
    unfold Machine.readyDest at hx
    rw [changeDest_dest] at hx
    split at hx
    · obtain ⟨y, _, rfl⟩ := Option.map_eq_some_iff.1 hx
      simp
    · exact hd e' (by simp [he']) x hx

/-- The destinations that are picked stand in the state that picks them. -/
theorem pickDests_dest {pick : SendJob → Dest → Bool} {e : Fin 32 × Nat} (he : e ∈ pickDests pick s) :
    ∃ b x, s.dest e.1 e.2 = some x ∧ pick b x = true := by
  simp only [pickDests, List.mem_flatMap] at he
  obtain ⟨j, -, he⟩ := he
  split at he
  next doc b hj =>
    simp only [List.mem_map, List.mem_filter] at he
    obtain ⟨⟨x, k⟩, ⟨hk, hp⟩, rfl⟩ := he
    exact ⟨b, x, by rw [State.dest_some hj]; exact List.mem_zipIdx_iff_getElem?.1 hk, hp⟩
  next => simp at he

theorem Reaches.readyPicked (h : Reaches s t) {pick : SendJob → Dest → Bool} (hp : ∀ b x, pick b x = true → x.state ≠ .onLine) :
    Reaches s ((pickDests pick t).foldl (fun s e => Machine.readyDest e.1 e.2 s) t) := by
  refine h.readyDests _ fun e he x hx => ?_
  obtain ⟨b, y, hy, hb⟩ := pickDests_dest he
  rw [hy] at hx
  cases hx
  exact hp b _ hb

theorem Reaches.jobsSecond (h : Reaches s t) : Reaches s (jobsSecond t) := by
  have hr := h.readyPicked (pick := fun _ x => x.due t.clock.elapsed) fun _ x hx => by
    simp only [Dest.due, Bool.and_eq_true, decide_eq_true_eq] at hx
    simp [hx.1]
  unfold Machine.jobsSecond
  split
  · exact h
  · exact hr.trigger

theorem Reaches.accountLeft (h : Reaches s t) {n : Fin 64} : Reaches s (accountLeft n t) :=
  (h.readyPicked fun _ _ hx => by simp [(of_decide_eq_true hx).2]).trigger

theorem Reaches.cancelWaiting (h : Reaches s t) {d : Fin 64} : Reaches s (cancelWaiting d t) := by
  refine h.foldl (fun u j => ?_) _
  split
  · refine .ite (Reaches.finishIfFinal (Reaches.refl.foldl (fun v k => ?_) _)) .refl
    split
    · exact .ite .refl (Reaches.refl.cancelDest (by simp))
    · exact .refl
  · exact .refl

/-- The end of an attempt, behind the release of the line that it was made on (R74, R119). -/
theorem Reaches.releaseLine (h : Reaches s t) {l : LineNo} {why : Reason} {n : Nat} {name : Name} :
    Reaches s (releaseLine l why n name t) := by
  cases hr : (t.line l).releasable with
  | false => rwa [releaseLine_not hr]
  | true =>
    have hrel : Machine.releaseLine l why n name t =
        match (t.line l).admission with
        | none => releaseContext l why n name t
        | some a => Machine.trigger (attemptEnd a.job a.dest l why n (releaseContext l why n name t)) := by
      simp only [Machine.releaseLine, hr]
      rfl
    rw [hrel]
    split
    next ha => exact h.change (.release why n name hr fun a x e => by simp [ha] at e)
    next a ha =>
      refine Reaches.trigger ?_
      have hdest : ∀ j d, (releaseContext l why n name t).dest j d = t.dest j d := fun j d => by
        simp [State.dest_eq_destsOf, State.job]
      unfold attemptEnd
      split
      next b x hb hx =>
        rw [hdest] at hx
        by_cases hx' : x.state = .onLine ∧ x.line = some l
        · rw [if_pos hx']
          split
          · exact (h.change (.releaseDest why n name hr ha fun _ => ⟨by simp, rfl⟩)).reportDest
          · have he : endState why ≠ .onLine := by cases why <;> simp [endState]
            exact ((h.change (.releaseDest why n name hr ha fun _ => ⟨he, rfl⟩)).dropHolder).reportDest.finishIfFinal
        · rw [if_neg hx']
          exact h.change (.release why n name hr fun a' x' e e' => by
            rw [ha] at e; cases e; rw [hx] at e'; cases e'; exact hx')
      next hn =>
        refine h.change (.release why n name hr fun a' x' e e' => ?_)
        rw [ha] at e; cases e
        exfalso
        have hs : ∃ b, t.sendJob a.job = some b := by
          cases hb : t.sendJob a.job with
          | none => simp [State.dest, hb] at e'
          | some b => exact ⟨b, rfl⟩
        obtain ⟨b, hb⟩ := hs
        exact hn b x' (by simpa [State.sendJob, State.job] using hb) (by rw [hdest]; exact e')

end
end Sys2Proof.Machine
end

section
/-! PROOFS. The shared operations of the meters, the lines and the Print Channel are chains of elementary changes. -/

namespace Sys2Proof.Machine

/-! ### Accounts and meters (MeterOps) -/

section
variable {s t : State}

theorem Reaches.putAccount (h : Reaches s t) {n : Fin 64} {a : Account} (ha : (t.account n).inRange → a.inRange)
    (hc : a.active = (t.account n).active) : Reaches s (putAccount n a t) := by
  have h1 := h.change (.account ha hc)
  rw [putAccount_eq]
  exact .ite h1.report h1

/-- A posting keeps the total in range, and OVER once set stays right, since the total only grows (R191). -/
theorem Account.posted_inRange {a : Account} (h : a.inRange) (k : Nat) : (a.posted k).inRange := by
  obtain ⟨ht, hl, ho⟩ := h
  refine ⟨by simp [Account.posted, maxTotal], hl, ?_⟩
  have hm : maxTotal = 16777215 := rfl
  simp only [Account.posted, ho, overOf]
  rw [← Bool.decide_or, decide_eq_decide]
  omega

theorem Reaches.postAccount (h : Reaches s t) {n : Fin 64} {k : Nat} : Reaches s (postAccount n k t) :=
  h.putAccount (fun ha => Account.posted_inRange ha k) rfl

theorem Cell.reload_inRange {m : Meter} {c : Cell} (hm : m.dither ≤ 15) (hc : c.inRange) : (m.reload c).inRange := by
  obtain ⟨hw, hf, -⟩ := hc
  unfold Meter.reload
  split
  · exact ⟨hm, by simp, by simp⟩
  · split
    · exact ⟨by dsimp only; omega, by dsimp only; omega, by simp⟩
    · exact ⟨by dsimp only; omega, by dsimp only; omega, by simp⟩

theorem State.timeKept.cell (h : s.timeKept) (zone : Fin 8) : (s.cell zone).inRange := (h.1.2.2.2.2.2 _).1

theorem postAccount_setMeter (n : Fin 64) (k : Nat) (l : LineNo) (m : Meter) (s : State) :
    (Machine.postAccount n k s).setMeter l m = Machine.postAccount n k (s.setMeter l m) := by
  unfold Machine.postAccount
  rw [putAccount_eq, putAccount_eq, State.setMeter_account]
  split <;> rfl

theorem postAccount_meter (n : Fin 64) (k : Nat) (l : LineNo) (s : State) : (Machine.postAccount n k s).meter l = s.meter l := by
  simp [State.meter]

theorem postAccount_cell (n : Fin 64) (k : Nat) (zone : Fin 8) (s : State) : (Machine.postAccount n k s).cell zone = s.cell zone := by
  simp [State.cell]

/-- A unit boundary is one posting beside the meter's reload (R185). -/
theorem meterBoundary_eq (l : LineNo) (s : State) :
    meterBoundary l s = Machine.postAccount (s.meter l).account 1
      (s.setMeter l (({ s.meter l with units := (s.meter l).units + 1 }).reload (s.cell (s.meter l).zone))) := by
  unfold meterBoundary meterPost
  rw [if_neg Nat.one_ne_zero]
  dsimp only
  rw [postAccount_setMeter, postAccount_meter, postAccount_cell]
  simp
  rfl

theorem Meter.reload_running (m : Meter) (c : Cell) : (m.reload c).running = m.running := by
  unfold Meter.reload
  (repeat' split) <;> rfl

theorem Reaches.reloadMeter (h : Reaches s t) {l : LineNo} {m : Meter} {c : Cell} (hm : m.dither = (t.meter l).dither)
    (hr : m.running = (t.meter l).running) (hc : t.timeKept → c.inRange) : Reaches s (t.setMeter l (m.reload c)) :=
  h.change (.meter (fun hk => Cell.reload_inRange (hm ▸ (hk.2.2.2 l).1) (hc hk)) (by rw [Meter.reload_running, hr]))

theorem Reaches.meterBoundary (h : Reaches s t) {l : LineNo} : Reaches s (meterBoundary l t) := by
  rw [meterBoundary_eq]
  refine Reaches.postAccount (h.reloadMeter ?_ ?_ ?_)
  · rfl
  · rfl
  · exact fun hk => hk.cell _

/-- A second at a running, timed meter whose unit runs out is a boundary; at any other running meter the counters move. -/
theorem Reaches.meterSecond (h : Reaches s t) {l : LineNo} : Reaches s (meterSecond l t) := by
  unfold Machine.meterSecond
  dsimp only
  split
  · split
    next ht =>
      split
      next hz =>
        rw [meterBoundary_eq]
        simp only [State.setMeter_meter_same, State.setMeter_twice]
        refine Reaches.postAccount (h.reloadMeter ?_ ?_ ?_)
        · rfl
        · rfl
        · exact fun hk => hk.cell _
      next hz =>
        refine h.change (.meter (fun hk => ?_) rfl)
        obtain ⟨hd, hr, -⟩ := hk.2.2.2 l
        have := hr ht
        exact ⟨hd, fun _ => ⟨by dsimp only; omega, by dsimp only; omega⟩, fun hf => by simp [ht] at hf⟩
    · exact h.change (.meter (fun hk => hk.2.2.2 l) rfl)
  · exact h

end

/-! ### Lines (LineOps) -/

section
variable {s t : State}

/-- The line of a step of dialling: it holds the same call, and a release would end it. -/
def InCall (x y : Line) : Prop := y.admission = x.admission ∧ y.answered = x.answered ∧ y.releasable = true

/-- Every line that a step of dialling may start a phase on is in the call. -/
def DialStep.inCall (x : Line) : DialStep → Prop
  | .phase y _ => InCall x y
  | .complete => True

theorem Line.enterPhase_inCall {x y : Line} (h : InCall x y) (p : Profile) (ph : DialPhase) : InCall x (y.enterPhase p ph) := h

theorem symbolStep_inCall {x y : Line} (h : InCall x y) (p : Profile) (sym : Symbol) : (symbolStep y p sym).inCall x := by
  unfold symbolStep
  (repeat' split) <;> exact h

theorem numberStep_inCall {x y : Line} (h : InCall x y) (a : Admission) (p : Profile) : (numberStep a p y).inCall x := by
  unfold numberStep
  split
  · exact symbolStep_inCall h p _
  · trivial

theorem cursorStep_inCall {x y : Line} (h : InCall x y) (a : Admission) (p : Profile) : (cursorStep a p y).inCall x := by
  unfold cursorStep
  split
  · split
    · exact symbolStep_inCall h p _
    · split
      · exact numberStep_inCall (y := { y with part := .number, position := 0 }) h a p
      · exact h
  · exact numberStep_inCall h a p

theorem afterPhase_inCall {x y : Line} (h : InCall x y) (a : Admission) (p : Profile) : (afterPhase a p y).inCall x := by
  have hn : (cursorStep a p { y with position := y.position + 1 }).inCall x := cursorStep_inCall (y := { y with position := y.position + 1 }) h a p
  unfold afterPhase
  split
  · exact h
  · exact cursorStep_inCall (y := { y with state := .dialing, part := .access, position := 0 }) ⟨h.1, h.2.1, rfl⟩ a p
  · exact h
  · split <;> exact h
  · exact h
  · exact hn
  · exact hn
  · exact hn
  · exact cursorStep_inCall (y := { y with part := .number, position := 0 }) h a p

theorem runDial_inCall {x : Line} (a : Admission) (p : Profile) (fuel : Nat) {st : DialStep} (h : st.inCall x) :
    (runDial a p fuel st).inCall x := by
  induction fuel generalizing st with
  | zero => exact h
  | succ fuel ih =>
    cases st with
    | complete => trivial
    | phase y ph =>
      unfold runDial
      dsimp only
      split
      · exact ih (afterPhase_inCall (y := y.enterPhase p ph) h a p)
      · exact h

/-- The line after the outcome of dialling has reached it is still in its call. -/
theorem dialOn_line {l : LineNo} {st : DialStep} (h : st.inCall (t.line l)) (a : Admission) :
    InCall (t.line l) ((dialOn l a st t).line l) := by
  have hr := runDial_inCall a (t.profile a.profile) (dialFuel a) h
  unfold dialOn
  split
  next y ph e =>
    rw [e] at hr
    rwa [State.setLine_line_same]
  next => simp [beginCaller, InCall, Line.dialled, Line.releasable]

theorem Reaches.beginCaller (h : Reaches s t) {l : LineNo} {n : Nat} : Reaches s (beginCaller l n t) := h.same rfl

/-- A line in a call, SEIZED or DIALING, goes on dialling. -/
theorem Reaches.dialOn (h : Reaches s t) {l : LineNo} {a : Admission} {st : DialStep} (hst : st.inCall (t.line l)) :
    Reaches s (dialOn l a st t) := by
  have hr := runDial_inCall a (t.profile a.profile) (dialFuel a) hst
  unfold Machine.dialOn
  split
  next y ph e =>
    rw [e] at hr
    exact h.change (.line ⟨hr.1, fun _ => hr.2.2, .inl hr.2.1⟩)
  next =>
    exact (h.change (.line (l := l) (x := (t.line l).dialled) ⟨rfl, fun _ => rfl, .inl rfl⟩)).beginCaller

/-- A line context changed in a state that no release ends. -/
theorem Reaches.setLine_idle (h : Reaches s t) {l : LineNo} {x : Line} (hr : (t.line l).releasable = false)
    (ha : x.admission = (t.line l).admission) (hx : x.answered = (t.line l).answered ∨ x.answered = false) :
    Reaches s (t.setLine l x) :=
  h.change (.line ⟨ha, by simp [hr], hx.imp_right fun e => ⟨hr, e⟩⟩)

/-- A line context changed with its state, its call and its mark of an answer left. -/
theorem Reaches.setLine (h : Reaches s t) {l : LineNo} {x : Line} (hs : x.state = (t.line l).state)
    (ha : x.admission = (t.line l).admission) (hx : x.answered = (t.line l).answered) : Reaches s (t.setLine l x) :=
  h.change (.line ⟨ha, by simp [Line.releasable, hs], .inl hx⟩)

theorem Reaches.endUseOfLine (h : Reaches s t) {l : LineNo} (hr : (t.line l).releasable = false) :
    Reaches s (endUseOfLine l t) := by
  have h1 : Reaches s (t.setLine l (t.line l).ended) := h.setLine_idle hr rfl (.inl rfl)
  exact .ite h1 h1.trigger

end

/-! ### The Print Channel (PrintOps) -/

section
variable {s t : State}

/-- The Print Channel changed with no more credits than it held. -/
theorem Reaches.setPrinter (h : Reaches s t) {x : PrintChannel} (hx : x.credits ≤ t.printer.credits) :
    Reaches s (setPrinter x t) := h.change (.printer fun hc => Nat.le_trans hx hc)

theorem PrintChannel.offer_credits (x : PrintChannel) : x.offer.credits ≤ x.credits := by
  unfold PrintChannel.offer
  (repeat' split) <;> simp

theorem Reaches.endPrintUse (h : Reaches s t) {j : Fin 32} {a b : Bool} : Reaches s (endPrintUse j a b t) :=
  h.withStore (StoreChange.endUse _ _ _ _ _).reaches

theorem Reaches.finishPage (h : Reaches s t) : Reaches s (finishPage t) := by
  unfold Machine.finishPage
  split
  · refine Reaches.changePrint (Reaches.endPrintUse (h.setPrinter ?_))
    exact Nat.le_refl _
  · exact h

theorem Reaches.decodePrint (h : Reaches s t) : Reaches s (decodePrint t) := by
  unfold Machine.decodePrint
  split
  · exact h
  · split
    · exact h.setPrinter (PrintChannel.offer_credits _)
    · exact h.finishPage
    · exact h.setPrinter (Nat.le_refl _)

theorem Reaches.beginPrint (h : Reaches s t) {j : Fin 32} {d : Fin 64} {b : PrintJob} {p : Fin 256} :
    Reaches s (beginPrint j d b p t) := by
  unfold Machine.beginPrint
  refine Reaches.decodePrint (Reaches.changePrint (Reaches.store (h.setPrinter ?_) (StoreChange.useClaim _ _ _).reaches))
  exact Nat.le_refl _

theorem Reaches.endPrintJob (h : Reaches s t) {j : Fin 32} : Reaches s (endPrintJob j t) := by
  unfold Machine.endPrintJob
  exact h.dropHolder.finishJob

theorem Reaches.completePrint (h : Reaches s t) {j : Fin 32} {d : Fin 64} {b : PrintJob} :
    Reaches s (completePrint j d b t) := by
  unfold Machine.completePrint
  exact (Reaches.ite h.releaseDoc h).endPrintJob

theorem Reaches.waitPage (h : Reaches s t) {j : Fin 32} : Reaches s (waitPage j t) := h.setPrinter (Nat.le_refl _)

theorem Reaches.lookAtHead (h : Reaches s t) (fuel : Nat) : Reaches s (lookAtHead fuel t) := by
  induction fuel generalizing t with
  | zero => exact h
  | succ fuel ih =>
    unfold Machine.lookAtHead
    split
    · exact h
    · split
      · exact h.setPrinter (Nat.le_refl _)
      · split
        · split
          · exact h.waitPage
          · split
            · exact .ite h.waitPage (.ite h.waitPage (ih h.beginPrint))
            · exact .ite h.waitPage (.ite (ih h.changePrint) (ih h.changePrint.completePrint))
        · exact h

theorem Reaches.printerLook (h : Reaches s t) : Reaches s (printerLook t) := by
  unfold Machine.printerLook
  split
  · split
    · exact h
    · split
      · exact h.setPrinter (PrintChannel.offer_credits _)
      · exact .ite (h.decodePrint.lookAtHead _) h
  · exact h.lookAtHead _

theorem Reaches.stopPage (h : Reaches s t) {e : Ending} : Reaches s (stopPage e t) := by
  unfold Machine.stopPage
  split
  · refine Reaches.endPrintUse (h.setPrinter ?_)
    exact Nat.le_refl _
  · exact h

theorem Reaches.stopCancelled (h : Reaches s t) : Reaches s (stopCancelled t) := by
  unfold Machine.stopCancelled
  split
  · exact h.stopPage.endPrintJob
  · exact h

theorem Reaches.cancelPrint (h : Reaches s t) {j : Fin 32} : Reaches s (cancelPrint j t) := by
  unfold Machine.cancelPrint
  dsimp only
  have h1 := h.changePrint (j := j) (f := fun b => { b with cancelled := true })
  split
  · have h2 := h1.setPrinter (x := { (Machine.changePrint j (fun b => { b with cancelled := true }) t).printer with
      ready := none, sup := .off, paused := false, stopping := true }) (Nat.le_refl _)
    exact .ite h2 h2.stopCancelled
  · exact h1.endPrintJob

theorem Reaches.printWithdrawn (h : Reaches s t) {p : Fin 256} : Reaches s (printWithdrawn p t) := by
  unfold Machine.printWithdrawn
  split
  · split
    · exact h.stopPage.endPrintJob
    · exact h.stopPage
  · exact h

theorem Reaches.takePaperOut (h : Reaches s t) : Reaches s (takePaperOut t) := by
  unfold Machine.takePaperOut
  dsimp only
  split
  · exact h
  · split
    · split
      · exact h.report
      · next j _ =>
        have h1 := (Reaches.setPrinter (h.report (r := .printState true .paperOut t.printer.job t.printPlace none))
          (x := { t.printer.leftPage with phase := .waitPage, job := some j, paperOut := true, credits := 0, paused := false })
          (Nat.zero_le _)).endPrintUse (j := j) (a := false) (b := false)
        have h2 := h1.changePrint (j := j) (f := fun b => { b with lost := true })
        exact (Reaches.ite h2.endPrintJob h2).printerLook
    · exact Reaches.report (h.setPrinter (Nat.zero_le _))

theorem Reaches.takePaperReady (h : Reaches s t) : Reaches s (takePaperReady t) := by
  unfold Machine.takePaperReady
  dsimp only
  split
  · refine Reaches.printerLook (Reaches.report (h.setPrinter ?_))
    exact Nat.le_refl _
  · exact h

theorem Reaches.takePrinterCredit (h : Reaches s t) {n : Nat} : Reaches s (takePrinterCredit n t) := by
  have h1 {x : PrintChannel} (hx : x.credits = min 16 (t.printer.credits + n)) : Reaches s (Machine.setPrinter x t) :=
    h.change (.printer fun _ => by omega)
  unfold Machine.takePrinterCredit
  dsimp only
  split
  · exact h1 rfl
  · exact (Reaches.ite (h1 rfl).report (h1 rfl)).printerLook

theorem Reaches.printSilent (h : Reaches s t) : Reaches s (printSilent t) := by
  refine Reaches.report (h.setPrinter ?_)
  exact Nat.le_refl _

theorem Reaches.printerFrameGone (h : Reaches s t) : Reaches s (printerFrameGone t) := by
  unfold Machine.printerFrameGone
  dsimp only
  split
  · have h1 := h.setPrinter (x := { t.printer with frames := t.printer.frames.tail, started := false }) (Nat.le_refl _)
    exact .ite (.ite h1 h1.stopCancelled.printerLook) h1.printerLook
  · exact h

end
end Sys2Proof.Machine
end

section
/-! PROOFS. The operations of the Call Procedure Engine, as caller and as called station, are chains of elementary changes. -/

namespace Sys2Proof.Machine

/-! ### The caller (CallOps) -/

section
variable {s t : State} {l : LineNo}

theorem Reaches.setProc (h : Reaches s t) {x : Proc} : Reaches s (t.setProc l x) := h.same rfl

theorem Reaches.setSlot (h : Reaches s t) {x : Slot} : Reaches s (t.setSlot l x) := h.same rfl

theorem Reaches.say (h : Reaches s t) {m : Message} : Reaches s (say l m t) := h.setSlot.setProc

theorem Reaches.sayTrial (h : Reaches s t) {r : Nat} : Reaches s (sayTrial l r t) := h.setSlot

theorem Reaches.sayChoice (h : Reaches s t) : Reaches s (sayChoice l t) := h.say.sayTrial

theorem Reaches.setCommand (h : Reaches s t) {c : ModuleCommand} {r : Nat} : Reaches s (setCommand l c r t) := h.setSlot

theorem Reaches.enter (h : Reaches s t) {ph : Phase} {c : TimeoutClass} : Reaches s (enter l ph c t) := h.setProc

theorem Reaches.endSendUse (h : Reaches s t) {a : Admission} {b : Bool} : Reaches s (endSendUse a b t) := by
  unfold Machine.endSendUse
  exact h.withStore (StoreChange.endUse _ _ _ _ _).reaches

theorem Reaches.quitCaller (h : Reaches s t) {why : Reason} : Reaches s (quitCaller l why t) := by
  unfold Machine.quitCaller
  split
  · exact h.endSendUse.setProc
  · exact h.setProc

theorem Reaches.release (h : Reaches s t) {r : ReleaseRequest} : Reaches s (release l r t) := by
  unfold Machine.release
  exact h.releaseLine.printerLook

theorem Reaches.dropCall (h : Reaches s t) {why : Reason} : Reaches s (dropCall l why t) := by
  unfold Machine.dropCall
  exact h.quitCaller.release

theorem Reaches.closeCall (h : Reaches s t) {why : Reason} : Reaches s (closeCall l why t) := by
  unfold Machine.closeCall
  exact h.say.quitCaller.setSlot

theorem Reaches.refill (h : Reaches s t) : Reaches s (refill l t) := h.setProc

theorem Reaches.sendChoice (h : Reaches s t) {p : Fin 256} : Reaches s (sendChoice l p t) := by
  unfold Machine.sendChoice
  dsimp only
  split
  · exact h
  · exact .ite h.closeCall h.setProc.sayChoice

theorem Reaches.beginPage (h : Reaches s t) : Reaches s (beginPage l t) := by
  unfold Machine.beginPage
  dsimp only
  split
  · exact (Reaches.setProc (h.store (StoreChange.useClaim _ _ _).reaches)).setCommand.refill
  · exact h

theorem Reaches.beginUnasked (h : Reaches s t) {p : Fin 256} : Reaches s (beginUnasked l p t) := by
  unfold Machine.beginUnasked
  dsimp only
  split
  · exact h.setProc.beginPage
  · exact h

theorem Reaches.closedEmpty (h : Reaches s t) : Reaches s (closedEmpty l t) := by
  unfold Machine.closedEmpty
  split
  · exact h
  · next a _ =>
    have h1 : Reaches s (if tied l a t then Machine.cancelDest a.job a.dest .cancelled .cancelled t else t) :=
      .ite (h.cancelDest (by simp)) h
    refine Reaches.finishIfFinal (.ite h1 (.ite ?_ ?_))
    · exact h1.closeCall
    · exact h1.dropCall

theorem Reaches.lookFirst (h : Reaches s t) : Reaches s (lookFirst l t) := by
  have hw : Reaches s (if (t.proc l).phase = .waitFirst then t else Machine.enter l .waitFirst .page t) := .ite h h.enter
  unfold Machine.lookFirst
  dsimp only
  split
  · exact h
  · split
    · exact h
    · split
      · exact h
      · split
        · exact .ite h.sendChoice hw
        · exact .ite hw (.ite h.closedEmpty h.closeCall)

theorem Reaches.sendPageEnd (h : Reaches s t) {k : PageEndKind} : Reaches s (sendPageEnd l k t) := h.say.setProc

theorem Reaches.pageEndChoice (h : Reaches s t) : Reaches s (pageEndChoice l t) := by
  unfold Machine.pageEndChoice
  dsimp only
  split
  · split
    · exact h
    · split
      · exact h
      · split
        · exact h.sendPageEnd
        · exact .ite h h.enter
  · exact h

theorem Reaches.followPage (h : Reaches s t) : Reaches s (followPage l t) := by
  unfold Machine.followPage
  split
  · exact h.setProc
  · exact h

theorem Reaches.callerNews (h : Reaches s t) {d : Fin 64} : Reaches s (callerNews d t l) := by
  unfold Machine.callerNews
  split
  · exact h
  · split
    · split
      · exact h.closedEmpty
      · split
        · exact h.lookFirst
        · exact h.followPage
        · exact h.pageEndChoice
        · exact .ite h.refill h
        · exact h
    · exact h

theorem Reaches.documentNews (h : Reaches s t) {d : Fin 64} : Reaches s (documentNews d t) := by
  unfold Machine.documentNews
  exact (h.foldl (fun _ _ => Reaches.refl.callerNews) _).printerLook

theorem Reaches.callerPageGone (h : Reaches s t) {p : Fin 256} : Reaches s (callerPageGone p t l) := by
  unfold Machine.callerPageGone
  dsimp only
  split
  · split
    · exact h.closeCall
    · exact h.closeCall
    · exact h.closeCall
    · exact h.closeCall
    · exact h
  · exact h

theorem Reaches.callersPageGone (h : Reaches s t) {p : Fin 256} : Reaches s (callersPageGone p t) :=
  h.foldl (fun _ _ => Reaches.refl.callerPageGone) _

theorem Reaches.nextPage (h : Reaches s t) {k : PageEndKind} : Reaches s (nextPage l k t) := by
  unfold Machine.nextPage
  split
  · split
    · exact .ite (.ite h.beginUnasked h.sendChoice) h.lookFirst
    · exact h
  · exact h.lookFirst

theorem Reaches.goodVerdict (h : Reaches s t) {a : Admission} : Reaches s (goodVerdict l a t) := by
  unfold Machine.goodVerdict
  refine Reaches.setProc (.ite h.endSendUse (h.endSendUse.changeDest fun x _ => .inl ⟨?_, ?_⟩))
  · rfl
  · rfl

theorem Reaches.takeGood (h : Reaches s t) : Reaches s (takeGood l t) := by
  unfold Machine.takeGood
  split
  · exact h
  · exact (Reaches.ite h.goodVerdict.closeCall (.ite h.goodVerdict.closeCall h.goodVerdict.nextPage)).printerLook

theorem Reaches.sendAgain (h : Reaches s t) : Reaches s (sendAgain l t) := by
  unfold Machine.sendAgain
  dsimp only
  split
  · exact h
  · exact .ite h.setProc.sendChoice (.ite h.beginUnasked h.sendChoice)

theorem Reaches.takeResend (h : Reaches s t) : Reaches s (takeResend l t) := by
  unfold Machine.takeResend
  split
  · exact h
  · exact .ite (h.endSendUse.setProc.closeCall) (.ite (h.endSendUse.setProc.closeCall) h.endSendUse.setProc.sendAgain)

theorem Reaches.takeAbility (h : Reaches s t) {a : Abilities} : Reaches s (takeAbility l a t) := by
  unfold Machine.takeAbility
  split
  · exact h
  next adm ha =>
    split
    · refine Reaches.lookFirst (Reaches.change ?_ (Change.answer (l := l) (a := adm) (s := t.setProc l _) ha))
      exact h.setProc
    · exact h

theorem Reaches.takeTrialBad (h : Reaches s t) : Reaches s (takeTrialBad l t) :=
  .ite h.setProc.sayChoice h.closeCall

end

/-! ### The called station (ReceiveOps) -/

section
variable {s t : State} {l : LineNo}

theorem Reaches.beginCalled (h : Reaches s t) : Reaches s (beginCalled l t) := h.setProc.setCommand.say

theorem freeDoc_none {st : Store} {d : Fin 64} (h : st.freeDoc = some d) : fetch st.docs d = none := by
  simpa using List.find?_some h

theorem Reaches.createReception (h : Reaches s t) {j : Fin 32} {d : Fin 64} {p : Fin 256} (hd : t.store.freeDoc = some d) :
    Reaches s (createReception l j d p t) := by
  have h1 : Reaches s (t.setDoc d (some (receivedDocument l p))) :=
    h.store (StoreChange.openDoc _ (freeDoc_none hd) rfl).reaches
  have h2 := (h1.createJob (j := j) (x := ⟨d, .receive ⟨l, false, none⟩, none⟩) (by simp [destsOf])).addJob (d := d)
  unfold Machine.createReception
  dsimp only
  split
  · exact h2
  · split
    · exact h2.createPrint
    · exact h2.changeReceive

/-- A line that answers was RINGING, in a state that no release ends. -/
theorem Reaches.answerLine (h : Reaches s t) {j : Fin 32} {d : Fin 64} {p : Fin 256} (hr : (t.line l).releasable = false)
    (hd : t.store.freeDoc = some d) : Reaches s (answerLine l j d p t) := by
  have hl : ((Machine.createReception l j d p t).line l) = t.line l := by simp [State.line]
  have h1 := h.createReception (l := l) (j := j) (p := p) hd
  unfold Machine.answerLine
  refine Reaches.printerLook (.ite (Reaches.beginCalled ?_) ?_)
  all_goals
    refine Reaches.report (h1.setLine_idle (by rw [hl]; exact hr) ?_ (.inr ?_))
    · rfl
    · rfl

theorem freeDoc_of_answerCheck {j : Fin 32} {d : Fin 64} {p : Fin 256} (h : answerCheck l t = .inr (j, d, p)) :
    t.store.freeDoc = some d := by
  unfold answerCheck at h
  (repeat' split at h) <;> simp_all

theorem Reaches.considerAnswer (h : Reaches s t) (hr : (t.line l).releasable = false) : Reaches s (considerAnswer l t) := by
  unfold Machine.considerAnswer
  dsimp only
  split
  · split
    next e => exact h.answerLine hr (freeDoc_of_answerCheck e)
    next =>
      refine .ite h (Reaches.report (h.setLine ?_ ?_ ?_))
      · rfl
      · rfl
      · rfl
  · exact h

theorem Reaches.closeReceived (h : Reaches s t) {d : Fin 64} : Reaches s (closeReceived d t) := by
  have h1 := h.store (StoreChange.changeDoc (f := fun x => { x with isOpen := false, held := none }) t.store d fun _ => rfl).reaches
  unfold Machine.closeReceived
  dsimp only
  split
  · exact .ite h1.releaseDoc h1
  · exact h1

theorem Reaches.finishReception (h : Reaches s t) {j : Fin 32} {d : Fin 64} {why : Reason} :
    Reaches s (finishReception j d why t) := by
  unfold Machine.finishReception
  exact h.changeReceive.finishJob

theorem Reaches.discardReceived (h : Reaches s t) : Reaches s (discardReceived l t) := by
  unfold Machine.discardReceived
  split
  · exact .ite (h.withStore (StoreChange.discard _ _).reaches) h
  · exact h

theorem Reaches.quitCalled (h : Reaches s t) {why : Reason} : Reaches s (quitCalled l why t) := by
  unfold Machine.quitCalled
  dsimp only
  split
  · exact h.discardReceived.setProc
  · exact h.discardReceived.setProc.closeReceived.documentNews.finishReception.printerLook

theorem Reaches.closeReception (h : Reaches s t) {why : Reason} : Reaches s (closeReception l why t) := by
  unfold Machine.closeReception
  exact h.say.quitCalled.setSlot

theorem Reaches.dropReception (h : Reaches s t) {why : Reason} : Reaches s (dropReception l why t) := by
  unfold Machine.dropReception
  exact h.quitCalled.release

theorem Reaches.storeLine (h : Reaches s t) {dec : DecodedLine} : Reaches s (storeLine l dec t) := by
  unfold Machine.storeLine
  dsimp only
  split
  · exact h
  · split
    · exact h.setProc
    · split
      next he => exact (h.store (StoreChange.append he).reaches).setProc
      next => exact h.setProc.closeReception

theorem Reaches.feedByte (h : Reaches s t) {b : Byte} : Reaches s (feedByte l b t) := by
  unfold Machine.feedByte
  dsimp only
  split
  · exact h.setProc.storeLine
  · exact h.setProc

theorem freePage_state {st : Store} {p : Fin 256} (h : st.freePage = some p) : (fetch st.pages p).state = .free := by
  have := List.find?_some h
  simp only [Bool.and_eq_true, decide_eq_true_eq] at this
  exact this.1

theorem Reaches.takeReceivedPage (h : Reaches s t) : Reaches s (takeReceivedPage l t) := by
  unfold Machine.takeReceivedPage
  dsimp only
  split
  · split
    · exact h
    · split
      · exact h.closeReception
      · split
        · exact h.closeReception
        next hp => exact (Reaches.setProc (h.store (StoreChange.mapPage _ _ _ _ _ (freePage_state hp)).reaches)).documentNews
  · exact h

theorem Reaches.beginReceived (h : Reaches s t) : Reaches s (beginReceived l t) := by
  unfold Machine.beginReceived
  exact .ite h.takeReceivedPage h.takeReceivedPage.setProc

theorem Reaches.takeDataByte (h : Reaches s t) {b : Byte} : Reaches s (takeDataByte l b t) := by
  unfold Machine.takeDataByte
  split
  · exact .ite h.beginReceived.feedByte h.beginReceived
  · exact h.feedByte
  · exact h

theorem Reaches.cutOffLine (h : Reaches s t) : Reaches s (cutOffLine l t) := by
  unfold Machine.cutOffLine
  dsimp only
  split
  · exact h.setProc.storeLine
  · exact h.setProc

theorem Reaches.endReceivedPage (h : Reaches s t) : Reaches s (endReceivedPage l t) := by
  unfold Machine.endReceivedPage
  dsimp only
  split
  · split
    · exact h
    · split
      next he => exact (h.store (StoreChange.append he).reaches).enter
      next => exact h.closeReception
  · exact h

theorem Reaches.takeDataEnd (h : Reaches s t) : Reaches s (takeDataEnd l t) := by
  unfold Machine.takeDataEnd
  exact .ite h.cutOffLine.endReceivedPage h

theorem Reaches.sayVerdict (h : Reaches s t) {v : Verdict} : Reaches s (sayVerdict l v t) := h.say.setProc

theorem Reaches.afterGood (h : Reaches s t) {k : PageEndKind} : Reaches s (afterGood l k t) := by
  unfold Machine.afterGood
  dsimp only
  split
  · exact h.setProc
  · exact h.setProc
  · exact h.setProc

theorem Reaches.judgeGood (h : Reaches s t) {k : PageEndKind} {p : Fin 256} {b : Bool} : Reaches s (judgeGood l k p b t) := by
  have h1 : Reaches s (Machine.afterGood l k (Machine.sayVerdict l .good
      (Machine.withStore (fun st => (st.sealPage p false b).settle p) t))) :=
    (Reaches.sayVerdict (h.withStore (StoreChange.sealPage _ _ _ _).reaches)).afterGood
  unfold Machine.judgeGood
  dsimp only
  split
  · exact h1
  · exact (Reaches.ite h1.closeReceived h1).documentNews

theorem Reaches.judgeResend (h : Reaches s t) {p : Fin 256} : Reaches s (judgeResend l p t) := by
  unfold Machine.judgeResend
  exact (Reaches.sayVerdict (h.withStore (StoreChange.refill _ _).reaches)).setProc

theorem Reaches.judgePage (h : Reaches s t) {k : PageEndKind} : Reaches s (judgePage l k t) := by
  unfold Machine.judgePage
  dsimp only
  split
  · exact h.setProc
  · exact .ite h.setProc.judgeGood (.ite h.setProc.judgeResend h.setProc.judgeGood)

theorem Reaches.repeatVerdict (h : Reaches s t) : Reaches s (repeatVerdict l t) := by
  unfold Machine.repeatVerdict
  split
  · exact h.sayVerdict
  · exact h

theorem Reaches.takePageEnd (h : Reaches s t) {k : PageEndKind} : Reaches s (takePageEnd l k t) := by
  unfold Machine.takePageEnd
  split
  · exact h.judgePage
  · exact .ite h.takeDataEnd.judgePage h.takeDataEnd
  · exact h.repeatVerdict
  · exact h.repeatVerdict
  · exact h.repeatVerdict
  · exact h

theorem Reaches.firstChoice (h : Reaches s t) {d : Fin 64} {p : Fin 256} {c : Settings} {n : Name}
    (hp : (t.page p).state = .free) : Reaches s (firstChoice l d p c n t) := by
  unfold Machine.firstChoice
  refine Reaches.documentNews (Reaches.setProc (h.store (.trans (StoreChange.changeDoc _ d
    (f := fun x => { x with remoteName := n, held := none }) fun _ => rfl).reaches ?_)))
  exact (StoreChange.mapPage (t.store.changeDoc d fun x => { x with remoteName := n, held := none }) _ _ _ _ hp).reaches

theorem Reaches.laterChoice (h : Reaches s t) {c : Settings} : Reaches s (laterChoice l c t) := by
  unfold Machine.laterChoice
  split
  · exact h
  · exact .ite (h.store (StoreChange.form _ _ _ _).reaches) h

theorem heldPage_state {d : Fin 64} {p : Fin 256} (h : heldPage l t = some (d, p)) : (t.page p).state = .free := by
  unfold heldPage at h
  (repeat' split at h) <;> simp_all

theorem Reaches.takeChoice (h : Reaches s t) {c : Settings} {n : Name} : Reaches s (takeChoice l c n t) := by
  unfold Machine.takeChoice
  dsimp only
  split
  · split
    next hp => exact (h.setProc.firstChoice (heldPage_state hp)).setCommand.enter
    next => exact h.setProc.laterChoice.setCommand.enter
  · exact h.say

theorem Reaches.takeTrialQuality (h : Reaches s t) {b : Bool} : Reaches s (takeTrialQuality l b t) := by
  unfold Machine.takeTrialQuality
  exact .ite (.ite h.say.enter h.say.enter) h

theorem Reaches.takeClose (h : Reaches s t) : Reaches s (takeClose l t) := by
  unfold Machine.takeClose
  dsimp only
  split
  · exact h.dropCall
  · exact h.dropReception

theorem Reaches.messageEffect (h : Reaches s t) {m : Message} : Reaches s (messageEffect l m t) := by
  unfold Machine.messageEffect
  split
  · exact h.takeAbility
  · exact h.takeChoice
  · exact h.takeChoice
  · exact h.takeChoice
  · exact h.beginPage
  · exact h.takeTrialBad
  · exact h.takePageEnd
  · exact h.takeGood
  · exact h.takeResend
  · exact h.takeClose
  · exact h

theorem Reaches.messageTaken (h : Reaches s t) {m : Message} : Reaches s (messageTaken l m t) := by
  unfold Machine.messageTaken
  exact .ite h h.setProc.messageEffect.printerLook

theorem Reaches.takeMessage (h : Reaches s t) {bytes : List Byte} : Reaches s (takeMessage l bytes t) := by
  unfold Machine.takeMessage
  split
  · exact h
  · exact h.messageTaken

theorem Reaches.repeatMessage (h : Reaches s t) : Reaches s (repeatMessage l t) := by
  unfold Machine.repeatMessage
  dsimp only
  split
  · exact h.say.sayTrial
  · exact h.say
  · exact h.say
  · exact h.say
  · exact h.repeatVerdict
  · exact h

theorem Reaches.agedLine (h : Reaches s t) {c : TimeoutClass} : Reaches s (agedLine l c t) := by
  unfold Machine.agedLine
  split
  · exact h.repeatMessage
  · split
    · exact h.say
    · exact h.say
    · exact h
  · exact h

theorem Reaches.timedOutLine (h : Reaches s t) {c : TimeoutClass} : Reaches s (timedOutLine l c t) := by
  unfold Machine.timedOutLine
  dsimp only
  split
  · exact h.setProc.dropCall
  · exact h.setProc.closeCall
  · exact h.setProc.closeReception
  · split
    · exact h.setProc.closeCall
    · exact .ite h.setProc.dropReception h.setProc.closeReception
  · exact h.setProc

theorem Reaches.releaseUnasked (h : Reaches s t) {why : Reason} : Reaches s (releaseUnasked l why t) := by
  unfold Machine.releaseUnasked
  dsimp only
  split
  · split
    · exact h.release
    · exact h.release
    · exact h.dropCall
    · exact h.quitCalled.release
  · exact h.release

end
end Sys2Proof.Machine
end

section
/-! PROOFS. The operations of the scan path, the owners of the orders and the events of the clock and the lines are chains of
elementary changes. -/

namespace Sys2Proof.Machine

/-! ### The scan channels (ScanOps) -/

section
variable {s t : State} {c : ChannelNo}

theorem Channel.started_kept (x : Channel) (f : StartFrame) (q : Resolution) (p : Fin 256) : (x.started f q p).creditsKept := by
  simp [Channel.creditsKept, Channel.started, Channel.unused]

theorem Channel.stopped_kept {x : Channel} (h : x.creditsKept) (n : Nat) (cut : Bool) : (x.stopped n cut).creditsKept := by
  obtain ⟨h1, h2, h3⟩ := h
  simp only [Channel.creditsKept, Channel.stopped, Channel.unused, reduceCtorEq, if_false]
  omega

theorem Channel.aborted_kept {x : Channel} (h : x.creditsKept) : x.aborted.creditsKept := by
  obtain ⟨h1, h2, h3⟩ := h
  simp only [Channel.creditsKept, Channel.aborted, Channel.unused, reduceCtorEq, if_false, List.length_nil]
  omega

theorem Channel.sealed_kept {x : Channel} (h : x.creditsKept) : x.sealed.creditsKept := by
  obtain ⟨h1, h2, h3⟩ := h
  simp only [Channel.creditsKept, Channel.sealed, Channel.unused, reduceCtorEq, if_false, List.length_nil]
  omega

theorem Channel.coded_kept {x : Channel} (h : x.creditsKept) (n : Nat) : (x.coded n).creditsKept := by
  obtain ⟨h1, h2, h3⟩ := h
  unfold Channel.coded Channel.creditsKept Channel.unused
  dsimp only [Channel.unused] at h1
  split
  next e rest hs =>
    rw [hs] at h1
    simp only [List.length_cons] at h1
    split
    · exact ⟨by simpa using h1, h2, h3⟩
    · exact ⟨by dsimp only; omega, h2, h3⟩
  next hs =>
    rw [hs] at h1
    exact ⟨by simpa [hs] using h1, h2, h3⟩

/-- An accepted line takes a place of the four that a credit stood for (R52, R53). -/
theorem Channel.accepted_kept {x : Channel} {n : Nat} (h : x.creditsKept) (ha : x.sheet = .active) (he : x.expected ≤ n)
    (hl : n < x.limit) (bits : List Byte) : (x.accepted n bits).creditsKept := by
  obtain ⟨h1, h2, h3⟩ := h
  simp only [Channel.creditsKept, Channel.accepted, Channel.unused, ha, if_true, List.length_append, List.length_cons,
    List.length_nil] at *
  omega

theorem Reaches.closeScanned (h : Reaches s t) {d : Fin 64} : Reaches s (closeScanned c d t) := by
  have h1 : Reaches s (t.setChannel c { t.channel c with binding := (t.channel c).closedBinding }) := by
    refine h.setChannel ?_
    exact id
  have h2 := (h1.store (StoreChange.changeDoc (f := fun x => { x with isOpen := false, closePending := false }) _ d
    fun _ => rfl).reaches).documentNews (d := d)
  unfold Machine.closeScanned
  exact (Reaches.ite h2.cancelWaiting h2).printerLook

theorem Reaches.closeIfPending (h : Reaches s t) : Reaches s (closeIfPending c t) := by
  unfold Machine.closeIfPending
  split
  · exact .ite h.closeScanned h
  · exact h

theorem Reaches.sheetFault (h : Reaches s t) {f : ScanFault} : Reaches s (sheetFault c f t) := h.report

theorem Reaches.startFault (h : Reaches s t) {n : Nat} {f : ScanFault} {b : Bool} : Reaches s (startFault c n f b t) := h.report

theorem Reaches.refuseStart (h : Reaches s t) {f : StartFrame} {cause : ScanFault} : Reaches s (refuseStart c f cause t) := by
  unfold Machine.refuseStart
  refine Reaches.sendCredit (h.startFault.setChannel fun hk => ?_)
  split <;> exact hk

theorem Reaches.startSheet (h : Reaches s t) {f : StartFrame} {q : Resolution} {d : Fin 64} {slot : Option Nat} {p : Fin 256}
    (hp : (fetch t.store.pages p).state = .free) : Reaches s (startSheet c f q d slot p t) := by
  unfold Machine.startSheet
  refine Reaches.documentNews (Reaches.setChannel (Reaches.grant (Reaches.setChannel (h.store ?_) fun _ => Channel.started_kept _ _ _ _)) ?_)
  · split
    · exact (StoreChange.takeReplacement _ _ _ _ _ hp).reaches
    · exact (StoreChange.mapPage _ _ _ _ _ hp).reaches
  · exact id

theorem Reaches.takeStart (h : Reaches s t) {f : StartFrame} : Reaches s (takeStart c f t) := by
  unfold Machine.takeStart
  split
  · split
    · exact h.refuseStart
    · split
      · exact h.refuseStart
      next hp => exact .ite h.refuseStart (h.startSheet (freePage_state hp))
  · exact h.refuseStart

theorem Reaches.takeHeld (h : Reaches s t) : Reaches s (takeHeld c t) := by
  unfold Machine.takeHeld
  split
  · refine Reaches.takeStart (h.setChannel ?_)
    exact id
  · exact h

theorem Reaches.afterSheet (h : Reaches s t) : Reaches s (afterSheet c t) := by
  unfold Machine.afterSheet
  exact h.closeIfPending.takeHeld

theorem Reaches.holdStart (h : Reaches s t) {f : StartFrame} : Reaches s (holdStart c f t) := by
  unfold Machine.holdStart
  refine Reaches.setChannel (t := match (t.channel c).heldStart with
    | some old => Machine.startFault c old.sheet .superseded false t
    | none => t) ?_ ?_
  · split
    · exact h.startFault
    · exact h
  · exact id

theorem Reaches.arriveStart (h : Reaches s t) {f : StartFrame} : Reaches s (arriveStart c f t) := by
  unfold Machine.arriveStart
  dsimp only
  split
  · exact h.takeStart
  · exact .ite h (h.setChannel fun hk => Channel.stopped_kept hk _ _).sheetFault.holdStart
  · exact h.holdStart

theorem Reaches.arriveEnd (h : Reaches s t) {n k : Nat} : Reaches s (arriveEnd c n k t) := by
  unfold Machine.arriveEnd
  exact .ite (h.setChannel fun hk => Channel.stopped_kept hk _ _) h

theorem Reaches.dropCoderWork (h : Reaches s t) : Reaches s (dropCoderWork c t) := by
  unfold Machine.dropCoderWork
  split
  · split
    · exact h.same rfl
    · exact h
  · exact h

theorem dropCoderWork_channel (t : State) {e : ChannelNo} : (Machine.dropCoderWork c t).channel e = t.channel e := by
  unfold Machine.dropCoderWork
  split
  · split <;> rfl
  · rfl

theorem Reaches.abortSheet (h : Reaches s t) : Reaches s (abortSheet c t) := by
  have h1 : Reaches s (Machine.withStore (fun st => st.discard (t.channel c).page)
      ((Machine.sheetFault c .aborted (Machine.dropCoderWork c t)).setChannel c (t.channel c).aborted)) := by
    refine Reaches.withStore (h.dropCoderWork.sheetFault.setChannel fun hk => Channel.aborted_kept ?_)
      (StoreChange.discard _ _).reaches
    rwa [show (Machine.sheetFault c .aborted (Machine.dropCoderWork c t)).channel c = t.channel c from dropCoderWork_channel t] at hk
  have h2 := (h1.printWithdrawn (p := (t.channel c).page)).closeIfPending (c := c) |>.callersPageGone (p := (t.channel c).page)
  unfold Machine.abortSheet
  dsimp only
  split
  · exact h2.documentNews.takeHeld
  · exact h2.takeHeld

theorem Reaches.arriveAbort (h : Reaches s t) {n : Nat} : Reaches s (arriveAbort c n t) := by
  unfold Machine.arriveAbort
  dsimp only
  split
  · exact h.abortSheet
  · split
    · refine .ite (Reaches.startFault (h.setChannel ?_)) h
      exact id
    · exact h

theorem Reaches.arriveRaster (h : Reaches s t) {n k : Nat} {bits : List Byte} : Reaches s (arriveRaster c n k bits t) := by
  by_cases hs : (t.channel c).sheet ≠ .active ∨ n ≠ (t.channel c).number
  · rwa [arriveRaster_not_of_sheet hs]
  · have ha : (t.channel c).sheet = .active := by by_contra e; exact hs (.inl e)
    have hn : n = (t.channel c).number := by by_contra e; exact hs (.inr e)
    by_cases hl : 4095 ≤ k
    · rw [arriveRaster_beyond_page ha hn hl]
      refine h.setChannel ?_
      exact id
    · by_cases hd : k < (t.channel c).expected ∨ (t.channel c).limit ≤ k ∨ bits.length * 8 ≠ (t.channel c).width
      · rwa [arriveRaster_discarded ha hn (Nat.lt_of_not_le hl) hd]
      · have he : (t.channel c).expected ≤ k := by by_contra e; exact hd (.inl (Nat.lt_of_not_le e))
        have hk : k < (t.channel c).limit := by by_contra e; exact hd (.inr (.inl (Nat.le_of_not_lt e)))
        have hw : bits.length * 8 = (t.channel c).width := by by_contra e; exact hd (.inr (.inr e))
        rw [arriveRaster_accepted ha hn (Nat.lt_of_not_le hl) he hk hw]
        exact (h.setChannel fun hk' => Channel.accepted_kept hk' ha he hk bits).grant

theorem Reaches.stall (h : Reaches s t) : Reaches s (stall c t) := by
  have h1 : Reaches s (t.setChannel c { t.channel c with
      stalled := true,
      sup := if (t.channel c).sheet = .active then { (t.channel c).sup with suspended := true } else (t.channel c).sup }) := by
    refine h.setChannel ?_
    exact id
  unfold Machine.stall
  exact .ite h1.report.endStall h1.report

/-- The seal of a sheet's page, its report and its remapping are one change of the store beside the report (R19, R60). -/
theorem Reaches.sealSheet (h : Reaches s t) (hs : (t.channel c).stalled = false) : Reaches s (sealSheet c t) := by
  unfold Machine.sealSheet
  dsimp only
  split
  · exact h
  next d slot hp =>
    refine Reaches.afterSheet (Reaches.documentNews (Reaches.setChannel ?_ fun hk => Channel.sealed_kept ?_))
    · generalize hrep : sealedReport c (t.channel c) d slot _ _ = r
      have h1 : Reaches s { t with store :=
          (if (t.channel c).replacing then
            (t.store.sealPage (t.channel c).page (t.channel c).truncate false).remap (t.channel c).page d slot
            else t.store.sealPage (t.channel c).page (t.channel c).truncate false).settle (t.channel c).page } := by
        refine h.store (StoreChange.reaches ?_)
        split
        · exact .sealReplacement _ _ _ hp
        · exact .sealPage _ _ _ _
      have h2 := h1.report (r := r)
      unfold Machine.withStore
      exact .ite (Reaches.endStalls h2) h2
    · rw [withStore_channel] at hk
      · exact hk
      · exact hs

theorem Reaches.pieceGranted (h : Reaches s t) (hs : (t.channel c).stalled = false) : Reaches s (pieceGranted c t) := by
  have h1 := (h.setChannel (c := c) fun hk => Channel.coded_kept hk t.cfg.anchorInterval).grant (c := c)
  unfold Machine.pieceGranted
  dsimp only
  split
  · exact h.sealSheet hs
  · split
    · exact h1.documentNews
    · exact h1

theorem Reaches.setCoder (h : Reaches s t) {x : CoderState} : Reaches s (setCoder x t) := h.same rfl

theorem Reaches.serveChannel (h : Reaches s t) (hs : (t.channel c).stalled = false) : Reaches s (serveChannel c t) := by
  have h1 : Reaches s (Machine.setCoder (.busy c (t.channel c).coder.index) { t with scan := { t.scan with lastServed := c } }) :=
    h.same rfl
  unfold Machine.serveChannel
  dsimp only
  split
  next he => exact Reaches.pieceGranted (Reaches.setCoder (h1.store (StoreChange.append he).reaches)) hs
  next => exact h1.setCoder.stall

theorem nextChannel_waiting (h : nextChannel t = some c) : (t.channel c).waiting = true := by
  simpa using List.find?_some h

theorem Reaches.coderTurn (h : Reaches s t) : Reaches s (coderTurn t) := by
  unfold Machine.coderTurn
  split
  next c hc =>
    have hw := nextChannel_waiting hc
    simp only [Channel.waiting, Bool.and_eq_true, Bool.not_eq_true'] at hw
    exact (h.serveChannel hw.1.2).printerLook
  next => exact h

theorem Reaches.agedChannel (h : Reaches s t) : Reaches s (agedChannel c t) := h.sendCredit

theorem Reaches.scanSilent (h : Reaches s t) : Reaches s (scanSilent c t) := by
  unfold Machine.scanSilent
  exact ((h.setChannel fun hk => Channel.stopped_kept hk _ _).sheetFault).sendCredit

theorem Reaches.scanTimeout (h : Reaches s t) : Reaches s (scanTimeout c t) := by
  unfold Machine.scanTimeout
  exact .ite h.scanSilent h

end

/-! ### The clock, the meters and the accounts (TariffCommands, AccountCommands) -/

section
variable {s t : State}

theorem Reaches.setClock (h : Reaches s t) {c : Clock} (hc : t.timeKept → c.inRange) : Reaches s (setClock c t) :=
  h.change (.clock hc)

theorem stageCell_inRange {tab : Table Cell 32} {e : TariffEntry} (ht : ∀ i, (fetch tab i).inRange) (he : e.inRange = true)
    (i : Fin 32) : (fetch (stageCell tab e) i).inRange := by
  simp only [TariffEntry.inRange, decide_eq_true_eq] at he
  unfold stageCell
  split
  · rw [fetch_store]
    split
    · exact he.2.2
    · exact ht i
  · exact ht i

theorem foldl_stageCell_inRange {es : List TariffEntry} {tab : Table Cell 32} (ht : ∀ i, (fetch tab i).inRange)
    (he : ∀ e ∈ es, e.inRange = true) (i : Fin 32) : (fetch (es.foldl stageCell tab) i).inRange := by
  induction es generalizing tab with
  | nil => exact ht i
  | cons e es ih => exact ih (stageCell_inRange ht (he e (by simp))) fun f hf => he f (by simp [hf])

theorem Reaches.stageTariff (h : Reaches s t) {es : List TariffEntry} : Reaches s (stageTariff es t).1 := by
  unfold Machine.stageTariff
  split
  · exact h
  · split
    · exact h
    next hr =>
      have hall : ∀ e ∈ es, e.inRange = true := List.all_eq_true.1 (by simpa using fun e => hr (.inr e))
      exact h.setClock fun hk => ⟨hk.1.1, hk.1.2.1, hk.1.2.2.1, hk.1.2.2.2.1, hk.1.2.2.2.2.1, fun i =>
        ⟨(hk.1.2.2.2.2.2 i).1, foldl_stageCell_inRange (fun i => (hk.1.2.2.2.2.2 i).2) hall i⟩⟩

theorem Reaches.applyTariff (h : Reaches s t) {u : Unit} : Reaches s (applyTariff u t).1 :=
  h.setClock fun hk => ⟨hk.1.1, hk.1.2.1, hk.1.2.2.1, hk.1.2.2.2.1, hk.1.2.2.2.2.1, fun i =>
    ⟨(hk.1.2.2.2.2.2 i).2, (hk.1.2.2.2.2.2 i).2⟩⟩

theorem Reaches.loadBands (h : Reaches s t) {p : Nat × Nat × List (Nat × Nat)} : Reaches s (loadBands p t).1 := by
  unfold Machine.loadBands
  split
  · split
    · exact h
    · split
      · exact h.setClock fun hk => hk.1
      · exact h
  · exact h

theorem Reaches.loadDayMap (h : Reaches s t) {ds : List Nat} : Reaches s (loadDayMap ds t).1 := by
  unfold Machine.loadDayMap
  split
  · exact h.setClock fun hk => hk.1
  · exact h

theorem Reaches.setTime (h : Reaches s t) {p : Nat × Nat} : Reaches s (setTime p t).1 := by
  unfold Machine.setTime
  split
  · split
    next hp => exact h.setClock fun hk => ⟨hp, hk.1.2⟩
    next => exact h
  · exact h

/-- Each second event moves the clock within its ranges: the length of a second is 8000 frames and up to 3 more or less (R174). -/
theorem Clock.tick_inRange {c : Clock} {k : Int} (hc : c.inRange) (h1 : -255 ≤ k) (h2 : k ≤ 255) : (c.tick k).inRange := by
  obtain ⟨hs, ha, -, -, -, hcells⟩ := hc
  refine ⟨?_, ?_, ?_, ?_, ?_, hcells⟩
  · simp only [Clock.tick]
    split <;> omega
  · simp only [Clock.tick, nextLength]
    omega
  all_goals
    simp only [Clock.tick, nextLength]
    split <;> omega

theorem Reaches.holdingCut (h : Reaches s t) {l : LineNo} : Reaches s (holdingCut t l) := by
  unfold Machine.holdingCut
  exact .ite h.sendPageEnd h

theorem Reaches.secondEvent (h : Reaches s t) : Reaches s (secondEvent t) := by
  unfold Machine.secondEvent
  refine Reaches.foldl (fun _ _ => Reaches.refl.holdingCut) (Reaches.jobsSecond (Reaches.foldl (fun _ _ => Reaches.refl.meterSecond)
    (h.setClock fun hk => Clock.tick_inRange hk.1 hk.2.1 hk.2.2.1) _)) _

theorem Reaches.unitBoundary (h : Reaches s t) {l : LineNo} : Reaches s (unitBoundary l t) := by
  unfold Machine.unitBoundary
  exact .ite h.meterBoundary h

theorem Reaches.orderAccount (h : Reaches s t) {n : Fin 64} {a : Account} (ha : (t.account n).inRange → a.inRange)
    (hc : a.active = (t.account n).active) : Reaches s (orderAccount n a t) := by
  unfold Machine.orderAccount
  exact .ite (h.putAccount ha hc).accountLeft (h.putAccount ha hc)

theorem Reaches.setAccount (h : Reaches s t) {p : AccountParams} : Reaches s (setAccount p t).1 := by
  unfold Machine.setAccount
  split
  · exact h
  · split
    · exact h
    next hl =>
      refine h.orderAccount (fun ha => ?_) rfl
      exact ⟨ha.1, Nat.le_of_not_lt hl, rfl⟩

theorem Reaches.readAccount (h : Reaches s t) {p : Nat × Bool} : Reaches s (readAccount p t).1 := by
  unfold Machine.readAccount
  split
  · exact h
  next n _ =>
    refine .ite (h.orderAccount (fun ha => ?_) rfl) h
    exact ⟨Nat.zero_le _, ha.2.1, rfl⟩

theorem Reaches.takeRecords (h : Reaches s t) {n : Nat} : Reaches s (takeRecords n t).1 := by
  have h1 : Reaches s { t with charges := { t.charges with filled := t.charges.filled.drop (clamp 1 4 n) } } :=
    h.change (.records _ (by simp))
  unfold Machine.takeRecords
  exact .ite h1 h1.trigger

end

/-! ### Routes and admission (RouteCommands) -/

section
variable {s t : State}

theorem Reaches.putRoute (h : Reaches s t) {i : Fin 48} {r : Route} : Reaches s (putRoute i r t) := by
  unfold Machine.putRoute
  refine Reaches.trigger ?_
  exact h.same rfl

theorem Reaches.loadRoute (h : Reaches s t) {p : RouteParams} : Reaches s (loadRoute p t).1 := by
  unfold Machine.loadRoute
  split
  · exact h
  · exact h
  · exact h.putRoute

theorem Reaches.clearRoute (h : Reaches s t) {n : Nat} : Reaches s (clearRoute n t).1 := by
  unfold Machine.clearRoute
  split
  · exact h
  · exact h.putRoute

theorem Reaches.failDest (h : Reaches s t) {j : Fin 32} {d : Nat} {why : Reason} : Reaches s (failDest j d why t) := by
  unfold Machine.failDest
  exact (h.cancelDest (by simp)).finishIfFinal

theorem chosenLine_idle {r : Route} {n : Number} {l : LineNo} (h : chosenLine r n t = some l) : (t.line l).state = .idle := by
  simpa using List.find?_some h

theorem Reaches.admitDest (h : Reaches s t) {j : Fin 32} {d : Nat} {x : Dest} {b : SendJob} (hd : t.dest j d = some x)
    (hx : x.state = .ready) : Reaches s (admitDest j d x b t) := by
  unfold Machine.admitDest
  split
  · exact h.failDest
  · exact h.failDest
  · dsimp only
    split
    · refine h.changeDest fun y hy => .inr (.inr ⟨?_, by simp, rfl⟩)
      rw [hd] at hy
      cases hy
      simp [hx]
    · split
      · exact h
      · split
        · exact h
        next hu =>
          split
          · exact h
          next hl => exact h.change (.place _ _ _ _ _ (chosenLine_idle hl) (Nat.lt_of_not_le hu))

theorem Reaches.takeCandidate (h : Reaches s t) {c : Fin 32 × Nat} : Reaches s (takeCandidate t c) := by
  unfold Machine.takeCandidate
  split
  next hx =>
    split
    next hr => exact h.admitDest hx hr
    next => exact h
  next => exact h

theorem Reaches.endPass (h : Reaches s t) : Reaches s (endPass t) := by
  have h1 {x : RouteTable} (hx : x.active = t.routes.active) : Reaches s (setRoutes x t) := h.same (by simp [State.core, hx])
  unfold Machine.endPass
  refine .ite (Reaches.startPass (h1 ?_)) (h1 ?_)
  · rfl
  · rfl

theorem Reaches.admissionPass (h : Reaches s t) : Reaches s (admissionPass t) := by
  unfold Machine.admissionPass
  exact .ite (h.foldl (fun _ _ => Reaches.refl.takeCandidate) _).printerLook.endPass h

end

/-! ### Documents and jobs (DocumentCommands, JobCommands) -/

section
variable {s t : State}

theorem Reaches.openDocument (h : Reaches s t) {n : Nat} : Reaches s (openDocument n t).1 := by
  unfold Machine.openDocument
  split
  · exact h
  · split
    · exact h
    · split
      · exact h
      next d hd =>
        refine Reaches.setChannel (t := t.setDoc d (some (scannedDocument _)))
          (h.store (StoreChange.openDoc _ (freeDoc_none hd) rfl).reaches) ?_
        exact id

theorem setDoc_eq_changeDoc {d : Fin 64} {x : Document} (h : t.doc d = some x) (f : Document → Document) :
    t.setDoc d (some (f x)) = { t with store := t.store.changeDoc d f } := by
  have h' : fetch t.store.docs d = some x := h
  simp [State.setDoc, Store.changeDoc, change, h']

theorem Reaches.closeDocument (h : Reaches s t) {n : Nat} : Reaches s (closeDocument n t).1 := by
  unfold Machine.closeDocument
  split
  · exact h
  · split
    · exact h
    next d _ x hx =>
      split
      · exact h
      · split
        · exact h
        · split
          · refine (setDoc_eq_changeDoc hx fun x => { x with closePending := true }) ▸ h.store (StoreChange.reaches ?_)
            exact .changeDoc _ _ fun _ => rfl
          · rw [done_fst]
            exact h.closeScanned

theorem Reaches.replacePage (h : Reaches s t) {p : Nat × Nat} : Reaches s (replacePage p t).1 := by
  unfold Machine.replacePage
  split
  · exact h
  · split
    · exact h
    · split
      · exact h
      · split
        · exact h
        · exact h
        · dsimp only
          split
          · exact h
          · refine h.setChannel ?_
            exact id

theorem Reaches.releaseDocument (h : Reaches s t) {n : Nat} : Reaches s (releaseDocument n t).1 := by
  unfold Machine.releaseDocument
  split
  · exact h
  · split
    · exact h
    · split
      · exact h
      · split
        · exact h
        · exact h.releaseDoc

theorem Reaches.readDocument (h : Reaches s t) {p : Nat × Nat} : Reaches s (readDocument p t).1 := by
  unfold Machine.readDocument
  (repeat' split) <;> exact h

theorem Reaches.loadGroup (h : Reaches s t) {p : Nat × List (List Nat)} : Reaches s (loadGroup p t).1 := by
  unfold Machine.loadGroup
  split
  · exact h
  · split
    · exact h
    · split
      · exact h
      · exact h.same rfl

theorem newDest_loose (e : Number × Nat) : (newDest t e).loose := by
  unfold newDest Dest.loose
  split <;> simp

theorem StoreReaches.claimReady {a b : Store} (h : StoreReaches a b) {j : Fin 32} {d : Fin 64} (es : List (Dest × Nat)) :
    StoreReaches a (es.foldl (claimReady j d) b) := by
  induction es generalizing b with
  | nil => exact h
  | cons e es ih =>
    refine ih (Relation.ReflTransGen.trans h ?_)
    unfold Machine.claimReady
    split
    · exact (StoreChange.claimDocument _ _ _).reaches
    · exact .refl

theorem Reaches.createSend (h : Reaches s t) {j : Fin 32} {d : Fin 64} {b : SendJob} (hb : ∀ y ∈ b.dests, y.loose) :
    Reaches s (createSend j d b t) := by
  have h0 : Reaches s (dropCandidates j t) := h.same rfl
  have h1 := (h0.createJob (j := j) (x := ⟨d, .send b, none⟩) hb).addJob (d := d)
  have h2 := h1.store (StoreReaches.claimReady .refl b.dests.zipIdx (j := j) (d := d))
  unfold Machine.createSend
  dsimp only
  refine .ite (Reaches.trigger ?_) ?_
  all_goals
    refine Reaches.finishIfFinal (Reaches.foldl (fun u e => ?_) (h2.same ?_) _)
    · unfold reportFailed
      exact .ite Reaches.refl.reportDest .refl
    · rfl

theorem Reaches.submitSend (h : Reaches s t) {p : SendParams} : Reaches s (submitSend p t).1 := by
  unfold Machine.submitSend
  split
  · exact h
  · split
    · split
      · exact h
      · split
        · exact h
        · split
          · exact h
          · unfold submitChecked
            split
            · exact h
            · split
              · exact h
              · split
                · exact h
                · refine Reaches.printerLook (h.createSend fun y hy => ?_)
                  obtain ⟨e, -, rfl⟩ := List.mem_map.1 hy
                  exact newDest_loose e
    · exact h

theorem Reaches.submitPrint (h : Reaches s t) {p : Nat × Nat × Nat} : Reaches s (submitPrint p t).1 := by
  unfold Machine.submitPrint
  split
  · exact h
  · split
    · exact h
    · split
      · exact h
      · split
        · exact h
        · split
          · exact h
          · exact h.createPrint.printerLook

theorem Reaches.closeAgain (h : Reaches s t) {l : LineNo} {r : ReleaseRequest} : Reaches s (closeAgain l r t) :=
  h.say.setProc.setSlot

theorem Reaches.cancelCall (h : Reaches s t) {l : LineNo} : Reaches s (cancelCall l t) := by
  unfold Machine.cancelCall
  split
  · split
    · exact h.closeAgain
    · exact h.closeCall
  · exact h.releaseUnasked

theorem Reaches.cancelOne (h : Reaches s t) {j : Fin 32} {k : Nat} : Reaches s (cancelOne j t k) := by
  have h1 : Reaches s (Machine.cancelDest j k .cancelled .cancelled t) := h.cancelDest (by simp)
  unfold Machine.cancelOne
  split
  · exact h
  · split
    · exact h
    · dsimp only
      split
      · exact h1.cancelCall
      · exact h1

theorem Reaches.cancelJob (h : Reaches s t) {n : Nat} : Reaches s (cancelJob n t).1 := by
  unfold Machine.cancelJob
  split
  · exact h
  · split
    · exact h
    · exact h
    · exact h
    · split
      · exact h
      · exact h.cancelPrint.printerLook
    · exact (h.foldl (fun _ _ => Reaches.refl.cancelOne) _).finishIfFinal.printerLook

theorem Reaches.readJob (h : Reaches s t) {p : Nat × Nat} : Reaches s (readJob p t).1 := by
  unfold Machine.readJob
  (repeat' split) <;> exact h

theorem Reaches.destinationEligible (h : Reaches s t) {j : Fin 32} {d : Nat} : Reaches s (destinationEligible j d t) := by
  unfold Machine.destinationEligible
  split
  next x _ hx =>
    split
    next hq =>
      refine Reaches.trigger (h.readyDest fun y hy => ?_)
      rw [hx] at hy
      cases hy
      simp [hq]
    next => exact h
  next => exact h

end

/-! ### The lines' orders and events (LineCommands) -/

section
variable {s t : State} {l : LineNo}

theorem Reaches.loadDialProfile (h : Reaches s t) {p : Nat × Profile} : Reaches s (loadDialProfile p t).1 := by
  unfold Machine.loadDialProfile
  split
  · exact h
  · split
    · exact h.same rfl
    · exact h

theorem Reaches.setLineSettings (h : Reaches s t) {p : Nat × LineSettings} : Reaches s (setLineSettings p t).1 := by
  unfold Machine.setLineSettings
  split
  · exact h
  · split
    · exact h
    · refine h.setLine ?_ ?_ ?_
      · rfl
      · rfl
      · rfl

theorem Line.retire_kept (x : Line) : LineKept x x.retire := by
  unfold Line.retire LineKept Line.releasable
  split <;> simp_all

theorem Line.return_kept (x : Line) : LineKept x x.return := by
  unfold Line.return LineKept Line.releasable
  split <;> simp_all

theorem Reaches.retireLine (h : Reaches s t) {n : Nat} : Reaches s (retireLine n t).1 := by
  unfold Machine.retireLine
  split
  · exact h
  · exact h.change (.line (Line.retire_kept _))

theorem Reaches.returnLine (h : Reaches s t) {n : Nat} : Reaches s (returnLine n t).1 := by
  unfold Machine.returnLine
  split
  · exact h
  next l _ =>
    have h1 := h.change (.line (l := l) (Line.return_kept (t.line l)))
    exact .ite h1.trigger h1

theorem Reaches.readLine (h : Reaches s t) {n : Nat} : Reaches s (readLine n t).1 := by
  unfold Machine.readLine
  split <;> exact h

theorem Reaches.phaseEnd (h : Reaches s t) : Reaches s (phaseEnd l t) := by
  unfold Machine.phaseEnd
  dsimp only
  split
  · exact h
  · split
    next hs =>
      refine h.dialOn (afterPhase_inCall ⟨rfl, rfl, ?_⟩ _ _)
      rcases hs.1 with e | e <;> simp [Line.releasable, e]
    next => exact h

theorem Reaches.lineLost (h : Reaches s t) : Reaches s (lineLost l t) := by
  unfold Machine.lineLost
  exact .ite h.releaseUnasked h

theorem Reaches.busyHeard (h : Reaches s t) : Reaches s (busyHeard l t) := by
  unfold Machine.busyHeard
  exact .ite h.releaseUnasked h

theorem Reaches.loopCurrent (h : Reaches s t) {b : Bool} : Reaches s (loopCurrent l b t) := by
  unfold Machine.loopCurrent
  dsimp only
  refine .ite (Reaches.setLine h.setSlot ?_ ?_ ?_) h.setSlot
  · rfl
  · rfl
  · rfl

theorem Reaches.guardEnd (h : Reaches s t) : Reaches s (guardEnd l t) := by
  unfold Machine.guardEnd
  split
  next hs => exact h.endUseOfLine (by simp [Line.releasable, hs])
  next => exact h

theorem Line.ringFrame_kept (x : Line) : LineKept x x.ringFrame := by
  unfold Line.ringFrame LineKept Line.releasable
  split <;> simp_all

theorem Reaches.ringFrame (h : Reaches s t) : Reaches s (ringFrame l t) := by
  unfold Machine.ringFrame
  exact (h.setSlot).change (.line (Line.ringFrame_kept _))

theorem Reaches.ringEnd (h : Reaches s t) {n : Nat} : Reaches s (ringEnd l n t) := by
  have h1 : Reaches s (t.setSlot l { t.slot l with ringPresent := false }) := h.setSlot
  unfold Machine.ringEnd
  dsimp only
  split
  next hs =>
    refine .ite (Reaches.considerAnswer (Reaches.setLine h1 ?_ ?_ ?_) ?_) (Reaches.setLine h1 ?_ ?_ ?_)
    · rfl
    · rfl
    · rfl
    · rw [State.setLine_line_same]
      have := hs.1
      simp only [Line.releasable] at this ⊢
      rw [this]
    · rfl
    · rfl
    · rfl
  next => exact h1

theorem Reaches.episodeEnd (h : Reaches s t) : Reaches s (episodeEnd l t) := by
  unfold Machine.episodeEnd
  split
  next hs => exact h.endUseOfLine (by simp [Line.releasable, hs])
  next => exact h

theorem Reaches.blankingEnd (h : Reaches s t) : Reaches s (blankingEnd l t) := by
  unfold Machine.blankingEnd
  dsimp only
  split
  · exact (h.change (.line (l := l) (x := { t.line l with state := .connected, blanking := 0 })
      ⟨rfl, fun _ => rfl, .inl rfl⟩)).beginCalled
  · exact h

end

/-! ### CONFIGURE and RESTART (LinkOps), and the orders' owners (Parser) -/

section
variable {s t : State}

theorem Configuration.with_correction {c : Configuration} (h : -255 ≤ c.correction ∧ c.correction ≤ 255)
    (e : Nat × ConfigValue) : -255 ≤ (c.with e).correction ∧ (c.with e).correction ≤ 255 := by
  unfold Configuration.with
  split
  case h_20 => simp only [clampInt]; omega
  all_goals exact h

theorem foldl_with_correction {c : Configuration} (h : -255 ≤ c.correction ∧ c.correction ≤ 255)
    (es : List (Nat × ConfigValue)) :
    -255 ≤ (es.foldl Configuration.with c).correction ∧ (es.foldl Configuration.with c).correction ≤ 255 := by
  induction es generalizing c with
  | nil => exact h
  | cons e es ih => exact ih (Configuration.with_correction h e)

theorem restartedAccumulator_le (a b : Int) (n : Nat) : restartedAccumulator a b n ≤ n := by
  unfold restartedAccumulator
  split <;> omega

theorem Reaches.putConfig (h : Reaches s t) {c : Configuration}
    (hc : t.timeKept → -255 ≤ c.correction ∧ c.correction ≤ 255) : Reaches s (putConfig c t) := by
  have h1 : Reaches s { t with
      cfg := c, clock := { t.clock with accumulator := restartedAccumulator t.cfg.correction c.correction t.clock.accumulator } } :=
    h.change (.config fun hk => ⟨⟨hk.1.1, Nat.le_trans (restartedAccumulator_le _ _ _) hk.1.2.1, hk.1.2.2⟩, hc hk⟩)
  have h2 := h1.same (u := { t with
      cfg := c, ticks := restartedTicks t.cfg.periods c.periods t.ticks,
      clock := { t.clock with accumulator := restartedAccumulator t.cfg.correction c.correction t.clock.accumulator } }) rfl
  unfold Machine.putConfig
  exact .ite h2.endStalls h2

theorem Reaches.configure (h : Reaches s t) {es : List (Nat × ConfigValue)} : Reaches s (configure es t).1 := by
  unfold Machine.configure
  split
  · exact h
  · split
    · exact h
    · exact h.putConfig fun hk => foldl_with_correction ⟨hk.2.1, hk.2.2.1⟩ es

theorem Reaches.restartReports (h : Reaches s t) : Reaches s (restartReports t) := by
  have h1 : Reaches s { t with link := { t.link with reports := [], gap := false } } := h.change (.reports [] false (by simp))
  unfold Machine.restartReports
  exact .ite h1.report h1.report.report

theorem Reaches.restartOrder (h : Reaches s t) {u : Unit} : Reaches s (restartOrder u t).1 := by
  unfold Machine.restartOrder
  rw [done_fst]
  exact (h.change .restart).restartReports

theorem Reaches.checked (h : Reaches s t) {α : Type} {r : Reader α} {own : α → State → State × Answer} (bs : List Byte)
    (ho : ∀ a, Reaches s (own a t).1) : Reaches s (checked r own bs t).1 := by
  unfold Machine.checked
  split
  · exact h
  · exact ho _

/-- What every owner of an order does is a chain of elementary changes. -/
theorem Reaches.ownerOf (h : Reaches s t) (code : Byte) (bs : List Byte) : Reaches s (ownerOf code bs t).1 := by
  refine ownerOf_forall (P := fun own => Reaches s (own bs t).1) (fun k hk => ?_) code
  match k, hk with
  | 0, _ => exact h
  | 1, _ => exact h.checked bs fun _ => h.configure
  | 2, _ => exact h.checked bs fun _ => h.loadRoute
  | 3, _ => exact h.checked bs fun _ => h.clearRoute
  | 4, _ => exact h.checked bs fun _ => h.loadDialProfile
  | 5, _ => exact h.checked bs fun _ => h.loadGroup
  | 6, _ => exact h.checked bs fun _ => h.stageTariff
  | 7, _ => exact h.checked bs fun _ => h.applyTariff
  | 8, _ => exact h.checked bs fun _ => h.loadBands
  | 9, _ => exact h.checked bs fun _ => h.loadDayMap
  | 10, _ => exact h.checked bs fun _ => h.setTime
  | 11, _ => exact h.checked bs fun _ => h
  | 12, _ => exact h.checked bs fun _ => h.setAccount
  | 13, _ => exact h.checked bs fun _ => h.readAccount
  | 14, _ => exact h.checked bs fun _ => h.takeRecords
  | 15, _ => exact h.checked bs fun _ => h.setLineSettings
  | 16, _ => exact h.checked bs fun _ => h.retireLine
  | 17, _ => exact h.checked bs fun _ => h.returnLine
  | 18, _ => exact h.checked bs fun _ => h.readLine
  | 19, _ => exact h.checked bs fun _ => h.openDocument
  | 20, _ => exact h.checked bs fun _ => h.closeDocument
  | 21, _ => exact h.checked bs fun _ => h.replacePage
  | 22, _ => exact h.checked bs fun _ => h.releaseDocument
  | 23, _ => exact h.checked bs fun _ => h.readDocument
  | 24, _ => exact h.checked bs fun _ => h.submitSend
  | 25, _ => exact h.checked bs fun _ => h.submitPrint
  | 26, _ => exact h.checked bs fun _ => h.cancelJob
  | 27, _ => exact h.checked bs fun _ => h.readJob
  | 28, _ => exact h.checked bs fun _ => h
  | 29, _ => exact h.checked bs fun _ => h.restartOrder
  | n + 30, hn => exact absurd hn (by omega)

end
end Sys2Proof.Machine
end

section
/-! PROOFS. What a step is made of: the chain of elementary changes that a command or a highway frame makes, and around it what
the parser and the desk link do. -/

namespace Sys2Proof.Machine

/-! ### The commands of the call procedure (CallCommands, PrintCommands) -/

section
variable {s t : State} {l : LineNo}

theorem Reaches.handData (h : Reaches s t) {b : Byte} : Reaches s (handData l b t) := h.setSlot

theorem Reaches.nextDataByte (h : Reaches s t) : Reaches s (nextDataByte l t) := by
  unfold Machine.nextDataByte
  dsimp only
  split
  · exact h.handData
  · exact .ite (.ite h.handData.setProc.pageEndChoice h.handData.setProc.refill) h.handData.setProc

theorem Reaches.restoreCommand (h : Reaches s t) : Reaches s (restoreCommand l t) := by
  unfold Machine.restoreCommand
  exact .ite (.ite h.setCommand h.setCommand) h

theorem Reaches.nextItem (h : Reaches s t) : Reaches s (nextItem l t) := by
  unfold Machine.nextItem
  dsimp only
  split
  · exact h.setSlot
  · exact h.setSlot
  · exact h.setSlot
  · exact h.restoreCommand

theorem Reaches.sendDataByte (h : Reaches s t) : Reaches s (sendDataByte l t) :=
  .ite h (.ite h.nextItem (.ite h.nextDataByte h))

theorem Reaches.sendMessageByte (h : Reaches s t) : Reaches s (sendMessageByte l t) := .ite h h.nextItem

theorem Reaches.closeHanded (h : Reaches s t) : Reaches s (closeHanded l t) := by
  unfold Machine.closeHanded
  split
  · exact h.release
  · exact h

theorem Reaches.lineTimeout (h : Reaches s t) {c : TimeoutClass} : Reaches s (lineTimeout c l t) :=
  .ite h.timedOutLine.printerLook h

theorem Reaches.tickLine (h : Reaches s t) {c : TimeoutClass} : Reaches s (tickLine c t l) :=
  .ite (.ite h.setProc.agedLine h.timedOutLine) h

theorem Reaches.tickChannel (h : Reaches s t) {c : ChannelNo} : Reaches s (tickChannel t c) := by
  unfold Machine.tickChannel
  dsimp only
  refine .ite (.ite (Reaches.agedChannel (h.setChannel ?_)) h.scanSilent) h
  exact id

theorem Reaches.tickPrinter (h : Reaches s t) : Reaches s (tickPrinter t) := by
  unfold Machine.tickPrinter
  dsimp only
  refine .ite (.ite (h.setPrinter ?_) h.printSilent) h
  exact Nat.le_refl _

theorem Reaches.setTick (h : Reaches s t) {i : Fin 6} {n : Nat} : Reaches s (t.setTick i n) := h.same rfl

theorem Reaches.classTick (h : Reaches s t) {c : TimeoutClass} : Reaches s (classTick c t) := by
  unfold Machine.classTick
  dsimp only
  split
  · exact h.setTick.foldl (fun _ _ => Reaches.refl.tickChannel) _
  · exact h.setTick.tickPrinter
  · exact (h.setTick.foldl (fun _ _ => Reaches.refl.tickLine) _).printerLook

theorem Reaches.printTimeout (h : Reaches s t) : Reaches s (printTimeout t) := .ite h.printSilent h

end

/-! ### One highway frame (Tick) -/

section
variable {s t : State}

theorem Reaches.sendWord (h : Reaches s t) {l : LineNo} : Reaches s (sendWord t l) := h.setSlot

/-- The monitors of a line count frames; they leave its call alone. -/
theorem Line.loopFrame_call (x : Line) (b : Bool) : (x.loopFrame b).state = x.state ∧ (x.loopFrame b).admission = x.admission ∧
    (x.loopFrame b).answered = x.answered := by
  unfold Line.loopFrame
  (repeat' split) <;> simp

theorem Line.ringFrameTick_call (x : Line) (b : Bool) : (x.ringFrameTick b).state = x.state ∧
    (x.ringFrameTick b).admission = x.admission ∧ (x.ringFrameTick b).answered = x.answered := by
  unfold Line.ringFrameTick
  (repeat' split) <;> simp

theorem Reaches.lineFrame (h : Reaches s t) {l : LineNo} : Reaches s (lineFrame t l) := by
  have h1 := (t.line l).loopFrame_call (t.slot l).loopPresent
  have h2 := ((t.line l).loopFrame (t.slot l).loopPresent).ringFrameTick_call (t.slot l).ringPresent
  unfold Machine.lineFrame
  dsimp only
  refine h.setLine ?_ ?_ ?_
  · exact h2.1.trans h1.1
  · exact h2.2.1.trans h1.2.1
  · exact h2.2.2.trans h1.2.2

theorem Reaches.classFrame (h : Reaches s t) {c : TimeoutClass} : Reaches s (classFrame t c) := h.setTick

theorem Reaches.clockFrame (h : Reaches s t) : Reaches s (clockFrame t) := by
  unfold Machine.clockFrame
  refine h.setClock fun hk => ?_
  obtain ⟨⟨h1, h2, h3, h4, h5, h6⟩, -⟩ := hk
  refine ⟨h1, h2, h3, h4, ?_, h6⟩
  show (if secondDue t then 0 else t.clock.frame + 1) < t.clock.length
  split
  · omega
  · simp only [secondDue, decide_eq_true_eq, Nat.not_le] at *
    assumption

/-- A highway frame, but for the events that join the queue. -/
theorem Reaches.frameTick (h : Reaches s t) : Reaches s { frameTick t with pending := t.pending } := by
  have h1 := h.foldl (fun u l => Reaches.sendWord (s := u) (l := l) .refl) allLines
  have h2 := h1.foldl (fun u l => Reaches.lineFrame (s := u) (l := l) .refl) allLines
  have h3 := h2.foldl (fun u c => Reaches.classFrame (s := u) (c := c) .refl) allClasses
  have hback (x : State) (hx : x.pending = t.pending) (hr : Reaches s x) : Reaches s { x with pending := t.pending } :=
    hr.same (by simp only [State.core, hx])
  unfold Machine.frameTick
  dsimp only
  exact hback _ (by simp) h3.clockFrame

end

/-! ### The desk link (FrameOps, LinkCommands) -/

section
variable {s t : State}

theorem Reaches.sheetFrame (h : Reaches s t) {c : ChannelNo} {p : List Byte} : Reaches s (sheetFrame c p t) := by
  unfold Machine.sheetFrame
  split
  · exact h.arriveStart
  · exact h.arriveEnd
  · exact h.arriveAbort
  · exact h

theorem Reaches.rasterFrame (h : Reaches s t) {c : ChannelNo} {p : List Byte} : Reaches s (rasterFrame c p t) := by
  unfold Machine.rasterFrame
  split
  · exact h.arriveRaster
  · exact h

theorem Reaches.creditFrame (h : Reaches s t) {p : List Byte} : Reaches s (creditFrame p t) := by
  unfold Machine.creditFrame
  split
  · exact h.takePrinterCredit
  · exact h

theorem Reaches.statusFrame (h : Reaches s t) {p : List Byte} : Reaches s (statusFrame p t) := by
  unfold Machine.statusFrame
  split
  · exact .ite h.takePaperReady (.ite h.takePaperOut h)
  · exact h

/-- What a frame that passed its check does: an order is taken, or a chain of elementary changes follows. -/
theorem dealFrame_cases (f : Frame) (s : State) :
    (∃ code tag params, dealFrame f s = takeOrder code tag params s) ∨ Reaches s (dealFrame f s) := by
  unfold dealFrame
  split
  · unfold orderFrame
    split
    next o _ => exact .inl ⟨o.code, o.tag, o.params, rfl⟩
    next => exact .inr .refl
  · exact .inr Reaches.refl.rasterFrame
  · exact .inr Reaches.refl.sheetFrame
  · exact .inr Reaches.refl.creditFrame
  · exact .inr Reaches.refl.statusFrame
  · exact .inr .refl

theorem Reaches.offerWaiting (h : Reaches s t) : Reaches s (offerWaiting t) := by
  unfold Machine.offerWaiting
  split
  · exact h.offerDone.printerLook
  · exact h

/-- The state with other bytes leaving on the link. -/
def State.leaving (s : State) (x : Option (List Byte)) : State := { s with link := { s.link with sending := x } }

theorem selectReport_leaves (s : State) : ∃ u x, Reaches s u ∧ Reaches (u.leaving x) (selectReport s) := by
  unfold selectReport
  split
  next q rest hq =>
    exact ⟨_, _, Reaches.refl.change (.reports rest s.link.gap fun hl => by simp only [hq, List.length_cons] at hl; omega),
      Reaches.refl.offerWaiting⟩
  next => exact ⟨s, none, .refl, .refl⟩

theorem selectPrinter_leaves (s : State) : ∃ u x, Reaches s u ∧ Reaches (u.leaving x) (selectPrinter s) := by
  unfold selectPrinter
  split
  · exact ⟨_, _, Reaches.refl.setPrinter (x := { s.printer with started := true }) (Nat.le_refl _), .refl⟩
  · exact selectReport_leaves s

/-- What leaves where no reply waits: beside the bytes on the link, elementary changes before and after. -/
theorem transmitSelect_leaves (hr : s.link.replies = []) : ∃ u x, Reaches s u ∧ Reaches (u.leaving x) (transmitSelect s) := by
  unfold transmitSelect
  rw [hr]
  dsimp only
  split
  · exact ⟨s, _, .refl, Reaches.refl.same rfl⟩
  · exact selectPrinter_leaves s

end

/-! ### A command -/

/-- What a command makes of the state: through the parser or the desk link, by a reset, or by a chain of elementary changes. -/
inductive Dealt (s : State) : State → Prop
  | order (code : Byte) (tag : Tag) (params : List Byte) : Dealt s (takeOrder code tag params s)
  | frame (f : Frame) : Dealt s (dealFrame f (checkerIdle s))
  | bytes (bs : List Byte) : Dealt s (arriveBytes bs s)
  | transmit : Dealt s (transmitSelect s)
  | reset (msz : BitVec 2) : Dealt s { State.afterReset msz with pending := s.pending }
  | own {t : State} (h : Reaches s t) : Dealt s t

section
variable {s t : State}

theorem Dealt.ite {c : Prop} [Decidable c] {t u : State} (h : Dealt s t) (h' : Dealt s u) : Dealt s (if c then t else u) := by
  split <;> assumption

/-- Every command has a next state, and one of the six kinds. -/
theorem exec_dealt (i : Instr) (s : State) : ∃ t, exec i s = .next t ∧ Dealt s t := by
  cases i with
  | hardReset msz => exact ⟨_, rfl, .reset msz⟩
  | frameCheckFail bytes => exact ⟨_, rfl, .bytes bytes⟩
  | frameDiscarded dst src kind payload => exact ⟨_, rfl, .frame _⟩
  | orderFrame src payload => exact ⟨_, rfl, .frame _⟩
  | orderBadCode tag code params => exact ⟨_, rfl, .ite (.order ..) (.own .refl)⟩
  | configure tag params => exact ⟨_, rfl, .order ..⟩
  | loadRoute tag params => exact ⟨_, rfl, .order ..⟩
  | clearRoute tag params => exact ⟨_, rfl, .order ..⟩
  | loadDialProfile tag params => exact ⟨_, rfl, .order ..⟩
  | loadGroup tag params => exact ⟨_, rfl, .order ..⟩
  | stageTariff tag params => exact ⟨_, rfl, .order ..⟩
  | applyTariff tag params => exact ⟨_, rfl, .order ..⟩
  | loadBands tag params => exact ⟨_, rfl, .order ..⟩
  | loadDayMap tag params => exact ⟨_, rfl, .order ..⟩
  | setTime tag params => exact ⟨_, rfl, .order ..⟩
  | readTime tag params => exact ⟨_, rfl, .order ..⟩
  | setAccount tag params => exact ⟨_, rfl, .order ..⟩
  | readAccount tag params => exact ⟨_, rfl, .order ..⟩
  | takeRecords tag params => exact ⟨_, rfl, .order ..⟩
  | setLine tag params => exact ⟨_, rfl, .order ..⟩
  | retireLine tag params => exact ⟨_, rfl, .order ..⟩
  | returnLine tag params => exact ⟨_, rfl, .order ..⟩
  | readLine tag params => exact ⟨_, rfl, .order ..⟩
  | openDocument tag params => exact ⟨_, rfl, .order ..⟩
  | closeDocument tag params => exact ⟨_, rfl, .order ..⟩
  | replacePage tag params => exact ⟨_, rfl, .order ..⟩
  | releaseDocument tag params => exact ⟨_, rfl, .order ..⟩
  | readDocument tag params => exact ⟨_, rfl, .order ..⟩
  | submitSend tag params => exact ⟨_, rfl, .order ..⟩
  | submitPrint tag params => exact ⟨_, rfl, .order ..⟩
  | cancelJob tag params => exact ⟨_, rfl, .order ..⟩
  | readJob tag params => exact ⟨_, rfl, .order ..⟩
  | readStore tag params => exact ⟨_, rfl, .order ..⟩
  | restart tag params => exact ⟨_, rfl, .order ..⟩
  | sheetStart src fields => exact ⟨_, rfl, .frame _⟩
  | sheetEnd src fields => exact ⟨_, rfl, .frame _⟩
  | sheetAbort src fields => exact ⟨_, rfl, .frame _⟩
  | raster src payload => exact ⟨_, rfl, .frame _⟩
  | coderTurn => exact ⟨_, rfl, .own Reaches.refl.coderTurn⟩
  | admissionPass => exact ⟨_, rfl, .own Reaches.refl.admissionPass⟩
  | cadencePhaseEnd line => exact ⟨_, rfl, .own Reaches.refl.phaseEnd⟩
  | lineLost line => exact ⟨_, rfl, .own Reaches.refl.lineLost⟩
  | busy line => exact ⟨_, rfl, .own Reaches.refl.busyHeard⟩
  | guardTimeEnd line => exact ⟨_, rfl, .own Reaches.refl.guardEnd⟩
  | ringPresent line => exact ⟨_, rfl, .own Reaches.refl.ringFrame⟩
  | ringEnd line frames => exact ⟨_, rfl, .own Reaches.refl.ringEnd⟩
  | ringingEpisodeEnd line => exact ⟨_, rfl, .own Reaches.refl.episodeEnd⟩
  | answerBlankingEnd line => exact ⟨_, rfl, .own Reaches.refl.blankingEnd⟩
  | ability line fields => exact ⟨_, rfl, .own Reaches.refl.takeMessage⟩
  | choice line fields => exact ⟨_, rfl, .own Reaches.refl.takeMessage⟩
  | trialQuality line good => exact ⟨_, rfl, .own Reaches.refl.takeTrialQuality⟩
  | trialGood line rest => exact ⟨_, rfl, .own Reaches.refl.takeMessage⟩
  | trialBad line rest => exact ⟨_, rfl, .own Reaches.refl.takeMessage⟩
  | pageDataByteSend line => exact ⟨_, rfl, .own Reaches.refl.sendDataByte⟩
  | pageDataByte line value => exact ⟨_, rfl, .own Reaches.refl.takeDataByte⟩
  | pageDataEnd line => exact ⟨_, rfl, .own Reaches.refl.takeDataEnd⟩
  | pageEnd line fields => exact ⟨_, rfl, .own Reaches.refl.takeMessage⟩
  | verdictGood line rest => exact ⟨_, rfl, .own Reaches.refl.takeMessage⟩
  | verdictResend line rest => exact ⟨_, rfl, .own Reaches.refl.takeMessage⟩
  | wait line rest => exact ⟨_, rfl, .own Reaches.refl.takeMessage⟩
  | close line fields => exact ⟨_, rfl, .own Reaches.refl.takeMessage⟩
  | messageCheckError line checkError bytes => exact ⟨_, rfl, .own (.ite .refl Reaches.refl.takeMessage)⟩
  | closeHanded line => exact ⟨_, rfl, .own Reaches.refl.closeHanded⟩
  | classTick cls => exact ⟨_, rfl, .own Reaches.refl.classTick⟩
  | answerTimeout line => exact ⟨_, rfl, .own Reaches.refl.lineTimeout⟩
  | messageTimeout line => exact ⟨_, rfl, .own Reaches.refl.lineTimeout⟩
  | dataTimeout line => exact ⟨_, rfl, .own Reaches.refl.lineTimeout⟩
  | pageTimeout line => exact ⟨_, rfl, .own Reaches.refl.lineTimeout⟩
  | scanTimeout channel => exact ⟨_, rfl, .own Reaches.refl.scanTimeout⟩
  | printTimeout => exact ⟨_, rfl, .own Reaches.refl.printTimeout⟩
  | secondEvent => exact ⟨_, rfl, .own Reaches.refl.secondEvent⟩
  | unitBoundary line => exact ⟨_, rfl, .own Reaches.refl.unitBoundary⟩
  | destinationEligible job dest => exact ⟨_, rfl, .own Reaches.refl.destinationEligible⟩
  | printerCredit src payload => exact ⟨_, rfl, .frame _⟩
  | paperOut src rest => exact ⟨_, rfl, .frame _⟩
  | paperReady src rest => exact ⟨_, rfl, .frame _⟩
  | printerFrameSent => exact ⟨_, rfl, .own Reaches.refl.printerFrameGone⟩
  | transmitSelect => exact ⟨_, rfl, .transmit⟩
  | messageByteSend line => exact ⟨_, rfl, .own Reaches.refl.sendMessageByte⟩
  | loopCurrentChange line present => exact ⟨_, rfl, .own Reaches.refl.loopCurrent⟩
  | ringIntervalStart line => exact ⟨_, rfl, .own Reaches.refl.ringFrame⟩

/-- A step is a highway frame, or what a command makes of the state without it. -/
theorem step_dealt (s : State) : ∃ (t : State) (ps qs : List Instr),
    step s = .next { t with pending := qs } ∧ Dealt { s with pending := ps } t := by
  cases hp : s.pending with
  | nil =>
    have h : step s = .next (frameTick s) := by
      unfold step
      rw [hp]
    have hx (x : State) (h : step s = .next x) (hr : Reaches s { x with pending := s.pending }) :
        ∃ (t : State) (ps qs : List Instr), step s = .next { t with pending := qs } ∧ Dealt { s with pending := ps } t :=
      ⟨{ x with pending := s.pending }, s.pending, x.pending, h, .own hr⟩
    exact hx _ h Reaches.refl.frameTick
  | cons c rest =>
    obtain ⟨t, he, hd⟩ := exec_dealt c { s with pending := rest }
    refine ⟨t, rest, t.pending, ?_, hd⟩
    unfold step
    rw [hp]
    exact he

end

/-! ### What every step keeps -/

theorem Link.intake_reports (k : Link) (o : Order) : (k.intake o).reports = k.reports := by
  unfold Link.intake
  (repeat' split) <;> rfl

/-- A property that the elementary changes keep, and that does not look at the queue of commands nor at the parser's and the checker's
parts of the link. -/
structure Preserved (P : State → Prop) : Prop where
  change : ∀ {s t : State}, Change s t → P s → P t
  link : ∀ {s : State} {k : Link}, k.reports = s.link.reports → P s → P { s with link := k }
  pending : ∀ {s : State} {ps : List Instr}, P s → P { s with pending := ps }

section
variable {P : State → Prop} (hP : Preserved P) {s t : State}
include hP

theorem Preserved.reaches (h : Reaches s t) (hs : P s) : P t := h.keeps (fun _ _ => hP.change) hs

theorem Preserved.takeEntry (e : OrderEntry) (hs : P s) : P (takeEntry e s) := by
  unfold Machine.takeEntry
  split
  next o => exact hP.link rfl (hP.reaches (Reaches.refl.ownerOf o.code o.params) (hP.link (by rfl) hs))
  next => exact hP.link rfl hs

theorem Preserved.runParser (n : Nat) (hs : P s) : P (runParser n s) := by
  induction n generalizing s with
  | zero => exact hs
  | succ n ih =>
    unfold Machine.runParser
    split
    · split
      · refine ih (hP.takeEntry _ (hP.link ?_ hs))
        rfl
      · exact hs
    · exact hs

theorem Preserved.parse (hs : P s) : P (parse s) := hP.runParser _ hs

theorem Preserved.takeOrder (code : Byte) (tag : Tag) (params : List Byte) (hs : P s) : P (takeOrder code tag params s) := by
  refine hP.parse (hP.link ?_ hs)
  exact Link.intake_reports ..

theorem Preserved.dealFrame (f : Frame) (hs : P s) : P (dealFrame f s) := by
  rcases dealFrame_cases f s with ⟨code, tag, params, e⟩ | h
  · rw [e]
    exact hP.takeOrder code tag params hs
  · exact hP.reaches h hs

theorem Preserved.arriveBytes (bs : List Byte) (hs : P s) : P (arriveBytes bs s) := by
  have hf (fs : List Frame) {t : State} (ht : P t) : P (fs.foldl (fun s f => Machine.dealFrame f s) t) := by
    induction fs generalizing t with
    | nil => exact ht
    | cons f fs ih => exact ih (hP.dealFrame f ht)
  unfold Machine.arriveBytes
  refine hP.link ?_ (hf _ hs)
  rfl

theorem Preserved.transmitSelect (hs : P s) : P (transmitSelect s) := by
  cases hr : s.link.replies with
  | nil =>
    obtain ⟨u, x, h1, h2⟩ := transmitSelect_leaves hr
    refine hP.reaches h2 (hP.link (s := u) (k := { u.link with sending := x }) ?_ (hP.reaches h1 hs))
    rfl
  | cons r rest =>
    unfold Machine.transmitSelect
    rw [hr]
    refine hP.parse (hP.link (s := s) (k := { s.link with replies := rest, sending := some (frameTo 1 .reply r.bytes) }) ?_ hs)
    rfl

/-- A step keeps what the elementary changes keep and the state after reset has. -/
theorem Preserved.step (hr : ∀ msz, P (State.afterReset msz)) (h : step s = .next t) (hs : P s) : P t := by
  obtain ⟨u, ps, qs, he, hd⟩ := step_dealt s
  obtain rfl : { u with pending := qs } = t := by rw [he] at h; exact Host.Outcome.next.inj h
  have hs' : P { s with pending := ps } := hP.pending hs
  refine hP.pending ?_
  cases hd with
  | order code tag params => exact hP.takeOrder code tag params hs'
  | frame f => exact hP.dealFrame f (hP.link (by rfl) hs')
  | bytes bs => exact hP.arriveBytes bs hs'
  | transmit => exact hP.transmitSelect hs'
  | reset msz => exact hP.pending (s := State.afterReset msz) (hr msz)
  | own h => exact hP.reaches h hs'

end
end Sys2Proof.Machine
end

section
/-! PROOFS. The state after reset: its tables, and the invariants that it meets (O4, O5); and what a step on a command is (O1). -/

namespace Sys2Proof.Machine

/-- Settles O1. -/
theorem stepRunsFrontCommand : Obligations.StepRunsFrontCommand := by
  intro s c rest h
  unfold step
  rw [h]

/-! ### The tables after reset -/

section
variable (msz : BitVec 2)

@[simp] theorem afterReset_line (l : LineNo) : (State.afterReset msz).line l = .initial := fetch_replicate ..
@[simp] theorem afterReset_meter (l : LineNo) : (State.afterReset msz).meter l = .initial := fetch_replicate ..
@[simp] theorem afterReset_account (a : Fin 64) : (State.afterReset msz).account a = .initial := fetch_replicate ..
@[simp] theorem afterReset_channel (c : ChannelNo) : (State.afterReset msz).channel c = .idle := fetch_replicate ..
@[simp] theorem afterReset_job (j : Fin 32) : (State.afterReset msz).job j = none := fetch_replicate ..
@[simp] theorem afterReset_doc (d : Fin 64) : (State.afterReset msz).doc d = none := fetch_replicate ..
@[simp] theorem afterReset_page (p : Fin 256) : (State.afterReset msz).page p = .blank := fetch_replicate ..
@[simp] theorem afterReset_proc (l : LineNo) : (State.afterReset msz).proc l = .idle := fetch_replicate ..
@[simp] theorem afterReset_slot (l : LineNo) : (State.afterReset msz).slot l = .initial := fetch_replicate ..

theorem afterReset_timeKept : (State.afterReset msz).timeKept := by
  have hcell : Cell.inRange ⟨0, 0, 0⟩ := ⟨by decide, by decide, by decide⟩
  have hclock : Clock.initial.inRange :=
    ⟨by decide, by decide, by decide, by decide, by decide, fun i => by simpa [Clock.initial] using hcell⟩
  refine ⟨hclock, (by decide : (-255 : Int) ≤ 0), (by decide : (0 : Int) ≤ 255), fun l => ?_⟩
  rw [afterReset_meter]
  exact ⟨by decide, by decide, by decide⟩

theorem afterReset_accountsKept : (State.afterReset msz).accountsKept := fun a => by
  rw [afterReset_account]
  exact ⟨by decide, by decide, by decide⟩

theorem afterReset_admissions : (State.afterReset msz).admissions = [] := by
  unfold State.admissions
  simp only [afterReset_line]
  rfl

theorem afterReset_callsKept : (State.afterReset msz).callsKept := by
  refine ⟨fun l => ?_, fun a => ?_, fun i => ?_, Nat.zero_le _⟩
  · simp only [State.callKept, afterReset_line, afterReset_meter]
    exact ⟨by simp [Line.initial], by simp [Line.initial], rfl, rfl⟩
  · rw [afterReset_account, afterReset_admissions]
    rfl
  · rw [afterReset_admissions]
    exact fetch_replicate ..

theorem afterReset_tiesKept : (State.afterReset msz).tiesKept := fun j d x h => by
  simp [State.dest, State.sendJob] at h

theorem afterReset_queuesKept : (State.afterReset msz).queuesKept := by
  refine ⟨Nat.zero_le _, Nat.zero_le _, (by decide : 1 ≤ 64), Nat.zero_le _, fun c => ?_⟩
  rw [afterReset_channel]
  simp [Channel.creditsKept, Channel.idle, Channel.unused]

theorem afterReset_parserKept : (State.afterReset msz).parserKept := .inl rfl

end

theorem Store.initial_blocksKept (n : Nat) : (Store.initial n).blocksKept := by
  refine ⟨?_, fun p _ => by simp [Store.initial, Page.blank]⟩
  have h : (Store.initial n).pages.toList.flatMap Page.chain = [] := by
    simp only [Store.initial, Vector.toList_replicate, List.flatMap_eq_nil_iff]
    intro p hp
    rw [List.eq_of_mem_replicate hp]
    rfl
  rw [h, List.append_nil]
  exact .refl _

theorem Store.initial_pagesKept (n : Nat) : (Store.initial n).pagesKept := by
  refine ⟨fun p => ?_, fun p => ?_, fun d x h => ?_⟩
  · simp [Store.initial, Page.blank, Store.claimCount]
  · simp [Store.initial, Page.blank]
  · simp [Store.initial] at h

/-- Settles O5. -/
theorem resetMeetsInvariants : Obligations.ResetMeetsInvariants :=
  ⟨State.reset_mem_wf, Store.initial_blocksKept _, Store.initial_pagesKept _, afterReset_timeKept _, afterReset_accountsKept _,
    afterReset_callsKept _, afterReset_tiesKept _, afterReset_queuesKept _, afterReset_parserKept _⟩

/-- Settles O4. -/
theorem hardResetSetsDefaults : Obligations.HardResetSetsDefaults := by
  intro msz s
  refine ⟨{ State.afterReset msz with pending := s.pending }, rfl, ?_⟩
  have hl (l : LineNo) : State.line { State.afterReset msz with pending := s.pending } l = .initial := fetch_replicate ..
  have hm (l : LineNo) : State.meter { State.afterReset msz with pending := s.pending } l = .initial := fetch_replicate ..
  have ha (a : Fin 64) : State.account { State.afterReset msz with pending := s.pending } a = .initial := fetch_replicate ..
  have hc (c : ChannelNo) : State.channel { State.afterReset msz with pending := s.pending } c = .idle := fetch_replicate ..
  have hj (j : Fin 32) : State.job { State.afterReset msz with pending := s.pending } j = none := fetch_replicate ..
  have hd (d : Fin 64) : State.doc { State.afterReset msz with pending := s.pending } d = none := fetch_replicate ..
  have hp (p : Fin 256) : State.page { State.afterReset msz with pending := s.pending } p = .blank := fetch_replicate ..
  have hq (l : LineNo) : State.proc { State.afterReset msz with pending := s.pending } l = .idle := fetch_replicate ..
  have ht (l : LineNo) : State.slot { State.afterReset msz with pending := s.pending } l = .initial := fetch_replicate ..
  simp only [hl, hm, ha, hc, hj, hd, hp, hq, ht]
  simp only [State.afterReset, fetch_replicate, Store.initial, JobTable.initial, RouteTable.initial, ScanPart.initial, Link.initial,
    Clock.initial, PrintChannel.initial]
  simp [Line.initial, Page.blank, Channel.idle, Proc.idle, Slot.initial, Meter.initial, Account.initial, Route.invalid,
    Profile.default, strapBlocks, Configuration.default, CoderContext.empty, Supervision.off, Cadence.stopped, Recoder.idle,
    Decoder.start]

end Sys2Proof.Machine
end

section
/-! PROOFS. The compound elementary changes by what they leave in each table, and the invariants of the page memory, of the clock
and the meters, and of the accounts (O6, O8, O9). -/

namespace Sys2Proof.Machine

/-! ### A release, a placement and an answer, table by table -/

section
variable (s : State) (l : LineNo)

theorem releaseContext_lines (why : Reason) (n : Nat) (name : Name) :
    (releaseContext l why n name s).lines = store s.lines l ((s.line l).released why s.cfg.guardTime) := by
  unfold releaseContext
  dsimp only
  split <;> simp

theorem releaseContext_of_none {why : Reason} {n : Nat} {name : Name} (h : (s.line l).admission = none) :
    let t := releaseContext l why n name s
    t.meters = s.meters ∧ t.accounts = s.accounts ∧ t.routes = s.routes ∧ t.charges = s.charges ∧ t.link = s.link := by
  simp [releaseContext, h]

/-- The tables that the end of an admitted call reaches (R119 step 3). -/
theorem releaseContext_of_some {why : Reason} {n : Nat} {name : Name} {a : Admission} (h : (s.line l).admission = some a) :
    let t := releaseContext l why n name s
    t.meters = (if (s.line l).answered then store s.meters l { s.meter l with running := false } else s.meters) ∧
      t.accounts = store s.accounts a.account { s.account a.account with active := (s.account a.account).active - 1 } ∧
      t.routes.active = change s.routes.active a.entry (fun k => k - 1) ∧
      t.charges.reserved = s.charges.reserved.filter (fun r => decide (r.line ≠ l)) ∧
      t.charges.filled.length = s.charges.filled.length + (if (s.line l).answered then 1 else 0) := by
  cases ha : (s.line l).answered
  · simp [releaseContext, h, ha, settleCharge, chargeUnanswered, lowerCounts, State.setAccount, State.account,
      ChargeQueue.unreserve]
  · simp only [releaseContext, h, ha, settleCharge, chargeAnswered, fillCharge, if_true]
    split <;> simp [lowerCounts, State.setAccount, State.account, ChargeQueue.unreserve, State.setMeter, State.meter]

end

/-! ### RESTART, line by line -/

/-- The parts of the state that RESTART's lines reach, and that RESTART's discards leave alone. -/
def State.callCore (s : State) :=
  (s.cfg, s.clock, s.routes.active, s.lines, s.meters, s.accounts, s.charges, s.link.bytes, s.link.orders, s.link.inHand,
    s.link.replies, s.link.last, s.link.reports, s.link.sending)

theorem restartCredit_callCore (s : State) (c : ChannelNo) : (restartCredit s c).callCore = s.callCore := by
  unfold restartCredit
  dsimp only
  split
  · rfl
  · split <;> rfl

/-- What the releases of RESTART keep, RESTART keeps. -/
theorem restartBlocks_keeps {P : State → Prop} (hc : ∀ {s t : State}, t.callCore = s.callCore → P s → P t)
    (hr : ∀ {s : State} {l : LineNo} {n : Nat} {name : Name}, (s.line l).releasable = true → P s →
      P (releaseContext l .restart n name s))
    (hl : ∀ {s : State} {l : LineNo} {x : Line}, LineKept (s.line l) x → P s → P (s.setLine l x)) {s : State} (hs : P s) :
    P (restartBlocks s) := by
  have hline (s : State) (l : LineNo) (hs : P s) : P (restartLine s l) := by
    have h1 (n : Nat) (name : Name) : P (releaseAtRestart l n name (s.setProc l .idle)) := by
      unfold releaseAtRestart
      have h0 : P (s.setProc l .idle) := hc (s := s) rfl hs
      split
      next h => exact hr h h0
      next => exact h0
    have h2 {u : State} (hu : P u) : P (if (u.line l).state = .ringing then u.setLine l (u.line l).ended else u) := by
      split
      next h => exact hl ⟨rfl, by simp [Line.releasable, h], .inl rfl⟩ hu
      next => exact hu
    exact h2 (h1 _ _)
  have hlines (ls : List LineNo) {s : State} (hs : P s) : P (ls.foldl restartLine s) := by
    induction ls generalizing s with
    | nil => exact hs
    | cons l ls ih => exact ih (hline s l hs)
  have hcredits (cs : List ChannelNo) {s : State} (hs : P s) : P (cs.foldl restartCredit s) := by
    induction cs generalizing s with
    | nil => exact hs
    | cons c cs ih => exact ih (hc (restartCredit_callCore s c) hs)
  have hprinter {u : State} (hu : P u) : P (restartPrinter u) := hc (by simp [State.callCore]) hu
  have hdrop {u : State} {j : JobTable} {c : List (Fin 32 × Nat)} {st : Store} (hu : P u) :
      P { u with jobs := j, routes := { u.routes with passing := false, rerun := false, candidates := c }, store := st } :=
    hc (s := u) rfl hu
  have hscan {u : State} (hu : P u) : P { u with scan := .initial } := hc (s := u) rfl hu
  exact hscan (hcredits _ (hdrop (hprinter (hlines _ hs))))

theorem foldl_restartLine_store (ls : List LineNo) (s : State) : (ls.foldl restartLine s).store = s.store := by
  refine foldl_keep _ _ (fun s l => ?_) _ _
  unfold restartLine
  dsimp only
  (repeat' split) <;> simp

theorem restartBlocks_store (s : State) : (restartBlocks s).store = s.store.restarted := by
  simp [restartBlocks, foldl_restartLine_store]

/-! ### The desk link -/

/-- A link whose checker, order queue and reply queue stand as they were, and whose report queue keeps its bound. -/
def LinkKept (k k' : Link) : Prop :=
  k'.bytes = k.bytes ∧ k'.orders = k.orders ∧ k'.inHand = k.inHand ∧ k'.replies = k.replies ∧ k'.last = k.last ∧
    (k.reports.length ≤ 64 → k'.reports.length ≤ 64)

theorem LinkKept.refl (k : Link) : LinkKept k k := ⟨rfl, rfl, rfl, rfl, rfl, id⟩

theorem LinkKept.trans {k k' k'' : Link} (h : LinkKept k k') (h' : LinkKept k' k'') : LinkKept k k'' := by
  obtain ⟨h1, h2, h3, h4, h5, h6⟩ := h
  obtain ⟨g1, g2, g3, g4, g5, g6⟩ := h'
  exact ⟨g1.trans h1, g2.trans h2, g3.trans h3, g4.trans h4, g5.trans h5, g6 ∘ h6⟩

theorem LinkKept.of_eq {k k' : Link} (h : k' = k) : LinkKept k k' := h ▸ .refl k

theorem report_linkKept (r : Report) (s : State) : LinkKept s.link (report r s).link := by
  unfold report Link.offer
  split
  next h => exact ⟨rfl, rfl, rfl, rfl, rfl, fun _ => by simpa using h⟩
  next => exact ⟨rfl, rfl, rfl, rfl, rfl, id⟩

theorem postAccount_linkKept (n : Fin 64) (k : Nat) (s : State) : LinkKept s.link (postAccount n k s).link := by
  unfold postAccount putAccount
  split
  · exact report_linkKept _ _
  · exact .refl _

theorem meterPost_linkKept (l : LineNo) (k : Nat) (s : State) : LinkKept s.link (meterPost l k s).link := by
  unfold meterPost
  split
  · exact .refl _
  · exact postAccount_linkKept _ _ _

theorem meterStart_linkKept (l : LineNo) (z : Fin 8) (a : Fin 64) (s : State) : LinkKept s.link (meterStart l z a s).link := by
  unfold meterStart
  exact meterPost_linkKept l _ (s.setMeter l _)

theorem fillCharge_linkKept (l : LineNo) (r : ChargeRecord) (s : State) : LinkKept s.link (fillCharge l r s).link := by
  unfold fillCharge
  dsimp only
  split
  · exact report_linkKept _ _
  · exact .refl _

theorem releaseContext_linkKept (l : LineNo) (why : Reason) (n : Nat) (name : Name) (s : State) :
    LinkKept s.link (releaseContext l why n name s).link := by
  unfold releaseContext
  dsimp only
  split
  · exact .refl _
  · rw [(lowerCounts_frame _ _).2.2.2.2.2.2.2.2.2.2.2.2.2.2.1]
    unfold settleCharge chargeAnswered
    split
    · exact fillCharge_linkKept _ _ _
    · exact .refl _

theorem Change.linkKept {s t : State} (h : Change s t) : LinkKept s.link t.link := by
  cases h with
  | same h =>
    simp only [State.core, Prod.mk.injEq] at h
    obtain ⟨-, -, -, -, -, -, -, -, -, -, -, h1, h2, h3, h4, h5, h6, -⟩ := h
    exact ⟨h1, h2, h3, h4, h5, by rw [h6]; exact id⟩
  | reports rs gap h => exact ⟨rfl, rfl, rfl, rfl, rfl, h⟩
  | store | channel | printer | job | line | meter | account | clock | config | records => exact .refl _
  | place j d x b i => exact .of_eq (by simp)
  | @answer l a h => exact meterStart_linkKept l a.zone a.account (s.setLine l { s.line l with answered := true })
  | release why n name => exact releaseContext_linkKept _ _ _ _ _
  | @releaseDest l a why n name f => exact .trans (releaseContext_linkKept l why n name s) (.of_eq (by simp))
  | restart =>
    refine restartBlocks_keeps (P := fun u => LinkKept s.link u.link) (fun {a b} hc hs => ?_)
      (fun _ hs => hs.trans (releaseContext_linkKept _ _ _ _ _)) (fun _ hs => hs) (.refl _)
    simp only [State.callCore, Prod.mk.injEq] at hc
    obtain ⟨-, -, -, -, -, -, -, h1, h2, h3, h4, h5, h6, -⟩ := hc
    exact hs.trans ⟨h1, h2, h3, h4, h5, by rw [h6]; exact id⟩

theorem Reaches.linkKept {s t : State} (h : Reaches s t) : LinkKept s.link t.link :=
  h.keeps (P := fun u => LinkKept s.link u.link) (fun _ _ hc hs => hs.trans hc.linkKept) (.refl _)

/-! ### The page memory (O6) -/

theorem StoreChange.mem_wf {st u : Store} (h : StoreChange st u) (hw : st.mem.wf = true) : u.mem.wf = true := by
  cases h with
  | append h => exact Store.append_wf h hw
  | _ => simpa using hw

/-- What an elementary change makes of the store. -/
theorem Change.store_cases {s t : State} (h : Change s t) :
    t.store = s.store ∨ StoreChange s.store t.store ∨ t.store = s.store.restarted := by
  cases h with
  | same h =>
    simp only [State.core, Prod.mk.injEq] at h
    exact .inl h.2.1
  | store h => exact .inr (.inl h)
  | restart => exact .inr (.inr (restartBlocks_store s))
  | _ => exact .inl (by simp)

/-- A property of the store that its elementary changes and RESTART keep. -/
theorem preserved_store {P : Store → Prop} (hP : ∀ {st u : Store}, StoreChange st u → P st → P u)
    (hr : ∀ {st : Store}, P st → P st.restarted) : Preserved (fun s => P s.store) where
  change h hs := by
    rcases h.store_cases with e | h' | e
    · rwa [e]
    · exact hP h' hs
    · rw [e]
      exact hr hs
  link _ hs := hs
  pending hs := hs

/-- Settles O6: a store changes its memory by appends only, and an append writes bytes one at a time. -/
theorem memoryStaysCanonical : Obligations.MemoryStaysCanonical := by
  intro s t hs h
  exact (preserved_store (P := fun st => st.mem.wf = true) StoreChange.mem_wf fun h => h).step (fun _ => rfl) h hs

/-! ### The clock and the meters (O8) -/

theorem State.timeKept_congr {s t : State} (hc : t.clock = s.clock) (hf : t.cfg.correction = s.cfg.correction)
    (hm : ∀ l, (t.meter l).inRange ∨ (t.meter l) = s.meter l) (h : s.timeKept) : t.timeKept := by
  obtain ⟨h1, h2, h3, h4⟩ := h
  refine ⟨hc ▸ h1, hf ▸ h2, hf ▸ h3, fun l => ?_⟩
  rcases hm l with h | h
  · exact h
  · rw [h]
    exact h4 l

/-- A meter set to contents in range. -/
theorem State.timeKept.setMeter {s : State} (h : s.timeKept) {l : LineNo} {m : Meter} (hm : m.inRange) :
    (s.setMeter l m).timeKept := by
  refine State.timeKept_congr (s := s) rfl rfl (fun k => ?_) h
  by_cases e : k = l
  · subst e
    exact .inl (by simpa using hm)
  · exact .inr (by simp [e])

theorem releaseContext_timeKept {s : State} (h : s.timeKept) (l : LineNo) (why : Reason) (n : Nat) (name : Name) :
    (releaseContext l why n name s).timeKept := by
  have hm : (releaseContext l why n name s).meters = s.meters ∨
      (releaseContext l why n name s).meters = (s.setMeter l { s.meter l with running := false }).meters := by
    cases ha : (s.line l).admission with
    | none => exact .inl (releaseContext_of_none s l ha).1
    | some a =>
      rw [(releaseContext_of_some s l ha).1]
      split
      · exact .inr rfl
      · exact .inl rfl
  rcases hm with e | e
  · exact State.timeKept_congr (by simp) (by simp) (fun k => .inr (by simp [State.meter, e])) h
  · exact State.timeKept_congr (s := s.setMeter l { s.meter l with running := false }) (by simp) (by simp)
      (fun k => .inr (by simp only [State.meter, e])) (h.setMeter (h.2.2.2 l))

theorem meterPost_timeKept {s : State} (h : s.timeKept) (l : LineNo) (k : Nat) : (meterPost l k s).timeKept := by
  unfold meterPost
  split
  · exact h
  · refine State.timeKept_congr (s := s.setMeter l { s.meter l with units := (s.meter l).units + BitVec.ofNat 32 k }) (by simp)
      (by simp) (fun j => .inr (by simp [State.meter])) (h.setMeter (h.2.2.2 l))

theorem meterStart_timeKept {s : State} (h : s.timeKept) (l : LineNo) (z : Fin 8) (a : Fin 64) : (meterStart l z a s).timeKept := by
  unfold meterStart
  exact meterPost_timeKept (h.setMeter (Cell.reload_inRange (Nat.zero_le _) (h.cell z))) _ _

theorem Change.timeKept {s t : State} (h : Change s t) (hs : s.timeKept) : t.timeKept := by
  cases h with
  | same h =>
    simp only [State.core, Prod.mk.injEq] at h
    obtain ⟨h1, -, -, -, -, -, -, h2, h3, -⟩ := h
    exact State.timeKept_congr h2 (by rw [h1]) (fun l => .inr (by simp [State.meter, h3])) hs
  | reports | store | channel | printer | job | line | account | records => exact hs
  | meter h => exact hs.setMeter (h hs)
  | clock h => exact ⟨h hs, hs.2⟩
  | config h => exact ⟨(h hs).1, (h hs).2.1, (h hs).2.2, hs.2.2.2⟩
  | place => exact State.timeKept_congr (by simp) (by simp) (fun l => .inr (by simp [State.meter])) hs
  | @answer l a h =>
    have h1 : (s.setLine l { s.line l with answered := true }).timeKept := hs
    exact meterStart_timeKept h1 l a.zone a.account
  | release => exact releaseContext_timeKept hs _ _ _ _
  | @releaseDest l a why n name f h =>
    exact State.timeKept_congr (by simp) (by simp) (fun l => .inr (by simp only [State.meter, changeDest_frame]))
      (releaseContext_timeKept hs l why n name)
  | restart =>
    refine restartBlocks_keeps (fun {a b} hc hs => ?_) (fun _ hs => releaseContext_timeKept hs _ _ _ _)
      (fun {u l x} _ hu => State.timeKept_congr (s := u) (t := u.setLine l x) rfl rfl (fun _ => .inr rfl) hu) hs
    simp only [State.callCore, Prod.mk.injEq] at hc
    obtain ⟨h1, h2, -, -, h3, -⟩ := hc
    exact State.timeKept_congr h2 (by rw [h1]) (fun l => .inr (by simp [State.meter, h3])) hs

theorem preserved_timeKept : Preserved State.timeKept where
  change := Change.timeKept
  link _ hs := hs
  pending hs := hs

/-- Settles O8. -/
theorem timeStaysInRange : Obligations.TimeStaysInRange := fun _ _ hs h => preserved_timeKept.step afterReset_timeKept h hs

/-! ### The accounts (O9) -/

theorem State.accountsKept_congr {s t : State} (ha : t.accounts = s.accounts) (h : s.accountsKept) : t.accountsKept := fun n => by
  have := h n
  rwa [State.account, ← ha] at this

theorem State.accountsKept.setAccount {s : State} (h : s.accountsKept) {n : Fin 64} {a : Account} (ha : a.inRange) :
    (s.setAccount n a).accountsKept := fun k => by
  by_cases e : k = n
  · subst e
    simpa using ha
  · simpa [e] using h k

theorem releaseContext_accountsKept {s : State} (h : s.accountsKept) (l : LineNo) (why : Reason) (n : Nat) (name : Name) :
    (releaseContext l why n name s).accountsKept := by
  cases ha : (s.line l).admission with
  | none => exact State.accountsKept_congr (releaseContext_of_none s l ha).2.1 h
  | some a =>
    refine State.accountsKept_congr (s := s.setAccount a.account _) (releaseContext_of_some s l ha).2.1 (h.setAccount ?_)
    exact h a.account

theorem postAccount_accountsKept {s : State} (h : s.accountsKept) (n : Fin 64) (k : Nat) : (postAccount n k s).accountsKept := by
  have h1 : (s.setAccount n ((s.account n).posted k)).accountsKept := h.setAccount (Account.posted_inRange (h n) k)
  refine State.accountsKept_congr ?_ h1
  unfold postAccount putAccount
  split <;> simp

theorem meterPost_accountsKept {s : State} (h : s.accountsKept) (l : LineNo) (k : Nat) : (meterPost l k s).accountsKept := by
  unfold meterPost
  split
  · exact h
  · have h1 : (s.setMeter l { s.meter l with units := (s.meter l).units + BitVec.ofNat 32 k }).accountsKept := h
    exact postAccount_accountsKept h1 _ _

theorem meterStart_accountsKept {s : State} (h : s.accountsKept) (l : LineNo) (z : Fin 8) (a : Fin 64) :
    (meterStart l z a s).accountsKept := by
  have h1 (m : Meter) : (s.setMeter l m).accountsKept := h
  unfold meterStart
  exact meterPost_accountsKept (h1 _) _ _

theorem Change.accountsKept {s t : State} (h : Change s t) (hs : s.accountsKept) : t.accountsKept := by
  cases h with
  | same h =>
    simp only [State.core, Prod.mk.injEq] at h
    obtain ⟨-, -, -, -, -, -, -, -, -, h1, -⟩ := h
    exact State.accountsKept_congr h1 hs
  | reports | store | channel | printer | job | line | meter | clock | config | records => exact hs
  | account h => exact hs.setAccount (h (hs _))
  | place j d x b i =>
    refine State.accountsKept_congr (s := s.setAccount b.account { s.account b.account with active := (s.account b.account).active + 1 })
      (by simp [Machine.place, State.setAccount, State.account]) (hs.setAccount (hs b.account))
  | @answer l a h =>
    have h1 : (s.setLine l { s.line l with answered := true }).accountsKept := hs
    exact meterStart_accountsKept h1 l a.zone a.account
  | release => exact releaseContext_accountsKept hs _ _ _ _
  | @releaseDest l a why n name f => exact State.accountsKept_congr (by simp) (releaseContext_accountsKept hs l why n name)
  | restart =>
    refine restartBlocks_keeps (fun {a b} hc hs => ?_) (fun _ hs => releaseContext_accountsKept hs _ _ _ _)
      (fun {u l x} _ hu => State.accountsKept_congr (s := u) (t := u.setLine l x) rfl hu) hs
    simp only [State.callCore, Prod.mk.injEq] at hc
    obtain ⟨-, -, -, -, -, h1, -⟩ := hc
    exact State.accountsKept_congr h1 hs

theorem preserved_accountsKept : Preserved State.accountsKept where
  change := Change.accountsKept
  link _ hs := hs
  pending hs := hs

/-- Settles O9. -/
theorem accountsStayJudged : Obligations.AccountsStayJudged :=
  fun _ _ hs h => preserved_accountsKept.step afterReset_accountsKept h hs

end Sys2Proof.Machine
end

section
/-! PROOFS. The queues and credit counts keep their bounds, and the parser leaves no order that it could take (O11). -/

namespace Sys2Proof.Machine

/-! ### The order queue and the reply queue (R205) -/

/-- R205: the order queue and the reply queue hold four entries at most. -/
def Link.bounded (k : Link) : Prop := k.orders.length ≤ 4 ∧ k.replies.length ≤ 4

/-- R205: the parser has taken all it can. -/
def Link.rested (k : Link) : Prop := k.orders = [] ∨ k.inHand.isSome = true ∨ 4 ≤ k.replies.length

theorem Link.bounded.of_kept {k k' : Link} (h : k.bounded) (hk : LinkKept k k') : k'.bounded := by
  obtain ⟨-, h1, -, h2, -⟩ := hk
  exact ⟨h1 ▸ h.1, h2 ▸ h.2⟩

theorem Link.rested.of_kept {k k' : Link} (h : k.rested) (hk : LinkKept k k') : k'.rested := by
  obtain ⟨-, h1, h2, h3, -⟩ := hk
  simpa [Link.rested, h1, h2, h3] using h

/-- An entry taken from the order queue brings one reply and leaves the queue's rest. -/
theorem takeEntry_link (e : OrderEntry) {s : State} (h : s.link.inHand = none) :
    (takeEntry e s).link.orders = s.link.orders ∧ (takeEntry e s).link.replies.length = s.link.replies.length + 1 ∧
      (takeEntry e s).link.inHand = none := by
  cases e with
  | order o =>
    obtain ⟨-, h1, -, h2, -⟩ :=
      (Reaches.refl.ownerOf (s := { s with link := { s.link with inHand := some o } }) o.code o.params).linkKept
    simp [takeEntry, answerOrder, h1, h2]
  | again t r => simp [takeEntry, h]

theorem runParser_bounded (n : Nat) {s : State} (h : s.link.bounded) : (runParser n s).link.bounded := by
  induction n generalizing s with
  | zero => exact h
  | succ n ih =>
    unfold runParser
    split
    next e rest hi ho =>
      split
      next hr =>
        obtain ⟨h1, h2, -⟩ := takeEntry_link e (s := { s with link := { s.link with orders := rest } }) hi
        refine ih ⟨?_, ?_⟩
        · have := h.1
          rw [h1]
          simp only [ho, List.length_cons] at this
          dsimp only
          omega
        · rw [h2]
          exact hr
      next => exact h
    next => exact h

theorem parse_rested (s : State) : (parse s).link.rested := by
  have h (n : Nat) : ∀ s : State, s.link.orders.length ≤ n → (runParser n s).link.rested := by
    induction n with
    | zero => exact fun s h => .inl (List.length_eq_zero_iff.1 (Nat.le_zero.1 h))
    | succ n ih =>
      intro s h
      unfold runParser
      split
      next e rest hi ho =>
        split
        next hr =>
          refine ih _ ?_
          rw [(takeEntry_link e (s := { s with link := { s.link with orders := rest } }) hi).1]
          simp only [ho, List.length_cons] at h
          exact Nat.le_of_succ_le_succ h
        next hr => exact .inr (.inr (Nat.le_of_not_lt hr))
      next hn =>
        cases hi : s.link.inHand with
        | some o => exact .inr (.inl (by simp [hi]))
        | none =>
          cases ho : s.link.orders with
          | nil => exact .inl ho
          | cons e rest => exact (hn e rest hi ho).elim
  exact h _ s (Nat.le_refl _)

theorem Link.intake_bounded {k : Link} (h : k.bounded) (o : Order) : (k.intake o).bounded := by
  have ho (e : OrderEntry) (hl : k.orders.length < 4) : Link.bounded { k with orders := k.orders ++ [e] } :=
    ⟨by simpa using hl, h.2⟩
  have hr (r : Reply) (hl : k.replies.length < 4) : Link.bounded { k with replies := k.replies ++ [r] } :=
    ⟨h.1, by simpa using hl⟩
  have hq : Link.bounded (if k.orders.length < 4 then { k with orders := k.orders ++ [.order o] } else k) := by
    split
    next hl => exact ho _ hl
    next => exact h
  unfold Link.intake
  dsimp only
  split
  · exact h
  · split
    · split
      · split
        next hl => exact hr _ hl
        next =>
          split
          next hl => exact ho _ hl
          next => exact h
      · exact hq
    · exact hq

/-- A property of the link that an order's arrival and the parser keep, and that the elementary changes do not reach, is kept by a
step. -/
structure LinkPreserved (P : Link → Prop) : Prop where
  kept : ∀ {k k' : Link}, LinkKept k k' → P k → P k'
  order : ∀ {s : State} {code : Byte} {tag : Tag} {params : List Byte}, P s.link → P (takeOrder code tag params s).link
  bytes : ∀ {k : Link} {bs : List Byte}, P k → P { k with bytes := bs }
  reply : ∀ {s : State} {r : Reply} {rest : List Reply} {x : Option (List Byte)}, s.link.replies = r :: rest → P s.link →
    P (parse { s with link := { s.link with replies := rest, sending := x } }).link
  reset : ∀ msz, P (State.afterReset msz).link

section
variable {P : Link → Prop} (hP : LinkPreserved P) {s t : State}
include hP

theorem LinkPreserved.reaches (h : Reaches s t) (hs : P s.link) : P t.link := hP.kept h.linkKept hs

theorem LinkPreserved.dealFrame (f : Frame) (hs : P s.link) : P (dealFrame f s).link := by
  rcases dealFrame_cases f s with ⟨code, tag, params, e⟩ | h
  · rw [e]
    exact hP.order hs
  · exact hP.reaches h hs

theorem LinkPreserved.transmitSelect (hs : P s.link) : P (transmitSelect s).link := by
  cases hr : s.link.replies with
  | nil =>
    obtain ⟨u, x, h1, h2⟩ := transmitSelect_leaves hr
    exact hP.reaches h2 (hP.kept (k := u.link) ⟨rfl, rfl, rfl, rfl, rfl, id⟩ (hP.reaches h1 hs))
  | cons r rest =>
    unfold Machine.transmitSelect
    rw [hr]
    exact hP.reply (s := s) hr hs

theorem LinkPreserved.step (h : step s = .next t) (hs : P s.link) : P t.link := by
  have hf (fs : List Frame) {t : State} (ht : P t.link) : P (fs.foldl (fun s f => Machine.dealFrame f s) t).link := by
    induction fs generalizing t with
    | nil => exact ht
    | cons f fs ih => exact ih (hP.dealFrame f ht)
  obtain ⟨u, ps, qs, he, hd⟩ := step_dealt s
  obtain rfl : { u with pending := qs } = t := by rw [he] at h; exact Host.Outcome.next.inj h
  show P u.link
  cases hd with
  | order code tag params => exact hP.order hs
  | frame f => exact hP.dealFrame f (s := checkerIdle { s with pending := ps }) (hP.bytes hs)
  | bytes bs => exact hP.bytes (hf _ hs)
  | transmit => exact hP.transmitSelect (s := { s with pending := ps }) hs
  | reset msz => exact hP.reset msz
  | own h => exact hP.reaches h hs

end

theorem linkPreserved_bounded : LinkPreserved Link.bounded where
  kept hk h := h.of_kept hk
  order {s code tag params} h := runParser_bounded _ (s := orderIntake ⟨tag, code, params⟩ s) (Link.intake_bounded h _)
  bytes h := h
  reply {s r rest x} hr h := runParser_bounded _ (s := { s with link := { s.link with replies := rest, sending := x } })
    ⟨h.1, by have := h.2; rw [hr, List.length_cons] at this; exact Nat.le_of_succ_le this⟩
  reset _ := ⟨Nat.zero_le _, Nat.zero_le _⟩

theorem linkPreserved_rested : LinkPreserved Link.rested where
  kept hk h := h.of_kept hk
  order _ := parse_rested _
  bytes h := h
  reply _ _ := parse_rested _
  reset _ := .inl rfl

/-! ### The report queue and the credits -/

/-- R47, R52, R161, R209: the bounds of the report queue, of the printer's credits and of the channels. -/
def State.creditsKept (s : State) : Prop :=
  s.link.reports.length ≤ 64 ∧ s.printer.credits ≤ 16 ∧ ∀ c : ChannelNo, (s.channel c).creditsKept

theorem restartPrinter_credits (s : State) : (restartPrinter s).printer.credits = s.printer.credits := by
  unfold restartPrinter
  dsimp only
  split <;> rfl

theorem Channel.idle_creditsKept : Channel.idle.creditsKept := by simp [Channel.creditsKept, Channel.idle, Channel.unused]

theorem restartBlocks_printer (s : State) : (restartBlocks s).printer.credits = s.printer.credits := by
  have h1 : (restartBlocks s).printer = (restartPrinter (allLines.foldl restartLine s)).printer := by simp [restartBlocks]
  rw [h1, restartPrinter_credits, (foldl_restartLine_frame _ _).2.2.2.2.1]

theorem restartBlocks_channel (s : State) (c : ChannelNo) : (restartBlocks s).channel c = .idle := fetch_replicate ..

theorem Change.creditsKept {s t : State} (h : Change s t) (hs : s.creditsKept) : t.creditsKept := by
  obtain ⟨hr, hp, hc⟩ := hs
  refine ⟨h.linkKept.2.2.2.2.2 hr, ?_, fun c => ?_⟩
  · cases h with
    | same h =>
      simp only [State.core, Prod.mk.injEq] at h
      rw [h.2.2.2.2.2.2.1]
      exact hp
    | printer h => exact h hp
    | restart => rwa [restartBlocks_printer]
    | place | answer | release | releaseDest => simpa using hp
    | _ => exact hp
  · cases h with
    | same h =>
      simp only [State.core, Prod.mk.injEq] at h
      rw [State.channel, h.2.2.1]
      exact hc c
    | @channel k x h =>
      by_cases e : c = k
      · subst e
        simpa using h (hc c)
      · simpa [e] using hc c
    | restart =>
      rw [restartBlocks_channel]
      exact Channel.idle_creditsKept
    | place | answer | release | releaseDest => simpa [State.channel] using hc c
    | _ => exact hc c

theorem preserved_creditsKept : Preserved State.creditsKept where
  change := Change.creditsKept
  link hk hs := ⟨by rw [hk]; exact hs.1, hs.2⟩
  pending hs := hs

/-- Settles O11. -/
theorem queuesStayBounded : Obligations.QueuesStayBounded := by
  refine ⟨fun s t hs h => ?_, fun s t hs h => linkPreserved_rested.step h hs⟩
  obtain ⟨ho, hr, hq⟩ := hs
  obtain ⟨ho', hr'⟩ := linkPreserved_bounded.step h ⟨ho, hr⟩
  exact ⟨ho', hr', preserved_creditsKept.step (fun msz => (afterReset_queuesKept msz).2.2) h hq⟩

end Sys2Proof.Machine
end

section
/-! PROOFS. Each block stays in one place, and the page records keep R17's account (O7). -/

namespace Sys2Proof.Machine

/-! ### The blocks (R1) -/

/-- A table's places flattened: what stands at one place, beside the rest. -/
theorem flatMap_store {α β : Type} {n : Nat} (t : Table α n) (i : Fin n) (f : α → List β) :
    ∃ rest, ∀ x, ((store t i x).toList.flatMap f).Perm (f x ++ rest) := by
  refine ⟨(t.toList.take i).flatMap f ++ (t.toList.drop (i + 1)).flatMap f, fun x => ?_⟩
  have hi : i.val < t.toList.length := by simp
  rw [store, Vector.toList_set, List.set_eq_take_append_cons_drop, if_pos hi, List.flatMap_append, List.flatMap_cons,
    ← List.append_assoc, ← List.append_assoc]
  exact List.Perm.append_right _ List.perm_append_comm

/-- A change of one page record and of the free list that leaves the blocks of both together as they were. -/
theorem Store.blocksKept.of_setPage {st u : Store} (h : st.blocksKept) {p : Fin 256} {x : Page} (hb : u.blocks = st.blocks)
    (hp : u.pages = store st.pages p x)
    (hc : (u.freeList ++ x.chain).Perm (st.freeList ++ (fetch st.pages p).chain)) (hx : x.state = .free → x.chain = []) :
    u.blocksKept := by
  obtain ⟨h1, h2⟩ := h
  obtain ⟨rest, hr⟩ := flatMap_store st.pages p Page.chain
  refine ⟨?_, fun q hq => ?_⟩
  · have hold := hr (fetch st.pages p)
    rw [store_fetch] at hold
    rw [hb, hp]
    calc (u.freeList ++ (store st.pages p x).toList.flatMap Page.chain).Perm (u.freeList ++ (x.chain ++ rest)) :=
          (hr x).append_left _
      _ = ((u.freeList ++ x.chain) ++ rest) := by simp
      List.Perm _ ((st.freeList ++ (fetch st.pages p).chain) ++ rest) := hc.append_right _
      _ = st.freeList ++ ((fetch st.pages p).chain ++ rest) := by simp
      List.Perm _ (st.freeList ++ st.pages.toList.flatMap Page.chain) := (hold.append_left _).symm
      List.Perm _ (List.range st.blocks) := h1
  · rw [hp, fetch_store] at *
    split at hq
    next e => rw [if_pos e]; exact hx hq
    next e => rw [if_neg e]; exact h2 q hq

theorem Store.blocksKept.congr {st u : Store} (h : st.blocksKept) (hb : u.blocks = st.blocks) (hf : u.freeList = st.freeList)
    (hp : u.pages = st.pages) : u.blocksKept := by
  simpa only [Store.blocksKept, hb, hf, hp] using h

/-- A page record changed with its chain and its state kept, or with its chain kept and not FREE. -/
theorem Store.blocksKept.setPage {st u : Store} (h : st.blocksKept) {p : Fin 256} {x : Page} (hb : u.blocks = st.blocks)
    (hf : u.freeList = st.freeList) (hp : u.pages = store st.pages p x) (hc : x.chain = (fetch st.pages p).chain)
    (hx : x.state = .free → (fetch st.pages p).state = .free) : u.blocksKept := by
  refine h.of_setPage hb hp (by rw [hf, hc]) fun e => ?_
  rw [hc]
  exact h.2 p (hx e)

theorem Store.blocksKept.settle {st : Store} (h : st.blocksKept) (p : Fin 256) : (st.settle p).blocksKept := by
  unfold Store.settle
  dsimp only
  split
  · exact h.of_setPage rfl rfl (by simp [Page.blank]) fun _ => rfl
  · exact h

theorem Store.blocksKept.settleAll {st : Store} (h : st.blocksKept) (ps : List (Fin 256)) : (st.settleAll ps).blocksKept := by
  induction ps generalizing st with
  | nil => exact h
  | cons p ps ih => exact ih (h.settle p)

theorem StoreChange.blocksKept {st u : Store} (h : StoreChange st u) (hs : st.blocksKept) : u.blocksKept := by
  cases h with
  | append h =>
    obtain ⟨hf, ⟨-, rfl⟩ | ⟨-, -, b, rest, hr, rfl⟩⟩ := Store.append_cases h
    · exact hs.setPage rfl rfl rfl rfl (by simp [Page.appended])
    · refine hs.of_setPage rfl rfl ?_ (by simp [Page.appended, hf])
      simp only [Page.appended, hr]
      rw [← List.append_assoc]
      exact List.perm_append_comm.trans (by simp)
  | dropClaims gone =>
    exact Store.blocksKept.settleAll (st := { st with claims := st.claims.filter (fun c => !gone c) }) (hs.congr rfl rfl rfl) _
  | claimDocument h d =>
    unfold Store.claimDocument
    split
    · exact hs
    · exact hs.congr rfl rfl rfl
  | useClaim h k => exact hs.congr rfl rfl rfl
  | endUse h a b c =>
    unfold Store.endUse
    split
    · exact hs
    · refine Store.blocksKept.settle ?_ _
      exact hs.congr rfl rfl rfl
  | freeDocument d =>
    unfold Store.freeDocument
    split
    · exact hs
    next x hx =>
      have h1 (ps : List (Fin 256)) {v : Store} (hv : v.blocksKept) : Store.blocksKept
          { v with pages := ps.foldl (fun t p => change t p (fun g => { g with mapped := false, place := none })) v.pages } := by
        induction ps generalizing v with
        | nil => exact hv
        | cons p ps ih =>
          exact ih (v := { v with pages := change v.pages p (fun g => { g with mapped := false, place := none }) })
            (hv.setPage rfl rfl rfl rfl id)
      refine Store.blocksKept.settleAll ?_ _
      exact (h1 x.slots hs).congr rfl rfl rfl
  | changeDoc d hf => exact hs.congr rfl rfl rfl
  | openDoc hd hx => exact hs.congr rfl rfl rfl
  | mapPage w r d hs' hp =>
    unfold Store.mapPage
    split
    · exact hs
    · exact hs.of_setPage rfl rfl (by simp [Page.taken, Page.blank, hs.2 _ hp]) (by simp [Page.taken])
  | takeReplacement w r d slot hp =>
    refine hs.of_setPage rfl rfl ?_ (by simp [Page.taken])
    simp [Store.takeReplacement, Store.setPage, Page.taken, Page.blank, hs.2 _ hp]
  | sealPage p a b =>
    exact (hs.setPage rfl rfl rfl rfl (by simp) : (st.sealPage p a b).blocksKept).settle p
  | @sealReplacement p a b d slot hp =>
    have h1 : (st.sealPage p a b).blocksKept := hs.setPage rfl rfl rfl rfl (by simp)
    refine Store.blocksKept.settle ?_ p
    unfold Store.remap
    split
    next x old hx ho hm =>
      refine Store.blocksKept.settle ?_ old
      have h2 : Store.blocksKept { st.sealPage p a b with
          pages := change (st.sealPage p a b).pages old (fun g => { g with state := .void, mapped := false, place := none }) } :=
        h1.setPage rfl rfl rfl rfl (by simp)
      exact h2.setPage rfl rfl rfl rfl id
    next => exact h1
  | discard p =>
    unfold Store.discard
    refine Store.blocksKept.settle ?_ p
    exact hs.of_setPage rfl rfl (by simp) (by simp)
  | refill p => exact hs.of_setPage rfl rfl (by simp [Store.refill]) (by simp)
  | form p w r => exact hs.setPage rfl rfl rfl rfl id

/-! ### The page records (R17) -/

/-- The page records that the slots of a document's record name: none where no document stands. -/
def slotsOf : Option Document → List (Fin 256)
  | some x => x.slots
  | none => []

def Store.slotsAt (st : Store) (d : Fin 64) : List (Fin 256) := slotsOf (fetch st.docs d)

theorem Store.slotsAt_some {st : Store} {d : Fin 64} {x : Document} (h : fetch st.docs d = some x) : st.slotsAt d = x.slots := by
  simp [Store.slotsAt, slotsOf, h]

/-- R10: a record is mapped exactly while a slot names it, in one slot of the one document that it names. -/
def Store.slotsKept (st : Store) : Prop :=
  (∀ p : Fin 256, (fetch st.pages p).mapped = true ↔ ∃ d, p ∈ st.slotsAt d) ∧
    ∀ d : Fin 64, (st.slotsAt d).Nodup ∧ ∀ p ∈ st.slotsAt d, ∃ k, (fetch st.pages p).place = some (d, k)

/-- A FREE record is not claimed and not mapped. -/
def Store.freeOk (st : Store) (p : Fin 256) : Prop :=
  (fetch st.pages p).state = .free → (∀ c ∈ st.claims, c.page ≠ p) ∧ (fetch st.pages p).mapped = false

/-- A record that is not claimed and not mapped is FREE or FILLING. -/
def Store.usedOk (st : Store) (p : Fin 256) : Prop :=
  (∀ c ∈ st.claims, c.page ≠ p) → (fetch st.pages p).mapped = false →
    (fetch st.pages p).state = .free ∨ (fetch st.pages p).state = .filling

theorem Store.claimCount_eq_zero {st : Store} {p : Fin 256} : st.claimCount p = 0 ↔ ∀ c ∈ st.claims, c.page ≠ p := by
  simp [Store.claimCount, List.countP_eq_zero]

theorem Store.slotsKept_iff {st : Store} : st.slotsKept ↔
    (∀ p : Fin 256, (fetch st.pages p).mapped = true ↔ ∃ d x, fetch st.docs d = some x ∧ p ∈ x.slots) ∧
      ∀ (d : Fin 64) (x : Document), fetch st.docs d = some x →
        x.slots.Nodup ∧ ∀ p ∈ x.slots, ∃ k, (fetch st.pages p).place = some (d, k) := by
  have hm (p : Fin 256) (d : Fin 64) : p ∈ st.slotsAt d ↔ ∃ x, fetch st.docs d = some x ∧ p ∈ x.slots := by
    unfold Store.slotsAt slotsOf
    split <;> simp_all
  have hd (d : Fin 64) : ((st.slotsAt d).Nodup ∧ ∀ p ∈ st.slotsAt d, ∃ k, (fetch st.pages p).place = some (d, k)) ↔
      ∀ x, fetch st.docs d = some x → x.slots.Nodup ∧ ∀ p ∈ x.slots, ∃ k, (fetch st.pages p).place = some (d, k) := by
    unfold Store.slotsAt slotsOf
    split <;> simp_all
  simp only [Store.slotsKept, hd]
  simp only [hm]

theorem Store.pagesKept_iff {st : Store} :
    st.pagesKept ↔ (∀ p, st.freeOk p) ∧ (∀ p, st.usedOk p) ∧ st.slotsKept := by
  have h (p : Fin 256) : ((fetch st.pages p).state = .free ↔
      st.claimCount p = 0 ∧ (fetch st.pages p).mapped = false ∧ (fetch st.pages p).state ≠ .filling) ↔ st.freeOk p ∧ st.usedOk p := by
    rw [Store.claimCount_eq_zero]
    unfold Store.freeOk Store.usedOk
    constructor
    · intro h
      refine ⟨fun hf => ⟨(h.1 hf).1, (h.1 hf).2.1⟩, fun hc hm => ?_⟩
      by_cases hs : (fetch st.pages p).state = .filling
      · exact .inr hs
      · exact .inl (h.2 ⟨hc, hm, hs⟩)
    · rintro ⟨h1, h2⟩
      refine ⟨fun hf => ⟨(h1 hf).1, (h1 hf).2, by simp [hf]⟩, fun ⟨hc, hm, hs⟩ => (h2 hc hm).resolve_right hs⟩
  rw [Store.slotsKept_iff, ← and_assoc, ← forall_and]
  simp only [Store.pagesKept, h]

theorem Store.slotsKept.congr {st u : Store} (h : st.slotsKept) (hd : ∀ d, u.slotsAt d = st.slotsAt d)
    (hp : ∀ p, (fetch u.pages p).mapped = (fetch st.pages p).mapped ∧
      ((fetch st.pages p).mapped = true → (fetch u.pages p).place = (fetch st.pages p).place)) : u.slotsKept := by
  obtain ⟨h1, h2⟩ := h
  refine ⟨fun p => by simp only [(hp p).1, hd]; exact h1 p, fun d => ?_⟩
  rw [hd]
  refine ⟨(h2 d).1, fun p hm => ?_⟩
  rw [(hp p).2 ((h1 p).2 ⟨d, hm⟩)]
  exact (h2 d).2 p hm

/-- The look at a page frees it where nothing holds it, and keeps the rest. -/
theorem Store.settle_keeps {st : Store} (hf : ∀ p, st.freeOk p) (hs : st.slotsKept) (q : Fin 256) :
    (∀ p, (st.settle q).freeOk p) ∧ (∀ p, st.usedOk p ∨ p = q → (st.settle q).usedOk p) ∧ (st.settle q).slotsKept := by
  unfold Store.settle
  dsimp only
  split
  next h =>
    obtain ⟨-, hm, hc⟩ := h
    rw [Store.claimCount_eq_zero] at hc
    refine ⟨fun p => ?_, fun p hp => ?_, hs.congr (fun d => rfl) fun p => ?_⟩
    · by_cases e : p = q
      · subst e
        simpa [Store.freeOk, Page.blank] using hc
      · simpa [Store.freeOk, e] using hf p
    · by_cases e : p = q
      · subst e
        simp [Store.usedOk, Page.blank]
      · simpa [Store.usedOk, e] using hp.resolve_right e
    · by_cases e : p = q
      · subst e
        simp [Page.blank, hm]
      · simp [e]
  next h =>
    refine ⟨hf, fun p hp => ?_, hs⟩
    rcases hp with hp | rfl
    · exact hp
    · intro hc hm
      rw [← Store.claimCount_eq_zero] at hc
      cases e : (fetch st.pages p).state <;> simp_all

theorem Store.settleAll_keeps {st : Store} (ps : List (Fin 256)) (hf : ∀ p, st.freeOk p) (hs : st.slotsKept)
    (hu : ∀ p, st.usedOk p ∨ p ∈ ps) : (st.settleAll ps).pagesKept := by
  induction ps generalizing st with
  | nil => exact Store.pagesKept_iff.2 ⟨hf, fun p => (hu p).resolve_right (by simp), hs⟩
  | cons q ps ih =>
    obtain ⟨hf', hu', hs'⟩ := Store.settle_keeps hf hs q
    refine ih hf' hs' fun p => ?_
    by_cases hp : p ∈ ps
    · exact .inr hp
    · exact .inl (hu' p ((hu p).imp_right fun h => (List.mem_cons.1 h).resolve_right hp))

theorem Store.settle_pagesKept {st : Store} (q : Fin 256) (hf : ∀ p, st.freeOk p) (hs : st.slotsKept)
    (hu : ∀ p, p ≠ q → st.usedOk p) : (st.settle q).pagesKept :=
  Store.settleAll_keeps [q] hf hs fun p => by
    by_cases e : p = q
    · exact .inr (by simp [e])
    · exact .inl (hu p e)

/-- A change that keeps every record's state and mark, the claims' pages and the slots. -/
theorem Store.pagesKept.congr {st u : Store} (h : st.pagesKept) (hd : ∀ d, u.slotsAt d = st.slotsAt d)
    (hp : ∀ p, (fetch u.pages p).state = (fetch st.pages p).state ∧ (fetch u.pages p).mapped = (fetch st.pages p).mapped ∧
      (fetch u.pages p).place = (fetch st.pages p).place) (hc : ∀ p, (∀ c ∈ u.claims, c.page ≠ p) ↔ ∀ c ∈ st.claims, c.page ≠ p) :
    u.pagesKept := by
  obtain ⟨h1, h2, h3⟩ := Store.pagesKept_iff.1 h
  refine Store.pagesKept_iff.2 ⟨fun p => ?_, fun p => ?_, h3.congr hd fun p => ⟨(hp p).2.1, fun _ => (hp p).2.2⟩⟩
  · simpa only [Store.freeOk, (hp p).1, (hp p).2.1, hc] using h1 p
  · simpa only [Store.usedOk, (hp p).1, (hp p).2.1, hc] using h2 p

theorem Store.slotPage_mem {st : Store} {d : Fin 64} {k : Nat} {p : Fin 256} (h : st.slotPage d k = some p) :
    p ∈ st.slotsAt d := by
  unfold Store.slotPage at h
  split at h
  · cases h
  next x hx =>
    rw [Store.slotsAt_some hx]
    exact List.mem_of_getElem? h

theorem Store.slotsAt_store {st u : Store} {d : Fin 64} {x : Option Document} (h : u.docs = store st.docs d x) (e : Fin 64) :
    u.slotsAt e = if e = d then slotsOf x else st.slotsAt e := by
  unfold Store.slotsAt
  rw [h, fetch_store]
  split <;> rfl

/-- A list without repeats after one of its entries is replaced. -/
theorem mem_set_iff_of_nodup {α : Type} {l : List α} (hl : l.Nodup) {k : Nat} {a b c : α} (hk : l[k]? = some a) :
    c ∈ l.set k b ↔ c = b ∨ (c ∈ l ∧ c ≠ a) := by
  induction l generalizing k with
  | nil => simp at hk
  | cons y l ih =>
    obtain ⟨hy, hl⟩ := List.nodup_cons.1 hl
    cases k with
    | zero =>
      obtain rfl : y = a := by simpa using hk
      simp only [List.set_cons_zero, List.mem_cons]
      constructor
      · rintro (h | h)
        · exact .inl h
        · exact .inr ⟨.inr h, by rintro rfl; exact hy h⟩
      · rintro (h | ⟨h, hn⟩)
        · exact .inl h
        · exact .inr (h.resolve_left hn)
    | succ k =>
      have hk' : l[k]? = some a := by simpa using hk
      have hya : y ≠ a := by rintro rfl; exact hy (List.mem_of_getElem? hk')
      simp only [List.set_cons_succ, List.mem_cons, ih hl hk']
      constructor
      · rintro (rfl | h | h)
        · exact .inr ⟨.inl rfl, hya⟩
        · exact .inl h
        · exact .inr ⟨.inr h.1, h.2⟩
      · rintro (h | ⟨rfl | h, hn⟩)
        · exact .inr (.inl h)
        · exact .inl rfl
        · exact .inr (.inr ⟨h, hn⟩)

theorem Store.settle_keeps_all {st : Store} (hs : st.pagesKept) (q : Fin 256) : (st.settle q).pagesKept := by
  obtain ⟨h1, h2, h3⟩ := Store.pagesKept_iff.1 hs
  exact Store.settle_pagesKept q h1 h3 fun p _ => h2 p

/-- The seal of a replacement (R19): the slot names the new page, and what names the old one no longer keeps it. -/
theorem Store.remap_pagesKept {v : Store} {p : Fin 256} {d : Fin 64} {slot : Nat} (h1 : ∀ q, v.freeOk q)
    (h2 : ∀ q, q ≠ p → v.usedOk q) (h3 : v.slotsKept) (hplace : (fetch v.pages p).place = some (d, slot))
    (hstate : (fetch v.pages p).state = .sealed) : ((v.remap p d slot).settle p).pagesKept := by
  unfold Store.remap
  split
  next x old hx ho hm =>
    have hslots := Store.slotsAt_some hx
    have hold : old ∈ v.slotsAt d := Store.slotPage_mem ho
    have hout (e : Fin 64) : p ∉ v.slotsAt e := fun h => by
      have := (h3.1 p).2 ⟨e, h⟩
      rw [hm] at this
      cases this
    have hpold : p ≠ old := by rintro rfl; exact hout d hold
    have hother {e : Fin 64} (he : e ≠ d) : old ∉ v.slotsAt e := fun h => by
      obtain ⟨k, hk⟩ := (h3.2 e).2 old h
      obtain ⟨k', hk'⟩ := (h3.2 d).2 old hold
      rw [hk] at hk'
      simp only [Option.some.injEq, Prod.mk.injEq] at hk'
      exact he hk'.1
    have hget : (v.slotsAt d)[slot]? = some old := by
      simpa only [Store.slotPage, hx, hslots] using ho
    have hmem (q : Fin 256) := mem_set_iff_of_nodup (b := p) (c := q) (h3.2 d).1 hget
    have hat (e : Fin 64) : slotsOf (fetch (store v.docs d (some { x with slots := x.slots.set slot p })) e) =
        if e = d then (v.slotsAt d).set slot p else v.slotsAt e := by
      rw [fetch_store, hslots]
      split <;> rfl
    refine Store.settle_keeps_all (Store.settle_pagesKept old (fun q => ?_) ⟨fun q => ?_, fun e => ?_⟩ fun q hq => ?_) p
    · by_cases e : q = p
      · subst e
        simp [Store.freeOk, hpold, hstate]
      · by_cases e' : q = old
        · subst e'
          simp [Store.freeOk, e]
        · simp only [Store.freeOk, fetch_change_ne _ _ e, fetch_change_ne _ _ e']
          refine fun hf => ⟨fun c hc => ?_, (h1 q hf).2⟩
          obtain ⟨y, hy, rfl⟩ := List.mem_map.1 hc
          split
          · exact Ne.symm e
          · exact (h1 q hf).1 y hy
    · rw [show (∃ e, q ∈ Store.slotsAt _ e) ↔ ∃ e, q ∈ if e = d then (v.slotsAt d).set slot p else v.slotsAt e from
        exists_congr fun e => by rw [← hat]; rfl]
      by_cases e : q = p
      · subst e
        simp only [fetch_change_same, true_iff]
        exact ⟨d, by simp [hmem]⟩
      · rw [fetch_change_ne _ _ e]
        by_cases e' : q = old
        · subst e'
          simp only [fetch_change_same, Bool.false_eq_true, false_iff, not_exists]
          intro k
          split
          · simp [hmem, e]
          next hk => exact hother hk
        · rw [fetch_change_ne _ _ e', h3.1 q]
          refine exists_congr fun k => ?_
          split
          next hk => simp [hmem, e, e', hk]
          next => rfl
    · unfold Store.slotsAt
      dsimp only
      rw [hat e]
      split
      next he =>
        subst he
        refine ⟨(h3.2 e).1.set (hout e), fun q hq => ?_⟩
        rw [hmem] at hq
        rcases hq with rfl | ⟨hq, hne⟩
        · exact ⟨slot, by simp [hpold, hplace]⟩
        · have hqp : q ≠ p := by rintro rfl; exact hout e hq
          rw [fetch_change_ne _ _ hqp, fetch_change_ne _ _ hne]
          exact (h3.2 e).2 q hq
      next he =>
        refine ⟨(h3.2 e).1, fun q hq => ?_⟩
        have hqp : q ≠ p := by rintro rfl; exact hout e hq
        have hne : q ≠ old := by rintro rfl; exact hother he hq
        rw [fetch_change_ne _ _ hqp, fetch_change_ne _ _ hne]
        exact (h3.2 e).2 q hq
    · by_cases e : q = p
      · subst e
        simp [Store.usedOk]
      · simp only [Store.usedOk, fetch_change_ne _ _ e, fetch_change_ne _ _ hq]
        refine fun hc => h2 q e fun y hy hyq => hc y (List.mem_map.2 ⟨y, hy, ?_⟩) hyq
        rw [if_neg (by rintro ⟨h, -⟩; exact hq (hyq.symm.trans h))]
  next => exact Store.settle_pagesKept p h1 h3 h2

section
variable {st : Store} (hs : st.pagesKept)
include hs

/-- A FREE record stands in no slot. -/
theorem Store.pagesKept.not_mem_of_free {p : Fin 256} (hp : (fetch st.pages p).state = .free) (d : Fin 64) : p ∉ st.slotsAt d := by
  obtain ⟨h1, -, h3⟩ := Store.pagesKept_iff.1 hs
  intro hm
  have := (h3.1 p).2 ⟨d, hm⟩
  simp [(h1 p hp).2] at this

theorem Store.pagesKept.dropClaims (gone : Claim → Bool) : (st.dropClaims gone).pagesKept := by
  obtain ⟨h1, h2, h3⟩ := Store.pagesKept_iff.1 hs
  refine Store.settleAll_keeps (st := { st with claims := st.claims.filter (fun c => !gone c) }) _ (fun p hp => ?_)
    (h3.congr (fun d => rfl) fun p => ⟨rfl, fun _ => rfl⟩) fun p => ?_
  · exact ⟨fun c hc => (h1 p hp).1 c (List.mem_of_mem_filter hc), (h1 p hp).2⟩
  · by_cases hm : p ∈ (st.claims.filter gone).map Claim.page
    · exact .inr hm
    · refine .inl fun hc => h2 p fun c hcm hcp => ?_
      cases hg : gone c with
      | true => exact hm (List.mem_map.2 ⟨c, List.mem_filter.2 ⟨hcm, hg⟩, hcp⟩)
      | false => exact hc c (List.mem_filter.2 ⟨hcm, by simp [hg]⟩) hcp

theorem Store.pagesKept.claimDocument (h : Holder) (d : Fin 64) : (st.claimDocument h d).pagesKept := by
  obtain ⟨h1, h2, h3⟩ := Store.pagesKept_iff.1 hs
  unfold Store.claimDocument
  split
  · exact hs
  next x hx =>
    refine Store.pagesKept_iff.2 ⟨fun p hp => ⟨fun c hc => ?_, (h1 p hp).2⟩, fun p hc => ?_,
      h3.congr (fun d => rfl) fun p => ⟨rfl, fun _ => rfl⟩⟩
    · rcases List.mem_append.1 hc with hc | hc
      · exact (h1 p hp).1 c hc
      · obtain ⟨e, he, rfl⟩ := List.mem_map.1 hc
        rintro rfl
        refine hs.not_mem_of_free hp d ?_
        rw [Store.slotsAt_some hx]
        exact List.fst_mem_of_mem_zipIdx he
    · exact h2 p fun c hm => hc c (List.mem_append_left _ hm)

theorem Store.pagesKept.endUse (h : Holder) (a b g : Bool) : (st.endUse h a b g).pagesKept := by
  obtain ⟨h1, h2, h3⟩ := Store.pagesKept_iff.1 hs
  unfold Store.endUse
  split
  · exact hs
  next c hu =>
    refine Store.settle_pagesKept (st := { st with claims := _ }) c.page (fun p hp => ⟨fun y hy => ?_, (h1 p hp).2⟩)
      (h3.congr (fun d => rfl) fun p => ⟨rfl, fun _ => rfl⟩) fun p hp hc => h2 p fun y hy hyp => ?_
    · have hcm : c ∈ st.claims := List.mem_of_find?_eq_some hu
      obtain ⟨z, hz, hy⟩ := List.mem_flatMap.1 hy
      split at hy
      next =>
        rw [Option.mem_toList] at hy
        unfold Store.claimAfterUse at hy
        (repeat' split at hy) <;> cases hy
        next hq =>
          rintro rfl
          exact hs.not_mem_of_free hp _ (Store.slotPage_mem hq)
        next => exact (h1 p hp).1 c hcm
      next =>
        rw [List.mem_singleton.1 hy]
        exact (h1 p hp).1 z hz
    · refine hc y (List.mem_flatMap.2 ⟨y, hy, ?_⟩) hyp
      rw [if_neg (by rintro rfl; exact hp hyp.symm)]
      simp

theorem Store.pagesKept.freeDocument (d : Fin 64) : (st.freeDocument d).pagesKept := by
  obtain ⟨h1, h2, h3⟩ := Store.pagesKept_iff.1 hs
  unfold Store.freeDocument
  split
  · exact hs
  next x hx =>
    have hfold (ps : List (Fin 256)) (t : Table Page 256) (p : Fin 256) :
        fetch (ps.foldl (fun t p => change t p (fun g => { g with mapped := false, place := none })) t) p =
          if p ∈ ps then { fetch t p with mapped := false, place := none } else fetch t p := by
      induction ps generalizing t with
      | nil => simp
      | cons q ps ih =>
        rw [List.foldl_cons, ih, fetch_change]
        by_cases e : p = q
        · subst e
          simp
        · simp [e]
    have hslots := Store.slotsAt_some hx
    have hat (e : Fin 64) : Store.slotsAt { st with
        pages := x.slots.foldl (fun t p => change t p (fun g => { g with mapped := false, place := none })) st.pages,
        docs := Machine.store st.docs d none } e = if e = d then [] else st.slotsAt e :=
      Store.slotsAt_store (x := none) rfl e
    have hother {p : Fin 256} {e : Fin 64} (he : e ≠ d) (hp : p ∈ st.slotsAt e) : p ∉ x.slots := by
      intro hm
      obtain ⟨k, hk⟩ := (h3.2 e).2 p hp
      obtain ⟨k', hk'⟩ := (h3.2 d).2 p (hslots ▸ hm)
      rw [hk] at hk'
      simp only [Option.some.injEq, Prod.mk.injEq] at hk'
      exact he hk'.1
    refine Store.settleAll_keeps _ (fun p => ?_) ⟨fun p => ?_, fun e => ?_⟩ fun p => ?_
    · simp only [Store.freeOk, hfold]
      split
      · exact fun hp => ⟨(h1 p hp).1, rfl⟩
      · exact h1 p
    · simp only [hat, hfold]
      constructor
      · intro hm
        split at hm
        · cases hm
        next hn =>
          obtain ⟨e, he⟩ := (h3.1 p).1 hm
          refine ⟨e, ?_⟩
          rw [if_neg]
          · exact he
          · rintro rfl
            exact hn (hslots ▸ he)
      · rintro ⟨e, he⟩
        split at he
        · cases he
        next hn =>
          rw [if_neg (hother hn he)]
          exact (h3.1 p).2 ⟨e, he⟩
    · rw [hat]
      split
      · exact ⟨List.nodup_nil, by simp⟩
      next hn =>
        refine ⟨(h3.2 e).1, fun p hp => ?_⟩
        rw [hfold, if_neg (hother hn hp)]
        exact (h3.2 e).2 p hp
    · by_cases hp : p ∈ x.slots
      · exact .inr hp
      · refine .inl ?_
        simp only [Store.usedOk, hfold, if_neg hp]
        exact h2 p

theorem Store.pagesKept.mapPage {p : Fin 256} (w : Nat) (r : Resolution) (d : Fin 64) (hs' : List Holder)
    (hp : (fetch st.pages p).state = .free) : (st.mapPage p w r d hs').pagesKept := by
  obtain ⟨h1, h2, h3⟩ := Store.pagesKept_iff.1 hs
  unfold Store.mapPage
  split
  · exact hs
  next x hx =>
    have hslots := Store.slotsAt_some hx
    have hfree := hs.not_mem_of_free hp
    refine Store.pagesKept_iff.2 ⟨fun q => ?_, fun q => ?_, fun q => ?_, fun e => ?_⟩
    · by_cases e : q = p
      · subst e
        simp [Store.freeOk, Page.taken]
      · simp only [Store.freeOk, fetch_store_ne _ _ e]
        refine fun hq => ⟨fun c hc => ?_, (h1 q hq).2⟩
        rcases List.mem_append.1 hc with hc | hc
        · exact (h1 q hq).1 c hc
        · obtain ⟨k, -, rfl⟩ := List.mem_map.1 hc
          exact Ne.symm e
    · by_cases e : q = p
      · subst e
        simp [Store.usedOk, Page.taken]
      · simp only [Store.usedOk, fetch_store_ne _ _ e]
        exact fun hc => h2 q fun c hm => hc c (List.mem_append_left _ hm)
    all_goals
      have hat (e : Fin 64) : Store.slotsAt { st with
          pages := Machine.store st.pages p (.taken w r d x.slots.length true 0),
          docs := Machine.store st.docs d (some { x with slots := x.slots ++ [p] }),
          claims := st.claims ++ hs'.map (fun h => ⟨h, d, x.slots.length, p, false, false⟩) } e =
            if e = d then st.slotsAt d ++ [p] else st.slotsAt e := by
        rw [hslots]
        exact Store.slotsAt_store (x := some { x with slots := x.slots ++ [p] }) rfl e
    · simp only [hat]
      by_cases e : q = p
      · subst e
        simp only [fetch_store_same, Page.taken, true_iff]
        exact ⟨d, by simp⟩
      · rw [fetch_store_ne _ _ e, h3.1 q]
        refine exists_congr fun e' => ?_
        split
        next he => simp [he, e]
        next => rfl
    · rw [hat]
      split
      next he =>
        subst he
        refine ⟨List.nodup_append.2 ⟨(h3.2 e).1, by simp, ?_⟩, fun q hq => ?_⟩
        · rintro a ha b hb rfl
          exact hfree e (List.mem_singleton.1 hb ▸ ha)
        · by_cases e' : q = p
          · subst e'
            exact ⟨x.slots.length, by simp [Page.taken]⟩
          · rw [fetch_store_ne _ _ e']
            exact (h3.2 e).2 q ((List.mem_append.1 hq).resolve_right (by simpa using e'))
      next he =>
        refine ⟨(h3.2 e).1, fun q hq => ?_⟩
        rw [fetch_store_ne _ _ (by rintro rfl; exact hfree e hq)]
        exact (h3.2 e).2 q hq

theorem Store.pagesKept.takeReplacement {p : Fin 256} (w : Nat) (r : Resolution) (d : Fin 64) (slot : Nat)
    (hp : (fetch st.pages p).state = .free) : (st.takeReplacement p w r d slot).pagesKept := by
  obtain ⟨h1, h2, h3⟩ := Store.pagesKept_iff.1 hs
  unfold Store.takeReplacement Store.setPage
  refine Store.pagesKept_iff.2 ⟨fun q => ?_, fun q => ?_, h3.congr (fun d => rfl) fun q => ?_⟩ <;> by_cases e : q = p
  · subst e
    simp [Store.freeOk, Page.taken]
  · simpa only [Store.freeOk, fetch_store_ne _ _ e] using h1 q
  · subst e
    simp [Store.usedOk, Page.taken]
  · simpa only [Store.usedOk, fetch_store_ne _ _ e] using h2 q
  · subst e
    simp [Page.taken, (h1 q hp).2]
  · simp [e]

/-- A SEALED page keeps its mark and its claims; the look at it frees it where it has neither. -/
theorem Store.pagesKept.sealPage (p : Fin 256) (a b : Bool) : (∀ q, (st.sealPage p a b).freeOk q) ∧
    (∀ q, q ≠ p → (st.sealPage p a b).usedOk q) ∧ (st.sealPage p a b).slotsKept := by
  obtain ⟨h1, h2, h3⟩ := Store.pagesKept_iff.1 hs
  unfold Store.sealPage
  refine ⟨fun q => ?_, fun q e => ?_, h3.congr (fun d => rfl) fun q => ?_⟩
  · by_cases e : q = p
    · subst e
      simp [Store.freeOk]
    · simpa only [Store.freeOk, fetch_change_ne _ _ e] using h1 q
  · simpa only [Store.usedOk, fetch_change_ne _ _ e] using h2 q
  · by_cases e : q = p
    · subst e
      simp
    · simp [e]

/-- A discard takes the record out of every slot (R8), and looks at it. -/
theorem Store.pagesKept.discard_eq (p : Fin 256) : ∃ docs,
    st.discard p = Store.settle { st with
      freeList := st.freeList ++ (fetch st.pages p).chain, docs := docs,
      pages := store st.pages p { fetch st.pages p with state := .void, place := none, mapped := false, chain := [] },
      claims := (st.claims.filter (fun c => !decide (c.page = p) || c.inUse)).map
        (fun c => if c.page = p then { c with withdrawn := true } else c) } p ∧
    ∀ e, slotsOf (fetch docs e) = (st.slotsAt e).erase p := by
  refine ⟨_, rfl, fun e => ?_⟩
  obtain ⟨-, -, h3⟩ := Store.pagesKept_iff.1 hs
  split
  next d k hm hp =>
    rw [fetch_change]
    split
    next he =>
      subst he
      unfold Store.slotsAt
      cases fetch st.docs e <;> simp [slotsOf]
    next he =>
      rw [List.erase_of_not_mem]
      · rfl
      · intro hmem
        obtain ⟨k', hk'⟩ := (h3.2 e).2 p hmem
        rw [hp] at hk'
        simp only [Option.some.injEq, Prod.mk.injEq] at hk'
        exact he hk'.1.symm
  next hn =>
    rw [List.erase_of_not_mem]
    · rfl
    · intro hmem
      obtain ⟨k', hk'⟩ := (h3.2 e).2 p hmem
      exact hn e k' ((h3.1 p).2 ⟨e, hmem⟩) hk'

theorem Store.pagesKept.discard (p : Fin 256) : (st.discard p).pagesKept := by
  obtain ⟨docs, hd, hat⟩ := hs.discard_eq p
  obtain ⟨h1, h2, h3⟩ := Store.pagesKept_iff.1 hs
  rw [hd]
  refine Store.settle_pagesKept p (fun q => ?_) ⟨fun q => ?_, fun e => ?_⟩ fun q hq => ?_
  · by_cases e : q = p
    · subst e
      simp [Store.freeOk]
    · simp only [Store.freeOk, fetch_store_ne _ _ e]
      refine fun hf => ⟨fun c hc => ?_, (h1 q hf).2⟩
      obtain ⟨y, hy, rfl⟩ := List.mem_map.1 hc
      have := (h1 q hf).1 y (List.mem_of_mem_filter hy)
      split <;> exact this
  · simp only [Store.slotsAt, hat]
    by_cases e : q = p
    · subst e
      simpa [Store.slotsAt] using fun d => (h3.2 d).1.not_mem_erase
    · rw [fetch_store_ne _ _ e, h3.1 q]
      simp only [List.mem_erase_of_ne e]
      rfl
  · simp only [Store.slotsAt, hat]
    refine ⟨(h3.2 e).1.erase p, fun q hq => ?_⟩
    have hne : q ≠ p := by rintro rfl; exact (h3.2 e).1.not_mem_erase hq
    rw [fetch_store_ne _ _ hne]
    exact (h3.2 e).2 q (List.mem_of_mem_erase hq)
  · simp only [Store.usedOk, fetch_store_ne _ _ hq]
    refine fun hc => h2 q fun y hy hyq => hc y (List.mem_map.2 ⟨y, List.mem_filter.2 ⟨hy, ?_⟩, ?_⟩) hyq
    · simp [hyq, hq]
    · rw [if_neg (by rw [hyq]; exact hq)]

theorem Store.pagesKept.sealReplacement {p : Fin 256} (a b : Bool) {d : Fin 64} {slot : Nat}
    (hp : (fetch st.pages p).place = some (d, slot)) : (((st.sealPage p a b).remap p d slot).settle p).pagesKept := by
  obtain ⟨h1, h2, h3⟩ := hs.sealPage p a b
  exact Store.remap_pagesKept h1 h2 h3 (by simpa [Store.sealPage] using hp) (by simp [Store.sealPage])

/-- A record changed with its state, its mark and its place kept. -/
theorem Store.pagesKept.setPage {u : Store} {p : Fin 256} {x : Page} (hd : u.docs = st.docs) (hc : u.claims = st.claims)
    (hp : u.pages = store st.pages p x) (hx : x.state = (fetch st.pages p).state ∧ x.mapped = (fetch st.pages p).mapped ∧
      x.place = (fetch st.pages p).place) : u.pagesKept := by
  refine hs.congr (fun e => by rw [Store.slotsAt, hd]; rfl) (fun q => ?_) fun q => by rw [hc]
  rw [hp]
  by_cases e : q = p
  · subst e
    rwa [fetch_store_same]
  · rw [fetch_store_ne _ _ e]
    exact ⟨rfl, rfl, rfl⟩

theorem StoreChange.pagesKept {u : Store} (h : StoreChange st u) : u.pagesKept := by
  cases h with
  | append h =>
    obtain ⟨hf, ⟨-, rfl⟩ | ⟨-, -, b, rest, hr, rfl⟩⟩ := Store.append_cases h
    · exact hs.setPage rfl rfl rfl ⟨rfl, rfl, rfl⟩
    · exact hs.setPage rfl rfl rfl ⟨rfl, rfl, rfl⟩
  | dropClaims gone => exact hs.dropClaims gone
  | claimDocument h d => exact hs.claimDocument h d
  | useClaim h k =>
    refine hs.congr (fun d => rfl) (fun q => ⟨rfl, rfl, rfl⟩) fun q => ?_
    simp only [Store.useClaim, List.forall_mem_map]
    refine forall₂_congr fun c _ => ?_
    split <;> rfl
  | endUse h a b c => exact hs.endUse h a b c
  | freeDocument d => exact hs.freeDocument d
  | changeDoc d hf =>
    refine hs.congr (fun e => ?_) (fun q => ⟨rfl, rfl, rfl⟩) fun q => .rfl
    rw [Store.slotsAt_store rfl]
    split
    next he =>
      subst he
      unfold Store.slotsAt
      cases fetch st.docs e <;> simp [slotsOf, hf]
    next => rfl
  | openDoc hd hx =>
    refine hs.congr (fun e => ?_) (fun q => ⟨rfl, rfl, rfl⟩) fun q => .rfl
    rw [Store.slotsAt_store rfl]
    split
    next he =>
      subst he
      simp [Store.slotsAt, slotsOf, hd, hx]
    next => rfl
  | mapPage w r d hs' hp => exact hs.mapPage w r d hs' hp
  | takeReplacement w r d slot hp => exact hs.takeReplacement w r d slot hp
  | sealPage p a b =>
    obtain ⟨h1, h2, h3⟩ := hs.sealPage p a b
    exact Store.settle_pagesKept p h1 h3 h2
  | sealReplacement a b hp => exact hs.sealReplacement a b hp
  | discard p => exact hs.discard p
  | refill p => exact hs.setPage rfl rfl rfl ⟨rfl, rfl, rfl⟩
  | form p w r => exact hs.setPage rfl rfl rfl ⟨rfl, rfl, rfl⟩

end

/-- Settles O7: each elementary change of the store moves whole chains, and looks at the pages that it takes a claim or a mark from. -/
theorem blocksStayKept : Obligations.BlocksStayKept :=
  ⟨fun _ _ hs h => (preserved_store (P := Store.blocksKept) StoreChange.blocksKept fun _ => Store.initial_blocksKept _).step
      (fun _ => Store.initial_blocksKept _) h hs,
    fun _ _ hs h => (preserved_store (P := Store.pagesKept) (fun h hs => StoreChange.pagesKept hs h)
      fun {st} _ => Store.initial_pagesKept st.blocks).step (fun _ => Store.initial_pagesKept _) h hs⟩

end Sys2Proof.Machine
end

section
/-! PROOFS. Lines, meters, charge places, active call counts and ON-LINE destinations stay in agreement (O10). -/

namespace Sys2Proof.Machine

/-! ### The active call counts -/

/-- What a line adds to a count of calls. -/
def Line.calls (x : Line) (q : Admission → Bool) : Nat := x.admission.toList.countP q

theorem Line.calls_none {x : Line} (h : x.admission = none) (q : Admission → Bool) : x.calls q = 0 := by simp [Line.calls, h]

theorem Line.calls_some {x : Line} {a : Admission} (h : x.admission = some a) (q : Admission → Bool) :
    x.calls q = if q a then 1 else 0 := by
  simp [Line.calls, h, List.countP_cons]

theorem nodup_allLines : allLines.Nodup := by decide

/-- A count of calls: what one line adds, and what the others do. -/
theorem State.admissions_countP (s : State) (l : LineNo) (q : Admission → Bool) :
    s.admissions.countP q = (s.line l).calls q + ((allLines.erase l).filterMap (fun k => (s.line k).admission)).countP q := by
  have h := (List.perm_cons_erase (mem_allLines l)).filterMap (fun k => (s.line k).admission)
  rw [State.admissions, h.countP_eq, List.filterMap_cons]
  cases ha : (s.line l).admission with
  | none => simp [Line.calls_none ha]
  | some a => simp [Line.calls_some ha, List.countP_cons, Nat.add_comm]

/-- Where the other lines hold the same calls, the counts differ by what one line adds. -/
theorem admissions_countP_congr {s t : State} {l : LineNo} (h : ∀ k, k ≠ l → t.line k = s.line k) (q : Admission → Bool) :
    t.admissions.countP q + (s.line l).calls q = s.admissions.countP q + (t.line l).calls q := by
  have h1 : (allLines.erase l).filterMap (fun k => (t.line k).admission) =
      (allLines.erase l).filterMap (fun k => (s.line k).admission) :=
    List.filterMap_congr fun k hk => by rw [h k (by rintro rfl; exact nodup_allLines.not_mem_erase hk)]
  rw [State.admissions_countP t l, State.admissions_countP s l, h1]
  omega

/-! ### A change at one line -/

/-- A change at one line and its call that keeps the counts, the other lines and their charge places. -/
theorem State.callsKept.of_line {s t : State} (h : s.callsKept) (l : LineNo) (hl : t.callKept l)
    (hk : ∀ k, k ≠ l → t.line k = s.line k ∧ (t.meter k).running = (s.meter k).running ∧
      t.charges.reserved.filter (fun r => decide (r.line = k)) = s.charges.reserved.filter (fun r => decide (r.line = k)))
    (ha : ∀ a, (t.account a).active + (s.line l).calls (fun x => decide (x.account = a)) =
      (s.account a).active + (t.line l).calls (fun x => decide (x.account = a)))
    (hr : ∀ i, fetch t.routes.active i + (s.line l).calls (fun x => decide (x.entry = i)) =
      fetch s.routes.active i + (t.line l).calls (fun x => decide (x.entry = i)))
    (hu : t.charges.used ≤ 32) : t.callsKept := by
  obtain ⟨h1, h2, h3, -⟩ := h
  have hq := admissions_countP_congr (l := l) fun k e => (hk k e).1
  refine ⟨fun k => ?_, fun a => ?_, fun i => ?_, hu⟩
  · by_cases e : k = l
    · rwa [e]
    · obtain ⟨e1, e2, e3⟩ := hk k e
      simpa only [State.callKept, e1, e2, e3] using h1 k
  · have := hq fun x => decide (x.account = a)
    have := ha a
    have := h2 a
    omega
  · have := hq fun x => decide (x.entry = i)
    have := hr i
    have := h3 i
    omega

/-- A change of nothing that the agreement looks at. -/
theorem State.callsKept.congr {s t : State} (h : s.callsKept) (hl : ∀ l, t.line l = s.line l)
    (hm : ∀ l, (t.meter l).running = (s.meter l).running) (ha : ∀ a, (t.account a).active = (s.account a).active)
    (hr : t.routes.active = s.routes.active) (hres : t.charges.reserved = s.charges.reserved)
    (hf : t.charges.filled.length ≤ s.charges.filled.length) : t.callsKept := by
  refine h.of_line 0 ?_ (fun k _ => ⟨hl k, hm k, by rw [hres]⟩) (fun a => by rw [ha, hl]) (fun i => by rw [hr, hl]) ?_
  · simpa only [State.callKept, hl, hm, hres] using h.1 0
  · have := h.2.2.2
    unfold ChargeQueue.used at *
    rw [hres]
    omega

theorem State.callsKept.idle_admission {s : State} (h : s.callsKept) {l : LineNo} (hl : (s.line l).releasable = false) :
    (s.line l).admission = none ∧ (s.line l).answered = false := by
  obtain ⟨h1, h2, -⟩ := h.1 l
  have ha : (s.line l).admission = none := by
    cases e : (s.line l).admission with
    | none => rfl
    | some a => simp [h1 (by simp [e])] at hl
  refine ⟨ha, ?_⟩
  cases e : (s.line l).answered with
  | false => rfl
  | true => simp [ha, e] at h2

theorem State.callsKept.setLine {s : State} (h : s.callsKept) {l : LineNo} {x : Line} (hx : LineKept (s.line l) x) :
    (s.setLine l x).callsKept := by
  obtain ⟨ha, hr, han⟩ := hx
  have han : x.answered = (s.line l).answered := by
    rcases han with e | ⟨e, e'⟩
    · exact e
    · rw [e', (h.idle_admission e).2]
  refine h.of_line l ?_ (fun k e => ⟨by simp [e], rfl, rfl⟩) (fun a => by simp [Line.calls, ha]) (fun i => by simp [Line.calls, ha])
    h.2.2.2
  obtain ⟨h1, h2, h3, h4⟩ := h.1 l
  simp only [State.callKept, State.setLine_line_same, ha, han]
  exact ⟨fun e => hr (h1 e), h2, h3, h4⟩

/-! ### A placement (R101, R102) -/

theorem dialOn_line_ne {l k : LineNo} (h : k ≠ l) (a : Admission) (st : DialStep) (s : State) :
    (dialOn l a st s).line k = s.line k := by
  unfold dialOn
  split
  · simp [h]
  · simp [beginCaller, h]

/-- The seized line is in its call. -/
theorem seizeLine_line (l : LineNo) (a : Admission) (s : State) :
    ((seizeLine l a s).line l).admission = some a ∧ ((seizeLine l a s).line l).answered = false ∧
      ((seizeLine l a s).line l).releasable = true := by
  have h := dialOn_line (t := s.setLine l ((s.line l).seized a (s.profile a.profile))) (l := l)
    (st := .phase ((s.line l).seized a (s.profile a.profile)) .seizePause) (by simp [DialStep.inCall, InCall, Line.seized, Line.releasable]) a
  rw [State.setLine_line_same] at h
  exact ⟨h.1, h.2.1, h.2.2⟩

theorem seizeLine_line_ne {l k : LineNo} (h : k ≠ l) (a : Admission) (s : State) : (seizeLine l a s).line k = s.line k := by
  unfold seizeLine
  dsimp only
  rw [dialOn_line_ne h, State.setLine_line_ne _ _ _ _ h]

section
variable (j : Fin 32) (d : Nat) (x : Dest) (b : SendJob) (i : Fin 48) (l : LineNo) (s : State)

/-- The admission record of a placement. -/
def State.admissionFor : Admission :=
  ⟨j, d, x.number, b.account, i, (fetch s.routes.entries i).zone, (fetch s.routes.entries i).profile, (fetch s.routes.entries i).access⟩

theorem place_line : ((place j d x b i l s).line l).admission = some (s.admissionFor j d x b i) ∧
    ((place j d x b i l s).line l).answered = false ∧ ((place j d x b i l s).line l).releasable = true := seizeLine_line l _ _

theorem place_line_ne {k : LineNo} (h : k ≠ l) : (place j d x b i l s).line k = s.line k := by
  refine (seizeLine_line_ne h _ _).trans ?_
  simp [State.line]

theorem place_charges : (place j d x b i l s).charges = s.charges.reserve l j d := by
  simp [place]

theorem place_routes : (place j d x b i l s).routes.active = change s.routes.active i (fun n => n + 1) := by
  simp [place]

theorem place_account (a : Fin 64) :
    ((place j d x b i l s).account a).active = (s.account a).active + if b.account = a then 1 else 0 := by
  have h : (place j d x b i l s).account a =
      (s.setAccount b.account { s.account b.account with active := (s.account b.account).active + 1 }).account a := by
    simp [place, State.account]
  rw [h, State.setAccount_account]
  by_cases e : a = b.account
  · simp [e]
  · rw [if_neg e, if_neg (Ne.symm e)]
    rfl

theorem place_dest (k : Fin 32) (e : Nat) : (place j d x b i l s).dest k e =
    if k = j ∧ e = d then (s.dest j d).map (fun x => { x with state := .onLine, attempts := x.attempts + 1, line := some l })
    else s.dest k e := by
  have h : (place j d x b i l s).dest k e =
      (changeDest j d (fun x => { x with state := .onLine, attempts := x.attempts + 1, line := some l }) s).dest k e := by
    simp only [State.dest_eq_destsOf, State.job, place, seizeLine_frame]
    unfold changeDest changeSend
    simp only [State.job, setRoutes, State.setAccount]
    split <;> rfl
  rw [h, changeDest_dest]

variable {j d x b i l s}

theorem State.callsKept.place (h : s.callsKept) (hl : (s.line l).state = .idle) (hu : s.charges.used < 32) :
    (place j d x b i l s).callsKept := by
  obtain ⟨hadm, hans⟩ := h.idle_admission (l := l) (by simp [Line.releasable, hl])
  obtain ⟨p1, p2, p3⟩ := place_line j d x b i l s
  have hm (k : LineNo) : (Machine.place j d x b i l s).meter k = s.meter k := by simp [State.meter]
  obtain ⟨-, -, h3, h4⟩ := h.1 l
  refine h.of_line l ⟨fun _ => p3, by simp [p2], by rw [hm, h3, hans, p2], ?_⟩ (fun k e => ⟨place_line_ne j d x b i l s e, by rw [hm], ?_⟩)
    (fun a => ?_) (fun k => ?_) ?_
  · rw [place_charges, p1, ChargeQueue.reserve, List.filter_append, h4, hadm]
    simp [State.admissionFor]
  · rw [place_charges, ChargeQueue.reserve, List.filter_append]
    simp [Ne.symm e]
  · rw [place_account, Line.calls_none hadm, Line.calls_some p1]
    by_cases e : b.account = a <;> simp [e, State.admissionFor]
  · rw [place_routes, fetch_change, Line.calls_none hadm, Line.calls_some p1]
    by_cases e : k = i
    · simp [e, State.admissionFor]
    · simp [e, Ne.symm e, State.admissionFor]
  · rw [place_charges]
    unfold ChargeQueue.used ChargeQueue.reserve at *
    simp only [List.length_append, List.length_cons, List.length_nil]
    omega

end

/-! ### A release (R119) -/

theorem Line.released_call (x : Line) (why : Reason) (n : Nat) : (x.released why n).admission = none ∧
    (x.released why n).answered = false := ⟨rfl, rfl⟩

theorem releaseContext_line (l k : LineNo) (why : Reason) (n : Nat) (name : Name) (s : State) :
    (releaseContext l why n name s).line k = if k = l then (s.line l).released why s.cfg.guardTime else s.line k := by
  rw [State.line, releaseContext_lines, fetch_store]
  rfl

theorem State.callsKept.releaseContext {s : State} (h : s.callsKept) (l : LineNo) (why : Reason) (n : Nat) (name : Name) :
    (releaseContext l why n name s).callsKept := by
  have hline := fun k => releaseContext_line l k why n name s
  obtain ⟨h1, h2, h3, h4⟩ := h.1 l
  cases ha : (s.line l).admission with
  | none =>
    obtain ⟨r1, r2, r3, r4, -⟩ := releaseContext_of_none s l (why := why) (n := n) (name := name) ha
    have hans : (s.line l).answered = false := by
      cases e : (s.line l).answered with
      | false => rfl
      | true => simp [ha, e] at h2
    refine h.of_line l ?_ (fun k e => ⟨by simp [hline, e], by rw [State.meter, r1]; rfl, by rw [r4]⟩) (fun a => ?_) (fun i => ?_)
      (by rw [r4]; exact h.2.2.2)
    · simp only [State.callKept, hline, if_true, State.meter, r1, r4, h4, ha]
      exact ⟨by simp [Line.released], by simp [Line.released], h3.trans hans, by simp [Line.released]⟩
    · rw [State.account, r2, hline, if_pos rfl, Line.calls_none ha, Line.calls_none (Line.released_call ..).1]
      rfl
    · rw [r3, hline, if_pos rfl, Line.calls_none ha, Line.calls_none (Line.released_call ..).1]
  | some a =>
    obtain ⟨r1, r2, r3, r4, r5⟩ := releaseContext_of_some s l (why := why) (n := n) (name := name) ha
    have hcount (q : Admission → Bool) (hq : q a = true) : 1 ≤ s.admissions.countP q := by
      rw [State.admissions_countP s l, Line.calls_some ha, if_pos hq]
      omega
    have hmeter (k : LineNo) : ((Machine.releaseContext l why n name s).meter k).running =
        if k = l then false else (s.meter k).running := by
      rw [State.meter, r1]
      split
      · rw [fetch_store]
        split <;> rfl
      next hn =>
        split
        next e => rw [e]; exact h3.trans (by simpa using hn)
        next => rfl
    refine h.of_line l ?_ (fun k e => ⟨by simp [hline, e], by simp [hmeter, e], ?_⟩) (fun b => ?_) (fun i => ?_) ?_
    · simp only [State.callKept, hline, if_true, hmeter, r4, List.filter_filter]
      refine ⟨by simp [Line.released], by simp [Line.released], by simp [Line.released], ?_⟩
      simp only [(Line.released_call ..).1, Option.map_none, Option.toList_none, List.filter_eq_nil_iff]
      intro r _
      simp
    · rw [r4, List.filter_filter]
      refine List.filter_congr fun r _ => ?_
      by_cases e' : r.line = k
      · simp [e', e]
      · simp [e']
    · rw [State.account, r2, fetch_store, hline, if_pos rfl, Line.calls_some ha, Line.calls_none (Line.released_call ..).1]
      by_cases e : b = a.account
      · subst e
        have := hcount (fun x => decide (x.account = a.account)) (by simp)
        have := h.2.1 a.account
        simp only [if_true, decide_true]
        omega
      · rw [if_neg e, if_neg (by simpa using Ne.symm e)]
        rfl
    · rw [r3, fetch_change, hline, if_pos rfl, Line.calls_some ha, Line.calls_none (Line.released_call ..).1]
      by_cases e : i = a.entry
      · subst e
        have := hcount (fun x => decide (x.entry = a.entry)) (by simp)
        have := h.2.2.1 a.entry
        simp only [if_true, decide_true]
        omega
      · rw [if_neg e, if_neg (by simpa using Ne.symm e)]
    · have hlen : (s.charges.reserved.filter (fun r => decide (r.line = l))).length = 1 := by
        rw [h4, ha]
        rfl
      have hsum := List.length_eq_length_filter_add (l := s.charges.reserved) (fun r => decide (r.line = l))
      have hcong : s.charges.reserved.filter (fun r => !decide (r.line = l)) =
          s.charges.reserved.filter (fun r => decide (r.line ≠ l)) := List.filter_congr fun r _ => by simp
      have hu := h.2.2.2
      unfold ChargeQueue.used at *
      rw [r4, r5, ← hcong]
      split <;> omega

/-! ### The call counts and the charge places, kept by every step -/

theorem postAccount_active (n : Fin 64) (k : Nat) (s : State) (a : Fin 64) :
    ((postAccount n k s).account a).active = (s.account a).active := by
  have h : (postAccount n k s).account a = (s.setAccount n ((s.account n).posted k)).account a := by
    unfold postAccount putAccount
    split <;> simp [State.account]
  rw [h, State.setAccount_account]
  split
  next e => rw [e]; rfl
  next => rfl

theorem meterPost_active (l : LineNo) (k : Nat) (s : State) (a : Fin 64) :
    ((meterPost l k s).account a).active = (s.account a).active := by
  unfold meterPost
  split
  · rfl
  · rw [postAccount_active]
    rfl

theorem meterPost_running (l m : LineNo) (k : Nat) (s : State) : ((meterPost l k s).meter m).running = (s.meter m).running := by
  unfold meterPost
  split
  · rfl
  · rw [postAccount_meter, State.setMeter_meter]
    split
    next e => rw [e]
    next => rfl

theorem meterStart_running (l m : LineNo) (z : Fin 8) (a : Fin 64) (s : State) :
    ((meterStart l z a s).meter m).running = if m = l then true else (s.meter m).running := by
  unfold meterStart
  rw [meterPost_running, State.setMeter_meter]
  split
  · rw [Meter.reload_running]
  · rfl

/-- The line that an ABILITY answers (R131). -/
theorem State.callsKept.answer {s : State} (h : s.callsKept) {l : LineNo} {a : Admission} (ha : (s.line l).admission = some a) :
    (meterStart l a.zone a.account (s.setLine l { s.line l with answered := true })).callsKept := by
  have hline (k : LineNo) : (meterStart l a.zone a.account (s.setLine l { s.line l with answered := true })).line k =
      if k = l then { s.line l with answered := true } else s.line k := by
    rw [State.line, (meterStart_frame ..).2.2.2.2.2.2.1, ← State.setLine_line]
    rfl
  have hcharges : (meterStart l a.zone a.account (s.setLine l { s.line l with answered := true })).charges = s.charges := by simp
  have hroutes : (meterStart l a.zone a.account (s.setLine l { s.line l with answered := true })).routes = s.routes := by simp
  have hacc (b : Fin 64) : ((meterStart l a.zone a.account (s.setLine l { s.line l with answered := true })).account b).active =
      (s.account b).active := by
    unfold meterStart
    rw [meterPost_active]
    rfl
  obtain ⟨h1, -, -, h4⟩ := h.1 l
  refine h.of_line l ⟨?_, ?_, ?_, ?_⟩ (fun k e => ⟨by simp [hline, e], by simp [meterStart_running, e], by rw [hcharges]⟩) (fun b => ?_)
    (fun i => ?_) (by rw [hcharges]; exact h.2.2.2)
  · rw [hline, if_pos rfl]
    exact h1
  · rw [hline, if_pos rfl]
    simp [ha]
  · simp [meterStart_running, hline]
  · rw [hcharges, hline, if_pos rfl]
    exact h4
  · rw [hacc, hline, if_pos rfl]
    rfl
  · rw [hroutes, hline, if_pos rfl]
    rfl

theorem Change.callsKept {s t : State} (h : Change s t) (hs : s.callsKept) : t.callsKept := by
  cases h with
  | same h =>
    simp only [State.core, Prod.mk.injEq] at h
    obtain ⟨-, -, -, -, h1, h2, -, -, h3, h4, h5, -⟩ := h
    exact hs.congr (fun l => by rw [State.line, h2]; rfl) (fun l => by rw [State.meter, h3]; rfl)
      (fun a => by rw [State.account, h4]; rfl) h1 (by rw [h5]) (by rw [h5])
  | reports | store | channel | printer | job | clock | config => exact hs.congr (fun _ => rfl) (fun _ => rfl) (fun _ => rfl) rfl rfl (Nat.le_refl _)
  | line h => exact hs.setLine h
  | @meter l m h hr =>
    refine hs.congr (fun _ => rfl) (fun k => ?_) (fun _ => rfl) rfl rfl (Nat.le_refl _)
    rw [State.setMeter_meter]
    split
    next e => rw [e, hr]
    next => rfl
  | @account n a h ha =>
    refine hs.congr (fun _ => rfl) (fun _ => rfl) (fun k => ?_) rfl rfl (Nat.le_refl _)
    rw [State.setAccount_account]
    split
    next e => rw [e, ha]
    next => rfl
  | records rs h => exact hs.congr (fun _ => rfl) (fun _ => rfl) (fun _ => rfl) rfl rfl h
  | place j d x b i hl hu => exact hs.place hl hu
  | answer h => exact hs.answer h
  | @release l why n name => exact hs.releaseContext l why n name
  | @releaseDest l a why n name f =>
    refine (hs.releaseContext l why n name).congr (fun k => ?_) (fun k => ?_) (fun k => ?_) ?_ ?_ ?_ <;>
      simp [State.line, State.meter, State.account]
  | restart =>
    refine restartBlocks_keeps (fun {u v} hc hu => ?_) (fun {u l n name} _ hu => hu.releaseContext l .restart n name)
      (fun h hu => hu.setLine h) hs
    simp only [State.callCore, Prod.mk.injEq] at hc
    obtain ⟨-, -, h1, h2, h3, h4, h5, -⟩ := hc
    exact hu.congr (fun l => by rw [State.line, h2]; rfl) (fun l => by rw [State.meter, h3]; rfl)
      (fun a => by rw [State.account, h4]; rfl) h1 (by rw [h5]) (by rw [h5])

theorem preserved_callsKept : Preserved State.callsKept where
  change := Change.callsKept
  link _ hs := hs.congr (fun _ => rfl) (fun _ => rfl) (fun _ => rfl) rfl rfl (Nat.le_refl _)
  pending hs := hs

/-! ### The ON-LINE destinations (R69) -/

/-- Where the destinations stand as they did and the lines hold the same calls, the ties stand. -/
theorem State.tiesKept.congr {s t : State} (h : s.tiesKept) (hd : ∀ j d, t.dest j d = s.dest j d)
    (hl : ∀ l, (t.line l).admission = (s.line l).admission) : t.tiesKept := by
  intro j d x hx
  rw [hd] at hx
  simpa only [hl] using h j d x hx

theorem restartBlocks_dest (s : State) (j : Fin 32) (d : Nat) : (restartBlocks s).dest j d = none := by
  have hj : (restartBlocks s).jobs.slots = JobTable.initial.slots := by simp [restartBlocks]
  rw [State.dest_eq_destsOf, State.job, hj]
  simp [JobTable.initial, destsOf]

theorem Change.tiesKept {s t : State} (h : Change s t) (hs : s.callsKept) (ht : s.tiesKept) : t.tiesKept := by
  cases h with
  | same h =>
    simp only [State.core, Prod.mk.injEq] at h
    obtain ⟨-, -, -, h1, -, h2, -⟩ := h
    exact ht.congr (fun j d => by rw [State.dest_eq_destsOf, State.dest_eq_destsOf, State.job, h1]; rfl)
      (fun l => by rw [State.line, h2]; rfl)
  | reports | store | channel | printer | meter | account | clock | config | records => exact ht.congr (fun _ _ => rfl) fun _ => rfl
  | @line l x h =>
    refine ht.congr (fun _ _ => rfl) fun k => ?_
    rw [State.setLine_line]
    split
    next e => rw [e, h.1]
    next => rfl
  | @job k c h =>
    intro j d x hx
    have hline (l : LineNo) : (s.setJob k c).line l = s.line l := rfl
    simp only [hline]
    by_cases e : j = k
    · subst e
      rw [State.dest_eq_destsOf, State.setJob_job_same] at hx
      rcases h d x hx with ⟨z, hz, e1, e2⟩ | ⟨e1, e2⟩ | ⟨z, hz, e0, e1, e2⟩
      · rw [e1, e2]
        exact ht j d z hz
      · exact ⟨fun _ => e2, fun e => (e1 e).elim⟩
      · exact ⟨fun _ => e2.trans ((ht j d z hz).1 e0), fun e => (e1 e).elim⟩
    · rw [State.dest_eq_destsOf, State.setJob_job_ne _ _ _ _ e, ← State.dest_eq_destsOf] at hx
      exact ht j d x hx
  | @place k e z b i l hl hu =>
    intro j d x hx
    rw [place_dest] at hx
    split at hx
    next hjd =>
      obtain ⟨rfl, rfl⟩ := hjd
      obtain ⟨y, -, rfl⟩ := Option.map_eq_some_iff.1 hx
      exact ⟨fun h => (h rfl).elim, fun _ => ⟨l, _, rfl, (place_line ..).1, rfl, rfl⟩⟩
    next =>
      obtain ⟨h1, h2⟩ := ht j d x hx
      refine ⟨h1, fun hon => ?_⟩
      obtain ⟨m, a, hm, ha, hj⟩ := h2 hon
      have hne : m ≠ l := by
        rintro rfl
        rw [(hs.idle_admission (l := m) (by simp [Line.releasable, hl])).1] at ha
        cases ha
      exact ⟨m, a, hm, by rw [place_line_ne _ _ _ _ _ _ _ hne, ha], hj⟩
  | @answer l a h =>
    refine ht.congr (fun j d => by simp [State.dest_eq_destsOf, State.job]) fun k => ?_
    rw [State.line, (meterStart_frame ..).2.2.2.2.2.2.1]
    refine (congrArg Line.admission (State.setLine_line s l _ k)).trans ?_
    split
    next e => rw [e]
    next => rfl
  | @release l why n name hr hu =>
    intro j d x hx
    have hdest : (releaseContext l why n name s).dest j d = s.dest j d := by simp [State.dest_eq_destsOf, State.job]
    rw [hdest] at hx
    obtain ⟨h1, h2⟩ := ht j d x hx
    refine ⟨h1, fun hon => ?_⟩
    obtain ⟨m, a, hm, ha, rfl, rfl⟩ := h2 hon
    have hne : m ≠ l := by
      rintro rfl
      exact hu a x ha hx ⟨hon, hm⟩
    exact ⟨m, a, hm, by rw [releaseContext_line, if_neg hne, ha], rfl, rfl⟩
  | @releaseDest l a why n name f hr ha hf =>
    intro j d x hx
    have hdest : (releaseContext l why n name s).dest j d = s.dest j d := by simp [State.dest_eq_destsOf, State.job]
    have hline (k : LineNo) : (changeDest a.job a.dest f (releaseContext l why n name s)).line k =
        (releaseContext l why n name s).line k := by simp [State.line]
    rw [changeDest_dest] at hx
    split at hx
    · obtain ⟨y, -, rfl⟩ := Option.map_eq_some_iff.1 hx
      exact ⟨fun _ => (hf y).2, fun e => ((hf y).1 e).elim⟩
    next hn =>
      rw [hdest] at hx
      obtain ⟨h1, h2⟩ := ht j d x hx
      refine ⟨h1, fun hon => ?_⟩
      obtain ⟨m, b, hm, hb, rfl, rfl⟩ := h2 hon
      have hne : m ≠ l := by
        rintro rfl
        rw [ha] at hb
        cases hb
        exact hn ⟨rfl, rfl⟩
      exact ⟨m, b, hm, by rw [hline, releaseContext_line, if_neg hne, hb], rfl, rfl⟩
  | restart =>
    intro j d x hx
    rw [restartBlocks_dest] at hx
    cases hx

theorem preserved_ties : Preserved (fun s => s.callsKept ∧ s.tiesKept) where
  change h hs := ⟨h.callsKept hs.1, h.tiesKept hs.1 hs.2⟩
  link h hs := ⟨preserved_callsKept.link h hs.1, hs.2.congr (fun _ _ => rfl) fun _ => rfl⟩
  pending hs := hs

/-- Settles O10. -/
theorem callsAndChargesAgree : Obligations.CallsAndChargesAgree :=
  ⟨fun _ _ hs h => preserved_callsKept.step afterReset_callsKept h hs,
    fun _ _ hs ht h => (preserved_ties.step (fun msz => ⟨afterReset_callsKept msz, afterReset_tiesKept msz⟩) h ⟨hs, ht⟩).2⟩

end Sys2Proof.Machine
end

section
/-! PROOFS. A command leaves the queue of commands alone (O2), and a step on an empty queue is one highway frame (O3). -/

namespace Sys2Proof.Machine

/-! ### The queue of commands (O2) -/

theorem Change.pending {s t : State} (h : Change s t) : t.pending = s.pending := by
  cases h with
  | same h =>
    simp only [State.core, Prod.mk.injEq] at h
    obtain ⟨-, -, -, -, -, -, -, -, -, -, -, -, -, -, -, -, -, -, h1⟩ := h
    exact h1
  | _ => simp

theorem Reaches.pending {s t : State} (h : Reaches s t) : t.pending = s.pending :=
  h.keeps (P := fun u => u.pending = s.pending) (fun _ _ hc hs => hc.pending.trans hs) rfl

/-- Settles O2. -/
theorem execLeavesTheQueue : Obligations.ExecLeavesTheQueue := by
  intro c s t h
  obtain ⟨u, he, hd⟩ := exec_dealt c s
  obtain rfl : u = t := by rw [he] at h; exact Host.Outcome.next.inj h
  cases hd with
  | order code tag params => exact takeOrder_pending ..
  | frame f => exact dealFrame_pending ..
  | bytes bs => exact arriveBytes_pending ..
  | transmit => exact transmitSelect_pending ..
  | reset msz => rfl
  | own h => exact h.pending

/-! ### One highway frame (O3) -/

/-- A line's counters after one frame (R111, R113, R116, R120). -/
def Line.framed (x : Line) (t : Slot) : Line :=
  { (x.loopFrame t.loopPresent).ringFrameTick t.ringPresent with
      cadence := ((x.loopFrame t.loopPresent).ringFrameTick t.ringPresent).cadence.frame,
      guard := ((x.loopFrame t.loopPresent).ringFrameTick t.ringPresent).guard - 1 }

theorem lineFrame_line (s : State) (k l : LineNo) :
    (lineFrame s k).line l = if l = k then (s.line l).framed (s.slot l) else s.line l := by
  unfold lineFrame
  rw [State.setLine_line]
  split
  next e => rw [e]; rfl
  next => rfl

theorem foldl_lineFrame_line (ls : List LineNo) (hls : ls.Nodup) (s : State) (l : LineNo) :
    (ls.foldl lineFrame s).line l = if l ∈ ls then (s.line l).framed (s.slot l) else s.line l := by
  induction ls generalizing s with
  | nil => simp
  | cons k ls ih =>
    obtain ⟨hk, hls⟩ := List.nodup_cons.1 hls
    have hslot : (lineFrame s k).slot l = s.slot l := by simp [State.slot]
    rw [List.foldl_cons, ih hls, lineFrame_line, hslot]
    by_cases e : l = k
    · subst e
      simp [hk]
    · simp [e]

/-- A slot when its word has gone out (R214). -/
def Slot.worded (t : Slot) (x : Line) : Slot := { t with word := outWord x t, dataByte := none, handed := false }

theorem sendWord_slot (s : State) (k l : LineNo) :
    (sendWord s k).slot l = if l = k then (s.slot l).worded (s.line l) else s.slot l := by
  unfold sendWord
  rw [State.setSlot_slot]
  split
  next e => rw [e]; rfl
  next => rfl

theorem foldl_sendWord_slot (ls : List LineNo) (hls : ls.Nodup) (s : State) (l : LineNo) :
    (ls.foldl sendWord s).slot l = if l ∈ ls then (s.slot l).worded (s.line l) else s.slot l := by
  induction ls generalizing s with
  | nil => simp
  | cons k ls ih =>
    obtain ⟨hk, hls⟩ := List.nodup_cons.1 hls
    have hline : (sendWord s k).line l = s.line l := by simp [State.line]
    rw [List.foldl_cons, ih hls, sendWord_slot, hline]
    by_cases e : l = k
    · subst e
      simp [hk]
    · simp [e]

theorem TimeoutClass.index_inj {c k : TimeoutClass} (h : (TimeoutClass.index c) = (TimeoutClass.index k)) : c = k := by
  revert h
  cases c <;> cases k <;> decide

theorem mem_allClasses (c : TimeoutClass) : c ∈ allClasses := by cases c <;> decide

/-- A class's counter after one frame (R150). -/
theorem foldl_classFrame_tick (cs : List TimeoutClass) (hcs : cs.Nodup) (s : State) (c : TimeoutClass) :
    fetch (cs.foldl classFrame s).ticks (TimeoutClass.index c) =
      if c ∈ cs then (if classDue s c then 0 else fetch s.ticks (TimeoutClass.index c) + 1) else fetch s.ticks (TimeoutClass.index c) := by
  induction cs generalizing s with
  | nil => simp
  | cons k cs ih =>
    obtain ⟨hk, hcs⟩ := List.nodup_cons.1 hcs
    rw [List.foldl_cons, ih hcs]
    by_cases e : c = k
    · subst e
      simp [hk, classFrame]
    · have hi : (TimeoutClass.index c) ≠ (TimeoutClass.index k) := fun h => e (TimeoutClass.index_inj h)
      simp [e, classFrame, classDue, hi]

/-- The state after one frame's counting, before the events join the queue. -/
def State.counted (s : State) : State :=
  clockFrame (allClasses.foldl classFrame (allLines.foldl lineFrame (allLines.foldl sendWord s)))

theorem frameTick_eq (s : State) : frameTick s = { s.counted with pending := frameEvents s s.counted } := rfl

section
variable (s : State)

@[simp] theorem State.counted_frame : s.counted.cfg = s.cfg ∧ s.counted.store = s.store ∧ s.counted.scan = s.scan ∧
    s.counted.jobs = s.jobs ∧ s.counted.routes = s.routes ∧ s.counted.profiles = s.profiles ∧ s.counted.procs = s.procs ∧
    s.counted.printer = s.printer ∧ s.counted.meters = s.meters ∧ s.counted.accounts = s.accounts ∧
    s.counted.charges = s.charges ∧ s.counted.link = s.link ∧ s.counted.freeCount = s.freeCount := by
  unfold State.counted
  simp

theorem State.counted_line (l : LineNo) : s.counted.line l = (s.line l).framed (s.slot l) := by
  have h1 : s.counted.line l = (allLines.foldl lineFrame (allLines.foldl sendWord s)).line l := by
    simp [State.counted, State.line]
  have h2 : (allLines.foldl sendWord s).line l = s.line l := by simp [State.line]
  rw [h1, foldl_lineFrame_line _ nodup_allLines, if_pos (mem_allLines l), foldl_sendWord_slot _ nodup_allLines,
    if_pos (mem_allLines l), h2]
  rfl

theorem State.counted_slot (l : LineNo) : s.counted.slot l = (s.slot l).worded (s.line l) := by
  have h1 : s.counted.slot l = (allLines.foldl sendWord s).slot l := by simp [State.counted, State.slot]
  rw [h1, foldl_sendWord_slot _ nodup_allLines, if_pos (mem_allLines l)]

theorem State.counted_tick (c : TimeoutClass) :
    fetch s.counted.ticks (TimeoutClass.index c) = if classDue s c then 0 else fetch s.ticks (TimeoutClass.index c) + 1 := by
  have h1 : fetch s.counted.ticks (TimeoutClass.index c) = fetch (allClasses.foldl classFrame
      (allLines.foldl lineFrame (allLines.foldl sendWord s))).ticks (TimeoutClass.index c) := by simp [State.counted]
  rw [h1, foldl_classFrame_tick _ (by decide), if_pos (mem_allClasses c)]
  simp [classDue]

theorem State.counted_clock : s.counted.clock = { s.clock with frame := if secondDue s then 0 else s.clock.frame + 1 } := by
  have h1 : (allClasses.foldl classFrame (allLines.foldl lineFrame (allLines.foldl sendWord s))).clock = s.clock := by simp
  unfold State.counted clockFrame
  simp only [setClock, secondDue, h1]
  rfl

end

theorem mem_ite_singleton {α : Type} (c : Prop) [Decidable c] (i e : α) : i ∈ (if c then [e] else []) ↔ c ∧ i = e := by
  by_cases h : c <;> simp [h]

/-- The events of a line, each under its condition. -/
theorem mem_lineEvents (s : State) (l : LineNo) (i : Instr) : i ∈ lineEvents s l ↔
    (s.line l).cadence.over? = true ∧ i = .cadencePhaseEnd l ∨
    ((s.line l).canBeLost = true ∧ (loopProfile (s.line l) s).bridge * 8 ≤ (s.line l).absence) ∧ i = .lineLost l ∨
    ((s.line l).state = .answering ∧ (s.line l).blanking = 0) ∧ i = .answerBlankingEnd l ∨
    ((s.line l).state = .releasing ∧ (s.line l).guard = 0) ∧ i = .guardTimeEnd l ∨
    ((s.line l).state = .idle ∧ (s.slot l).ringPresent = true) ∧ i = .ringPresent l ∨
    ((s.line l).state = .ringing ∧ (s.slot l).ringPresent = false ∧ 0 < (s.line l).onCount) ∧ i = .ringEnd l 0 ∨
    ((s.line l).state = .ringing ∧ (s.line l).onCount = 0 ∧ s.cfg.ringGapMaximum * 8000 < (s.line l).gapCount) ∧
      i = .ringingEpisodeEnd l := by
  simp only [lineEvents, List.mem_append, mem_ite_singleton, or_assoc]

theorem mem_frameEvents (s t : State) (i : Instr) : i ∈ frameEvents s t ↔
    (∃ l, i ∈ lineEvents t l) ∨ (∃ c, classDue s c = true ∧ i = .classTick c) ∨ secondDue s = true ∧ i = .secondEvent := by
  have h1 : (∃ l ∈ allLines, i ∈ lineEvents t l) ↔ ∃ l, i ∈ lineEvents t l := by simp
  have h2 : (∃ c, (c ∈ allClasses ∧ classDue s c = true) ∧ Instr.classTick c = i) ↔ ∃ c, classDue s c = true ∧ i = .classTick c :=
    ⟨fun ⟨c, ⟨_, h⟩, e⟩ => ⟨c, h, e.symm⟩, fun ⟨c, h, e⟩ => ⟨c, ⟨mem_allClasses c, h⟩, e.symm⟩⟩
  have h3 : i ∈ (if secondDue s then [Instr.secondEvent] else []) ↔ secondDue s = true ∧ i = .secondEvent :=
    mem_ite_singleton ..
  simp only [frameEvents, List.mem_append, List.mem_flatMap, List.mem_map, List.mem_filter, h1, h2, h3, or_assoc]

theorem Line.loopFrame_eq (x : Line) (b : Bool) :
    let watched := x.state = .seized ∨ x.state = .dialing ∨ x.state = .answering ∨ x.state = .connected
    let held := x.cadence.phase = .breakOn ∨ 0 < x.blanking
    x.loopFrame b = { x with
      absence := if watched then (if held ∨ b = true then 0 else x.absence + 1) else x.absence,
      blanking := if watched ∧ held then x.blanking - 1 else x.blanking } := by
  unfold Line.loopFrame Line.watchesLoop
  simp only [decide_eq_true_eq]
  split
  next hw =>
    split
    next hh => simp [hw, hh]
    next hh => cases b <;> simp [hw, hh]
  next hw => simp [hw]

theorem Line.ringFrameTick_eq (x : Line) (b : Bool) : x.ringFrameTick b = { x with
    onCount := if x.state = .ringing ∧ b = true then x.onCount + 1 else x.onCount,
    gapCount := if x.state = .ringing then (if b = true then 0 else if x.onCount = 0 then x.gapCount + 1 else x.gapCount)
      else x.gapCount } := by
  unfold Line.ringFrameTick
  split
  next hr =>
    cases b with
    | true => simp [hr]
    | false =>
      simp only [Bool.false_eq_true, and_false, if_false]
      by_cases h : x.onCount = 0
      · simp only [if_pos h]
      · simp only [if_neg h]
  next hr => simp [hr]

/-- The line after one frame, field by field. -/
theorem Line.framed_eq (x : Line) (t : Slot) :
    let c := x.cadence
    let watched := x.state = .seized ∨ x.state = .dialing ∨ x.state = .answering ∨ x.state = .connected
    let held := c.phase = .breakOn ∨ 0 < x.blanking
    let ring := t.ringPresent = true
    x.framed t = { x with
        guard := x.guard - 1,
        cadence := if c.phase = .none then c
          else if c.prescaler + 1 < c.unit then { c with prescaler := c.prescaler + 1 }
          else if c.count = 0 then { c with prescaler := 0, count := 255, pause := c.pause - 1 }
          else { c with prescaler := 0, count := c.count - 1 },
        absence := if watched then (if held ∨ t.loopPresent = true then 0 else x.absence + 1) else x.absence,
        blanking := if watched ∧ held then x.blanking - 1 else x.blanking,
        onCount := if x.state = .ringing ∧ ring then x.onCount + 1 else x.onCount,
        gapCount := if x.state = .ringing then (if ring then 0 else if x.onCount = 0 then x.gapCount + 1 else x.gapCount)
          else x.gapCount } := by
  unfold Line.framed
  simp only [Line.ringFrameTick_eq, Line.loopFrame_eq, Cadence.frame]

/-- Settles O3. -/
theorem idleStepIsOneFrame : Obligations.IdleStepIsOneFrame := by
  intro s hp
  refine ⟨frameTick s, by unfold step; rw [hp], ?_⟩
  rw [frameTick_eq]
  have hframe := s.counted_frame
  have hline := s.counted_line
  have hslot := s.counted_slot
  have htick := s.counted_tick
  have hclock := s.counted_clock
  generalize s.counted = u at *
  obtain ⟨h1, h2, h3, h4, h5, h6, h7, h8, h9, h10, h11, h12, h13⟩ := hframe
  have hline' (l : LineNo) : State.line { u with pending := frameEvents s u } l = u.line l := rfl
  have hslot' (l : LineNo) : State.slot { u with pending := frameEvents s u } l = u.slot l := rfl
  simp only [hline', hslot', mem_frameEvents, mem_lineEvents]
  refine ⟨?_, ?_, fun k => ?_, fun k => ?_, fun l => ⟨?_, hslot l⟩, fun l => ?_, h1, h2, h3, h4, h5, h6, h7, h8, h9, h10, h11, h12,
    h13⟩
  · rw [hclock]
    by_cases h : s.clock.length ≤ s.clock.frame + 1 <;> simp [secondDue, h] 
  · simp [secondDue]
  · rw [htick]
    by_cases h : fetch s.cfg.periods (TimeoutClass.index k) * 80 ≤ fetch s.ticks (TimeoutClass.index k) + 1 <;> simp [classDue, h]
  · simp [classDue]
  · rw [hline]
    exact Line.framed_eq _ _
  · have hring : (u.slot l).ringPresent = (s.slot l).ringPresent := by
      rw [hslot]
      rfl
    simp [Cadence.over?, Line.canBeLost, loopProfile, hring, h1, State.profile, h6]
    intro _
    cases (u.line l).admission <;> rfl

end Sys2Proof.Machine
end

section
/-! PROOFS. The desk link: the inbound checker (O13), the frames that change nothing (O14), the order parser (O15 to O18). -/

namespace Sys2Proof.Machine

/-! ### The inbound checker (O13) -/

theorem checkBytes_nil (fuel : Nat) : checkBytes fuel [] = ([], []) := by cases fuel <;> rfl

/-- Bytes without a sync byte are skipped (R204). -/
theorem checkBytes_skip {noise rest : List Byte} (hn : 0xA5#8 ∉ noise) (hr : rest ≠ []) (fuel : Nat) :
    checkBytes (noise.length + fuel) (noise ++ rest) = checkBytes fuel rest := by
  induction noise with
  | nil => rw [List.length_nil, Nat.zero_add, List.nil_append]
  | cons a noise ih =>
    obtain ⟨ha, hn⟩ := not_or.1 (List.mem_cons.not.1 hn)
    have hf : (a :: noise).length + fuel = noise.length + fuel + 1 := by rw [List.length_cons]; omega
    rw [hf, List.cons_append, ← ih hn]
    obtain ⟨b, tail, hb⟩ : ∃ b tail, noise ++ rest = b :: tail :=
      List.exists_cons_of_ne_nil (List.append_ne_nil_of_right_ne_nil _ hr)
    rw [hb]
    simp [checkBytes, Ne.symm ha]

theorem checkBytes_noise {held : List Byte} (h : 0xA5#8 ∉ held) {fuel : Nat} (hf : held.length ≤ fuel) :
    checkBytes fuel held = ([], []) := by
  induction held generalizing fuel with
  | nil => exact checkBytes_nil fuel
  | cons a held ih =>
    obtain ⟨ha, h⟩ := not_or.1 (List.mem_cons.not.1 h)
    obtain ⟨fuel, rfl⟩ : ∃ k, fuel = k + 1 := ⟨fuel - 1, by rw [List.length_cons] at hf; omega⟩
    cases held with
    | nil => simp [checkBytes, Ne.symm ha]
    | cons b tail =>
      rw [← ih h (Nat.le_of_succ_le_succ hf)]
      simp [checkBytes, Ne.symm ha]

/-- The bytes of a frame as far as its length field. -/
theorem heldLength_header (dst src kind : Byte) {n : Nat} (hn : n < 65536) (rest : List Byte) :
    heldLength ([0xA5, 0x3C] ++ ([dst, src, kind] ++ uint 2 n) ++ rest) = n := by
  simp [heldLength, uint]
  omega

/-- What the checker makes of a whole frame at its start, good or not (R204, R211). -/
theorem checkBytes_frame (dst src kind : Byte) {payload crc : List Byte} (hl : payload.length ≤ 300) (hc : crc.length = 2)
    (fuel : Nat) (rest : List Byte) :
    let body := [dst, src, kind] ++ uint 2 payload.length ++ payload
    checkBytes (fuel + 1) ([0xA5, 0x3C] ++ body ++ crc ++ rest) =
      if crc = uint 2 (crc16 body).toNat then
        (⟨dst, src, kind, payload⟩ :: (checkBytes fuel rest).1, (checkBytes fuel rest).2)
      else checkBytes fuel (0x3C :: (body ++ crc ++ rest)) := by
  intro body
  have hlen : heldLength ([0xA5, 0x3C] ++ body ++ crc ++ rest) = payload.length := by
    have := heldLength_header dst src kind (n := payload.length) (by omega) (payload ++ crc ++ rest)
    simpa [body] using this
  have hbody : body.length = 5 + payload.length := by simp [body]; omega
  have hcons : [0xA5, 0x3C] ++ body ++ crc ++ rest = 0xA5 :: 0x3C :: (body ++ crc ++ rest) := by simp
  have htotal : ([0xA5, 0x3C] ++ body ++ crc ++ rest).length = 9 + payload.length + rest.length := by
    simp only [List.length_append, hbody, hc, List.length_cons, List.length_nil]
    omega
  have hdrop (k : Nat) (l : List Byte) (hk : l.length = k) (r : List Byte) : (l ++ r).drop k = r := by rw [← hk, List.drop_left]
  have htake (k : Nat) (l : List Byte) (hk : l.length = k) (r : List Byte) : (l ++ r).take k = l := by rw [← hk, List.take_left]
  have h2 : (([0xA5, 0x3C] ++ body ++ crc ++ rest).drop 2).take (5 + payload.length) = body := by
    rw [List.append_assoc, List.append_assoc, hdrop 2 _ rfl, htake _ _ hbody]
  have h7n : (([0xA5, 0x3C] ++ body ++ crc ++ rest).drop (7 + payload.length)).take 2 = crc := by
    rw [List.append_assoc, hdrop _ _ (by simp [hbody]; omega), htake _ _ hc]
  have h9n : ([0xA5, 0x3C] ++ body ++ crc ++ rest).drop (9 + payload.length) = rest :=
    hdrop _ _ (by simp [hbody, hc]; omega) _
  have h7 : (([0xA5, 0x3C] ++ body ++ crc ++ rest).drop 7).take payload.length = payload := by
    have e : [0xA5, 0x3C] ++ body ++ crc ++ rest = ([0xA5, 0x3C] ++ ([dst, src, kind] ++ uint 2 payload.length)) ++
        (payload ++ (crc ++ rest)) := by simp [body]
    rw [e, hdrop 7 _ (by simp), htake _ _ rfl]
  have hget : ([0xA5, 0x3C] ++ body ++ crc ++ rest).getD 2 0 = dst ∧ ([0xA5, 0x3C] ++ body ++ crc ++ rest).getD 3 0 = src ∧
      ([0xA5, 0x3C] ++ body ++ crc ++ rest).getD 4 0 = kind := by simp [body]
  obtain ⟨g2, g3, g4⟩ := hget
  rw [hcons] at hlen htotal h2 h7n h9n h7 g2 g3 g4 ⊢
  conv_lhs => unfold checkBytes
  simp only [true_and, if_true, hlen, htotal, h2, h7n, h9n, h7, g2, g3, g4]
  rw [if_neg (by omega), if_neg (by omega), if_neg (by omega)]

theorem frameBytes_eq (dst src kind : Byte) (payload : List Byte) :
    let body := [dst, src, kind] ++ uint 2 payload.length ++ payload
    frameBytes dst src kind payload = [0xA5, 0x3C] ++ body ++ uint 2 (crc16 body).toNat := rfl

/-- Bytes that arrive at an empty checker, which passes these frames and holds nothing after them. -/
theorem arriveBytes_of_check {s : State} (hs : s.link.bytes = []) {bytes : List Byte} {frames : List Frame}
    (h : checkBytes bytes.length bytes = (frames, [])) :
    arriveBytes bytes s = checkerIdle (frames.foldl (fun s f => dealFrame f s) s) := by
  unfold arriveBytes
  dsimp only
  rw [hs, List.nil_append, h]
  rfl

theorem checkerIdle_of_nil {s : State} (hs : s.link.bytes = []) : checkerIdle s = s := checkerIdle_of_bytes_nil hs

/-- Settles O13. -/
theorem inboundChecker : Obligations.InboundChecker := by
  refine ⟨fun s dst src kind noise payload hs hp hn => ?_, fun s dst src kind hi lo payload hs hp => ?_,
    fun s dst src kind n hs hn hlt hm => ?_, by decide +kernel⟩
  · refine congrArg Host.Outcome.next (arriveBytes_of_check hs (frames := [⟨dst, src, kind, payload⟩]) ?_)
    have hne : frameBytes dst src kind payload ≠ [] := by simp [frameBytes]
    obtain ⟨k, hk⟩ : ∃ k, (frameBytes dst src kind payload).length = k + 1 := ⟨_, by simp [frameBytes]; rfl⟩
    have hf := checkBytes_frame dst src kind (crc := uint 2 (crc16 ([dst, src, kind] ++ uint 2 payload.length ++ payload)).toNat) hp
      (by simp) k []
    rw [List.length_append, hk, checkBytes_skip hn hne, frameBytes_eq]
    simp only [List.append_nil] at hf
    rw [hf, checkBytes_nil, if_pos trivial]
  · intro body hbad hm
    refine congrArg Host.Outcome.next ((arriveBytes_of_check hs (frames := []) ?_).trans (checkerIdle_of_bytes_nil hs))
    obtain ⟨k, hk⟩ : ∃ k, ([0xA5, 0x3C] ++ body ++ [hi, lo]).length = k + 1 := ⟨_, by simp; rfl⟩
    have hf := checkBytes_frame dst src kind (crc := [hi, lo]) hp rfl k []
    simp only [List.append_nil] at hf
    rw [hk, hf, if_neg hbad]
    refine checkBytes_noise (List.mem_cons.not.2 (not_or.2 ⟨by decide, hm⟩)) ?_
    simp only [List.length_append, List.length_cons, List.length_nil] at hk ⊢
    omega
  · refine congrArg Host.Outcome.next ((arriveBytes_of_check hs (frames := []) ?_).trans (checkerIdle_of_bytes_nil hs))
    have hlen := heldLength_header dst src kind hlt []
    simp only [List.append_nil, List.cons_append, List.nil_append] at hlen
    have hm' : 0xA5#8 ∉ 0x3C :: dst :: src :: kind :: uint 2 n := List.mem_cons.not.2 (not_or.2 ⟨by decide, by simpa using hm⟩)
    simp only [List.cons_append, List.nil_append, List.length_cons, uint_length]
    rw [checkBytes]
    simp only [hlen, List.length_cons, uint_length, true_and, if_true]
    rw [if_neg (by omega), if_pos hn]
    exact checkBytes_noise hm' (by simp)

/-! ### What a reader takes -/

/-- A reader that takes `n` bytes, whatever it reads. -/
def Exactly {α : Type} (r : Reader α) (n : Nat) : Prop := ∀ bs a rest, r.run bs = some (a, rest) → bs.length = n + rest.length

/-- A reader that takes `n` bytes or more. -/
def AtLeast {α : Type} (r : Reader α) (n : Nat) : Prop := ∀ bs a rest, r.run bs = some (a, rest) → n + rest.length ≤ bs.length

section
variable {α β : Type} {r : Reader α} {f : α → Reader β} {m n : Nat}

theorem Exactly.bind (hr : Exactly r m) (hf : ∀ a, Exactly (f a) n) : Exactly (r >>= f) (m + n) := by
  intro bs b rest h
  rw [Reader.run_bind, Option.bind_eq_some_iff] at h
  obtain ⟨⟨a, mid⟩, ha, hb⟩ := h
  have := hr _ _ _ ha
  have := hf _ _ _ _ hb
  dsimp only at *
  omega

theorem AtLeast.bind (hr : AtLeast r m) (hf : ∀ a, AtLeast (f a) n) : AtLeast (r >>= f) (m + n) := by
  intro bs b rest h
  rw [Reader.run_bind, Option.bind_eq_some_iff] at h
  obtain ⟨⟨a, mid⟩, ha, hb⟩ := h
  have := hr _ _ _ ha
  have := hf _ _ _ _ hb
  dsimp only at *
  omega

theorem Exactly.atLeast (h : Exactly r n) : AtLeast r n := fun bs a rest e => Nat.le_of_eq (h bs a rest e).symm

theorem exactly_pure (a : α) : Exactly (pure a : Reader α) 0 := by
  intro bs b rest h
  cases h
  exact (Nat.zero_add _).symm

theorem exactly_fail (n : Nat) : Exactly (fun _ => none : Reader α) n := fun _ _ _ h => by cases h

theorem atLeast_zero (hr : AtLeast r m) : AtLeast r 0 := fun bs a rest h => by
  have := hr bs a rest h
  omega

theorem Exactly.ite {c : Prop} [Decidable c] {r' : Reader α} (h : Exactly r n) (h' : Exactly r' n) :
    Exactly (if c then r else r') n := by
  split <;> assumption

theorem exactly_readByte : Exactly readByte 1 := by
  intro bs a rest h
  cases bs with
  | nil => cases h
  | cons b bs =>
    cases h
    simp [Nat.add_comm]

theorem exactly_readUintFrom (k acc : Nat) : Exactly (readUintFrom acc k) k := by
  induction k generalizing acc with
  | zero => exact exactly_pure _
  | succ k ih =>
    have h : Exactly (readUintFrom acc (k + 1)) (1 + k) := exactly_readByte.bind fun _ => ih _
    rwa [Nat.add_comm 1 k] at h

theorem exactly_readUint (k : Nat) : Exactly (readUint k) k := exactly_readUintFrom k 0

theorem exactly_readFlag : Exactly readFlag 1 :=
  exactly_readByte.bind fun _ => (exactly_pure _).ite ((exactly_pure _).ite (exactly_fail 0))

theorem exactly_readEnum (k : Nat) : Exactly (readEnum k) 1 :=
  (exactly_readUint 1).bind fun _ => (exactly_pure _).ite (exactly_fail 0)

theorem atLeast_readTimes {k : Nat} (hr : AtLeast r 0) : AtLeast (readTimes r k) 0 := by
  induction k with
  | zero => exact (exactly_pure _).atLeast
  | succ k ih => exact hr.bind fun _ => ih.bind fun _ => (exactly_pure _).atLeast

theorem atLeast_readList (hr : AtLeast r 0) : AtLeast (readList r) 1 :=
  exactly_readByte.atLeast.bind fun _ => atLeast_readTimes hr

theorem atLeast_readNibbles : AtLeast readNibbles 1 :=
  exactly_readByte.atLeast.bind fun _ => (atLeast_readTimes (atLeast_zero exactly_readByte.atLeast)).bind fun _ =>
    (exactly_pure _).atLeast

theorem atLeast_readOptional (hr : AtLeast r 0) : AtLeast (readOptional r) 1 := by
  refine AtLeast.bind (n := 0) exactly_readFlag.atLeast fun p => ?_
  split
  · intro bs a rest h
    rw [Reader.run_map] at h
    obtain ⟨⟨b, mid⟩, hb, he⟩ := Option.map_eq_some_iff.1 h
    cases he
    exact hr _ _ _ hb
  · exact (exactly_pure _).atLeast

theorem readAll_of_exactly (h : Exactly r n) {bs : List Byte} (hb : bs.length ≠ n) : readAll r bs = none := by
  unfold readAll
  split
  next a he => exact absurd (h _ _ _ he) (by simpa using hb)
  next => rfl

theorem readAll_of_atLeast (h : AtLeast r n) {bs : List Byte} (hb : bs.length < n) : readAll r bs = none := by
  unfold readAll
  split
  next a he =>
    have := h _ _ _ he
    simp only [List.length_nil] at this
    omega
  next => rfl

/-- Bytes left over do not fit (R206). -/
theorem readAll_of_rest {bs rest : List Byte} {a : α} (h : r.run bs = some (a, rest)) (hr : rest ≠ []) : readAll r bs = none := by
  unfold readAll
  rw [h]
  cases rest with
  | nil => exact absurd rfl hr
  | cons => rfl

theorem readAll_of_none {bs : List Byte} (h : r.run bs = none) : readAll r bs = none := by simp [readAll, h]

end

/-! ### Frames that change nothing (O14) -/

theorem channelOf_some {n : Nat} {c : ChannelNo} (h : channelOf n = some c) : 2 ≤ n ∧ n ≤ 5 := by
  unfold channelOf index? at h
  split at h
  · split at h
    · omega
    · cases h
  · cases h

/-- A frame outside the table of stations (R203). -/
theorem frameTaken_nothing {f : Frame} (h : ¬(f.dst = 0 ∧ ((f.src = 1 ∧ f.kind = 8) ∨
    (2 ≤ f.src.toNat ∧ f.src.toNat ≤ 5 ∧ (f.kind = 1 ∨ f.kind = 2)) ∨ (f.src = 6 ∧ (f.kind = 3 ∨ f.kind = 7))))) :
    frameTaken f = .nothing := by
  unfold frameTaken
  split
  · rfl
  next hd =>
    have hd := Decidable.not_not.1 hd
    split
    next c hc =>
      have hs := channelOf_some hc
      split
      next hk => exact absurd ⟨hd, .inr (.inl ⟨hs.1, hs.2, .inl hk⟩)⟩ h
      · split
        next hk => exact absurd ⟨hd, .inr (.inl ⟨hs.1, hs.2, .inr hk⟩)⟩ h
        next => rfl
    next =>
      split
      next hk => exact absurd ⟨hd, .inl hk⟩ h
      · split
        next hk => exact absurd ⟨hd, .inr (.inr ⟨hk.1, .inl hk.2⟩)⟩ h
        · split
          next hk => exact absurd ⟨hd, .inr (.inr ⟨hk.1, .inr hk.2⟩)⟩ h
          next => rfl

/-- What a frame of each kind to station 0 is taken as, where it is taken at all. -/
theorem frameTaken_kind (src kind : Byte) (payload : List Byte) (s : State) : dealFrame ⟨0, src, kind, payload⟩ s = s ∨
    (src = 1 ∧ kind = 8 ∧ dealFrame ⟨0, src, kind, payload⟩ s = orderFrame payload s) ∨
    (2 ≤ src.toNat ∧ src.toNat ≤ 5 ∧ kind = 1 ∧ ∃ c, dealFrame ⟨0, src, kind, payload⟩ s = rasterFrame c payload s) ∨
    (2 ≤ src.toNat ∧ src.toNat ≤ 5 ∧ kind = 2 ∧ ∃ c, dealFrame ⟨0, src, kind, payload⟩ s = sheetFrame c payload s) ∨
    (src = 6 ∧ kind = 3 ∧ dealFrame ⟨0, src, kind, payload⟩ s = creditFrame payload s) ∨
    (src = 6 ∧ kind = 7 ∧ dealFrame ⟨0, src, kind, payload⟩ s = statusFrame payload s) := by
  unfold dealFrame frameTaken
  rw [if_neg (by simp)]
  dsimp only
  cases hc : channelOf src.toNat with
  | some c =>
    have hs := channelOf_some hc
    by_cases h1 : kind = 1
    · exact .inr (.inr (.inl ⟨hs.1, hs.2, h1, c, by simp [h1]⟩))
    · by_cases h2 : kind = 2
      · exact .inr (.inr (.inr (.inl ⟨hs.1, hs.2, h2, c, by simp [h2]⟩)))
      · exact .inl (by dsimp only; rw [if_neg h1, if_neg h2])
  | none =>
    by_cases h1 : src = 1 ∧ kind = 8
    · exact .inr (.inl ⟨h1.1, h1.2, by simp [h1]⟩)
    · by_cases h2 : src = 6 ∧ kind = 3
      · exact .inr (.inr (.inr (.inr (.inl ⟨h2.1, h2.2, by simp [h2]⟩))))
      · by_cases h3 : src = 6 ∧ kind = 7
        · exact .inr (.inr (.inr (.inr (.inr ⟨h3.1, h3.2, by simp [h3]⟩))))
        · exact .inl (by dsimp only; rw [if_neg h1, if_neg h2, if_neg h3])

section
variable {src : Byte} {payload : List Byte} (s : State)

theorem dealFrame_order_unfit (h : src ≠ 1 ∨ payload.length < 3) : dealFrame ⟨0, src, 8, payload⟩ s = s := by
  rcases frameTaken_kind src 8 payload s with e | ⟨h1, -, e⟩ | ⟨-, -, h1, -⟩ | ⟨-, -, h1, -⟩ | ⟨-, h1, -⟩ | ⟨-, h1, -⟩
  · exact e
  · rw [e, orderFrame]
    have hl := h.resolve_left (fun hn => hn h1)
    have ho : orderOf payload = none := by
      unfold orderOf
      split
      next =>
        simp only [List.length_cons] at hl
        omega
      next => rfl
    rw [ho]
  all_goals exact absurd h1 (by decide)

theorem dealFrame_raster_unfit (h : payload.length < 3 ∨ ¬(2 ≤ src.toNat ∧ src.toNat ≤ 5)) : dealFrame ⟨0, src, 1, payload⟩ s = s := by
  rcases frameTaken_kind src 1 payload s with e | ⟨-, h1, -⟩ | ⟨h1, h2, -, c, e⟩ | ⟨-, -, h1, -⟩ | ⟨-, h1, -⟩ | ⟨-, h1, -⟩
  · exact e
  · exact absurd h1 (by decide)
  · rw [e, rasterFrame]
    have hl := h.resolve_right (fun hn => hn ⟨h1, h2⟩)
    have ho : readRaster payload = none := by
      unfold readRaster
      split
      next =>
        simp only [List.length_cons] at hl
        omega
      next => rfl
    rw [ho]
  all_goals exact absurd h1 (by decide)

theorem dealFrame_sheet_unfit (h : readAll readSheet payload = none ∨ ¬(2 ≤ src.toNat ∧ src.toNat ≤ 5)) :
    dealFrame ⟨0, src, 2, payload⟩ s = s := by
  rcases frameTaken_kind src 2 payload s with e | ⟨-, h1, -⟩ | ⟨-, -, h1, -⟩ | ⟨h1, h2, -, c, e⟩ | ⟨-, h1, -⟩ | ⟨-, h1, -⟩
  · exact e
  · exact absurd h1 (by decide)
  · exact absurd h1 (by decide)
  · rw [e, sheetFrame, h.resolve_right (fun hn => hn ⟨h1, h2⟩)]
  all_goals exact absurd h1 (by decide)

theorem dealFrame_credit_unfit (h : payload.length ≠ 1 ∨ src ≠ 6) : dealFrame ⟨0, src, 3, payload⟩ s = s := by
  rcases frameTaken_kind src 3 payload s with e | ⟨-, h1, -⟩ | ⟨-, -, h1, -⟩ | ⟨-, -, h1, -⟩ | ⟨h1, -, e⟩ | ⟨-, h1, -⟩
  · exact e
  · exact absurd h1 (by decide)
  · exact absurd h1 (by decide)
  · exact absurd h1 (by decide)
  · rw [e]
    have hl := h.resolve_right (fun hn => hn h1)
    unfold creditFrame
    split
    next => exact absurd rfl hl
    next => rfl
  · exact absurd h1 (by decide)

theorem dealFrame_status_unfit (h : (∀ v, payload = [v] → 1 < v.toNat) ∨ src ≠ 6) : dealFrame ⟨0, src, 7, payload⟩ s = s := by
  rcases frameTaken_kind src 7 payload s with e | ⟨-, h1, -⟩ | ⟨-, -, h1, -⟩ | ⟨-, -, h1, -⟩ | ⟨-, h1, -⟩ | ⟨h1, -, e⟩
  · exact e
  · exact absurd h1 (by decide)
  · exact absurd h1 (by decide)
  · exact absurd h1 (by decide)
  · exact absurd h1 (by decide)
  · rw [e]
    have hl := h.resolve_right (fun hn => hn h1)
    unfold statusFrame
    split
    next v =>
      have hv := hl v rfl
      rw [if_neg (by rintro rfl; simp at hv), if_neg (by rintro rfl; simp at hv)]
    next => rfl

end

/-- The fields behind the kind byte of a SHEET frame (R213). -/
theorem readSheet_run (k : Byte) (bytes : List Byte) : readSheet.run (k :: bytes) =
    (if k = 0 then readSheetStart else if k = 1 then readSheetEnd else if k = 2 then readSheetAbort else fun _ => none).run bytes := by
  unfold readSheet
  rw [Reader.run_bind, readUint_one]
  dsimp only [Option.bind_some]
  split
  next h =>
    rw [if_pos (BitVec.eq_of_toNat_eq h)]
  next h =>
    obtain rfl : k = 1 := BitVec.eq_of_toNat_eq h
    rfl
  next h =>
    obtain rfl : k = 2 := BitVec.eq_of_toNat_eq h
    rfl
  next h0 h1 h2 =>
    rw [if_neg (by rintro rfl; exact h0 rfl), if_neg (by rintro rfl; exact h1 rfl), if_neg (by rintro rfl; exact h2 rfl)]

theorem exactly_readSheetStart : Exactly readSheetStart 4 :=
  (exactly_readUint 1).bind fun _ => (exactly_readUint 2).bind fun _ => (exactly_readUint 1).bind fun _ => exactly_pure _

theorem exactly_readSheetEnd : Exactly readSheetEnd 3 :=
  (exactly_readUint 1).bind fun _ => (exactly_readUint 2).bind fun _ => exactly_pure _

theorem exactly_readSheetAbort : Exactly readSheetAbort 1 := (exactly_readUint 1).bind fun _ => exactly_pure _

theorem readAll_readSheet {k : Byte} {bytes : List Byte} {r : Reader Sheet}
    (hr : readSheet.run (k :: bytes) = r.run bytes) (h : readAll r bytes = none) : readAll readSheet (k :: bytes) = none := by
  unfold readAll at *
  rwa [hr]

/-- With nothing in the checker a frame is dealt with, and that is all. -/
theorem exec_frameDiscarded {s : State} (hs : s.link.bytes = []) (dst src kind : Byte) (payload : List Byte) :
    exec (.frameDiscarded dst src kind payload) s = .next (dealFrame ⟨dst, src, kind, payload⟩ s) := by
  show Host.Outcome.next (dealFrame ⟨dst, src, kind, payload⟩ (checkerIdle s)) = _
  rw [checkerIdle_of_bytes_nil hs]

theorem goodFrame_of_bytes_nil {s : State} (hs : s.link.bytes = []) (src : Byte) (kind : FrameKind) (payload : List Byte) :
    goodFrame src kind payload s = dealFrame ⟨0, src, byteOf kind.code, payload⟩ s := by
  rw [goodFrame, checkerIdle_of_bytes_nil hs]

/-- Settles O14. -/
theorem framesThatChangeNothing : Obligations.FramesThatChangeNothing := by
  intro s hs
  have hgood (src : Byte) (kind : FrameKind) (payload : List Byte) := goodFrame_of_bytes_nil hs src kind payload
  have hdisc := exec_frameDiscarded hs
  have next {t : State} (h : t = s) : (.next t : Host.Outcome State Fault Refusal) = .next s := congrArg _ h
  refine ⟨fun dst src kind payload h => ?_, fun src payload h => ?_, fun src bytes h => ?_, fun src bytes h => ?_, fun src bytes h => ?_,
    fun src payload h => ?_, fun src payload h => ?_, fun src rest h => ⟨?_, ?_⟩, fun src payload h1 h2 => ⟨fun h => ?_, fun h => ?_⟩,
    fun payload => ⟨fun h => ?_, fun h => ?_⟩⟩
  · rw [hdisc, dealFrame, frameTaken_nothing h]
  · exact next ((hgood ..).trans (dealFrame_order_unfit s h))
  · exact next ((hgood ..).trans (dealFrame_sheet_unfit s
      (h.imp_left fun hl => readAll_readSheet (readSheet_run 0 bytes) (readAll_of_exactly exactly_readSheetStart hl))))
  · exact next ((hgood ..).trans (dealFrame_sheet_unfit s
      (h.imp_left fun hl => readAll_readSheet (readSheet_run 1 bytes) (readAll_of_exactly exactly_readSheetEnd hl))))
  · exact next ((hgood ..).trans (dealFrame_sheet_unfit s
      (h.imp_left fun hl => readAll_readSheet (readSheet_run 2 bytes) (readAll_of_exactly exactly_readSheetAbort hl))))
  · exact next ((hgood ..).trans (dealFrame_raster_unfit s h))
  · exact next ((hgood ..).trans (dealFrame_credit_unfit s h))
  · exact next ((hgood ..).trans (dealFrame_status_unfit s (h.imp_left fun hr v hv => absurd (List.cons.inj hv).2 hr)))
  · exact next ((hgood ..).trans (dealFrame_status_unfit s (h.imp_left fun hr v hv => absurd (List.cons.inj hv).2 hr)))
  · rw [hdisc]
    exact next (dealFrame_raster_unfit s (.inl h))
  · rw [hdisc]
    refine next (dealFrame_sheet_unfit s (.inl ?_))
    cases payload with
    | nil => rfl
    | cons k rest =>
      have hk := h k rest rfl
      refine readAll_of_none ((readSheet_run k rest).trans ?_)
      rw [if_neg (by rintro rfl; simp at hk), if_neg (by rintro rfl; simp at hk), if_neg (by rintro rfl; simp at hk)]
      rfl
  · rw [hdisc]
    exact next (dealFrame_credit_unfit s (.inl h))
  · rw [hdisc]
    exact next (dealFrame_status_unfit s (.inl h))

end Sys2Proof.Machine
end

section
/-! PROOFS. The order parser: what an order command is, the answers, the refusals and the malformed lists (O15 to O18). -/

namespace Sys2Proof.Machine

/-! ### An order command -/

/-- An order command is its order, taken by the parser (R205). -/
theorem exec_orderOfCommand {c : Instr} {o : Order} (h : orderOfCommand c = some o) (s : State) :
    exec c s = .next (takeOrder o.code o.tag o.params s) := by
  cases c <;> cases h <;> rfl

/-- The parser leaves a state as it is in which it can take nothing (R205). -/
theorem parse_of_rested {s : State} (h : s.link.rested) : parse s = s := by
  rcases h with h | h | h
  · exact parse_nil h
  · unfold parse
    cases s.link.orders.length with
    | zero => rfl
    | succ n =>
      unfold runParser
      split
      next e rest hi ho => simp [hi] at h
      next => rfl
  · exact parse_full h

/-- An order whose tag waits or is in hand is a repeat and is dropped (R205). -/
theorem Link.intake_waits {k : Link} {o : Order} (h : (∃ p, k.inHand = some p ∧ p.tag = o.tag) ∨ ∃ e ∈ k.orders, e.tag = o.tag) :
    k.intake o = k := by
  unfold Link.intake
  rw [if_pos]
  rw [Bool.or_eq_true]
  rcases h with ⟨p, hp, ht⟩ | ⟨e, he, ht⟩
  · exact .inl (by simp [hp, ht])
  · exact .inr (List.any_eq_true.2 ⟨e, he, by simp [ht]⟩)

theorem Link.intake_last {k : Link} {o : Order} {r : Reply}
    (h : ¬((∃ p, k.inHand = some p ∧ p.tag = o.tag) ∨ ∃ e ∈ k.orders, e.tag = o.tag)) (hl : k.last = some (o.tag, r)) :
    k.intake o = if k.replies.length < 4 then { k with replies := k.replies ++ [r] }
      else if k.orders.length < 4 then { k with orders := k.orders ++ [.again o.tag r] } else k := by
  unfold Link.intake
  rw [if_neg]
  · simp [hl]
  · rw [Bool.or_eq_true, Option.any_eq_true, List.any_eq_true]
    rintro (⟨p, hp, ht⟩ | ⟨e, he, ht⟩)
    · exact h (.inl ⟨p, hp, by simpa using ht⟩)
    · exact h (.inr ⟨e, he, by simpa using ht⟩)

theorem Link.intake_queued {k : Link} {o : Order}
    (h : ¬((∃ p, k.inHand = some p ∧ p.tag = o.tag) ∨ ∃ e ∈ k.orders, e.tag = o.tag)) (hl : ∀ t r, k.last = some (t, r) → t ≠ o.tag) :
    k.intake o = if k.orders.length < 4 then { k with orders := k.orders ++ [.order o] } else k := by
  unfold Link.intake
  rw [if_neg]
  · cases hk : k.last with
    | none => rfl
    | some e => simp [hl e.1 e.2 hk]
  · rw [Bool.or_eq_true, Option.any_eq_true, List.any_eq_true]
    rintro (⟨p, hp, ht⟩ | ⟨e, he, ht⟩)
    · exact h (.inl ⟨p, hp, by simpa using ht⟩)
    · exact h (.inr ⟨e, he, by simpa using ht⟩)

/-! ### An ORDER frame (O15) -/

/-- The tag, the code and the parameters of an ORDER payload are read back (R212). -/
theorem orderOf_uint (tag : Tag) (code : Byte) (params : List Byte) :
    orderOf (uint 2 tag.toNat ++ [code] ++ params) = some ⟨tag, code, params⟩ := by
  have ht : BitVec.ofNat 16 (256 * (tag.toNat / 256 % 256) + tag.toNat % 256) = tag := by
    apply BitVec.eq_of_toNat_eq
    have := tag.isLt
    simp only [BitVec.toNat_ofNat]
    omega
  simp [orderOf, uint, ht]

theorem exec_orderFrame {s : State} (hs : s.link.bytes = []) (tag : Tag) (code : Byte) (params : List Byte) :
    exec (.orderFrame 1 (uint 2 tag.toNat ++ [code] ++ params)) s = .next (takeOrder code tag params s) := by
  show Host.Outcome.next (goodFrame 1 .order (uint 2 tag.toNat ++ [code] ++ params) s) = _
  rw [goodFrame_of_bytes_nil hs]
  show Host.Outcome.next (orderFrame (uint 2 tag.toNat ++ [code] ++ params) s) = _
  rw [orderFrame, orderOf_uint]

theorem takeOrder_of_intake {s : State} {code : Byte} {tag : Tag} {params : List Byte} {k : Link}
    (h : s.link.intake ⟨tag, code, params⟩ = k) (hk : k.rested) : takeOrder code tag params s = { s with link := k } := by
  unfold takeOrder orderIntake
  rw [h]
  exact parse_of_rested (s := { s with link := k }) hk

/-- Settles O15. -/
theorem orderFrameIsTakenOrWaits : Obligations.OrderFrameIsTakenOrWaits := by
  intro s tag code params hs hp run waits
  have hrun : run = .next (takeOrder code tag params s) := exec_orderFrame hs tag code params
  have hlast (e : OrderEntry) (hfull : 4 ≤ s.link.replies.length ∨ s.link.inHand.isSome = true) :
      Link.rested { s.link with orders := s.link.orders ++ [e] } := by
    rcases hfull with h | h
    · exact .inr (.inr h)
    · exact .inr (.inl h)
  refine ⟨fun hw => ?_, fun hw r hr => ?_, fun c hc => ?_, fun hw hl => ⟨fun ho hi hrep hcode => ?_, fun hfull => ?_⟩⟩
  · rw [hrun, takeOrder_of_intake (Link.intake_waits hw) hp]
  · rw [hrun, takeOrder_of_intake (Link.intake_last hw hr)]
    split
    next hlt => exact hp.imp_right fun h => h.imp_right fun h4 => absurd hlt (Nat.not_lt.2 h4)
    next hge =>
      split
      · exact hlast _ (.inl (Nat.le_of_not_lt hge))
      · exact hp
  · rw [hrun, exec_orderOfCommand hc]
  · rw [hrun, takeOrder_reads ⟨hi, ho, hrep, hl⟩ code params (.refused .malformed)]
    rw [ownerOf_badCode]
    · rfl
    · simpa [badCode] using hcode
  · rw [hrun, takeOrder_of_intake (Link.intake_queued hw hl)]
    · split <;> rfl
    · split
      · exact hlast _ hfull.symm
      · exact hp

/-! ### The answer to an order (O16) -/

/-- Settles O16: an owner leaves the parser's queues alone, and the answer joins them. -/
theorem orderIsAnsweredOnce : Obligations.OrderIsAnsweredOnce := by
  intro c o s hc
  refine ⟨fun h => ?_, fun r hi ho hrep hl => ?_⟩
  · obtain ⟨hb, hord, -, hrepl, -⟩ := (Reaches.refl.ownerOf (s := s.handed o) o.code o.params).linkKept
    refine ⟨answerOrder o (ownerOf o.code o.params (s.handed o)), (ownerOf o.code o.params (s.handed o)).2, ?_, ?_, rfl, rfl, hord, hb⟩
    · rw [exec_orderOfCommand hc, takeOrder_taken h]
    · show (ownerOf o.code o.params (s.handed o)).1.link.replies ++ _ = _
      rw [hrepl]
      rfl
  · have hw : ¬((∃ p, s.link.inHand = some p ∧ p.tag = o.tag) ∨ ∃ e ∈ s.link.orders, e.tag = o.tag) := by simp [hi, ho]
    rw [exec_orderOfCommand hc, takeOrder_of_intake (Link.intake_last (o := ⟨o.tag, o.code, o.params⟩) hw hl), if_pos hrep]
    rw [if_pos hrep]
    exact .inl ho

/-! ### Refusals (O17) -/

/-- An owner's result that changes nothing where it is a refusal. -/
def RefusesInPlace (s : State) (r : State × Answer) : Prop := ∀ why, r.2 = .refused why → r.1 = s

@[simp] theorem refusesInPlace_refuse (s : State) (why : RefuseReason) : RefusesInPlace s (refuse why s) := fun _ _ => rfl

@[simp] theorem refusesInPlace_done (s t : State) (bytes : List Byte) : RefusesInPlace s (done bytes t) := fun _ h => by cases h

theorem RefusesInPlace.ite {s : State} {c : Prop} [Decidable c] {r r' : State × Answer} (h : RefusesInPlace s r)
    (h' : RefusesInPlace s r') : RefusesInPlace s (if c then r else r') := by
  split <;> assumption

theorem refusesInPlace_checked {α : Type} {r : Reader α} {own : α → State → State × Answer} {s : State}
    (h : ∀ a, RefusesInPlace s (own a s)) (bs : List Byte) : RefusesInPlace s (checked r own bs s) := by
  unfold checked
  split
  · exact fun _ _ => rfl
  · exact h _

theorem configure_refusesInPlace (s : State) (es : List (Nat × ConfigValue)) : RefusesInPlace s (configure es s) := by
  unfold configure
  (repeat' split) <;> simp only [refusesInPlace_refuse, refusesInPlace_done]

theorem loadRoute_refusesInPlace (s : State) (p : RouteParams) : RefusesInPlace s (loadRoute p s) := by
  unfold loadRoute
  (repeat' split) <;> simp only [refusesInPlace_refuse, refusesInPlace_done]

theorem clearRoute_refusesInPlace (s : State) (n : Nat) : RefusesInPlace s (clearRoute n s) := by
  unfold clearRoute
  (repeat' split) <;> simp only [refusesInPlace_refuse, refusesInPlace_done]

theorem loadDialProfile_refusesInPlace (s : State) (p : Nat × Profile) : RefusesInPlace s (loadDialProfile p s) := by
  unfold loadDialProfile
  (repeat' split) <;> simp only [refusesInPlace_refuse, refusesInPlace_done]

theorem loadGroup_refusesInPlace (s : State) (p : Nat × List (List Nat)) : RefusesInPlace s (loadGroup p s) := by
  unfold loadGroup
  (repeat' split) <;> simp only [refusesInPlace_refuse, refusesInPlace_done]

theorem stageTariff_refusesInPlace (s : State) (es : List TariffEntry) : RefusesInPlace s (stageTariff es s) := by
  unfold stageTariff
  (repeat' split) <;> simp only [refusesInPlace_refuse, refusesInPlace_done]

theorem loadBands_refusesInPlace (s : State) (p : Nat × Nat × List (Nat × Nat)) : RefusesInPlace s (loadBands p s) := by
  unfold loadBands
  (repeat' split) <;> simp only [refusesInPlace_refuse, refusesInPlace_done]

theorem loadDayMap_refusesInPlace (s : State) (ds : List Nat) : RefusesInPlace s (loadDayMap ds s) := by
  unfold loadDayMap
  (repeat' split) <;> simp only [refusesInPlace_refuse, refusesInPlace_done]

theorem setTime_refusesInPlace (s : State) (p : Nat × Nat) : RefusesInPlace s (setTime p s) := by
  unfold setTime
  (repeat' split) <;> simp only [refusesInPlace_refuse, refusesInPlace_done]

theorem setAccount_refusesInPlace (s : State) (p : AccountParams) : RefusesInPlace s (setAccount p s) := by
  unfold setAccount
  (repeat' split) <;> simp only [refusesInPlace_refuse, refusesInPlace_done]

theorem readAccount_refusesInPlace (s : State) (p : Nat × Bool) : RefusesInPlace s (readAccount p s) := by
  unfold readAccount
  (repeat' split) <;> simp only [refusesInPlace_refuse, refusesInPlace_done]

theorem setLineSettings_refusesInPlace (s : State) (p : Nat × LineSettings) : RefusesInPlace s (setLineSettings p s) := by
  unfold setLineSettings
  (repeat' split) <;> simp only [refusesInPlace_refuse, refusesInPlace_done]

theorem retireLine_refusesInPlace (s : State) (n : Nat) : RefusesInPlace s (retireLine n s) := by
  unfold retireLine
  (repeat' split) <;> simp only [refusesInPlace_refuse, refusesInPlace_done]

theorem returnLine_refusesInPlace (s : State) (n : Nat) : RefusesInPlace s (returnLine n s) := by
  unfold returnLine
  (repeat' split) <;> simp only [refusesInPlace_refuse, refusesInPlace_done]

theorem readLine_refusesInPlace (s : State) (n : Nat) : RefusesInPlace s (readLine n s) := by
  unfold readLine
  (repeat' split) <;> simp only [refusesInPlace_refuse, refusesInPlace_done]

theorem openDocument_refusesInPlace (s : State) (n : Nat) : RefusesInPlace s (openDocument n s) := by
  unfold openDocument
  (repeat' split) <;> simp only [refusesInPlace_refuse, refusesInPlace_done]

theorem closeDocument_refusesInPlace (s : State) (n : Nat) : RefusesInPlace s (closeDocument n s) := by
  unfold closeDocument
  (repeat' split) <;> simp only [refusesInPlace_refuse, refusesInPlace_done]

theorem replacePage_refusesInPlace (s : State) (p : Nat × Nat) : RefusesInPlace s (replacePage p s) := by
  unfold replacePage
  dsimp only
  (repeat' split) <;> simp only [refusesInPlace_refuse, refusesInPlace_done]

theorem releaseDocument_refusesInPlace (s : State) (n : Nat) : RefusesInPlace s (releaseDocument n s) := by
  unfold releaseDocument
  (repeat' split) <;> simp only [refusesInPlace_refuse, refusesInPlace_done]

theorem readDocument_refusesInPlace (s : State) (p : Nat × Nat) : RefusesInPlace s (readDocument p s) := by
  unfold readDocument
  (repeat' split) <;> simp only [refusesInPlace_refuse, refusesInPlace_done]

theorem submitChecked_refusesInPlace (s : State) (p : SendParams) (d : Fin 64) (account : Fin 64) (ns : List Number) :
    RefusesInPlace s (submitChecked p d account ns s) := by
  unfold submitChecked
  (repeat' split) <;> simp only [refusesInPlace_refuse, refusesInPlace_done]

theorem submitSend_refusesInPlace (s : State) (p : SendParams) : RefusesInPlace s (submitSend p s) := by
  unfold submitSend
  (repeat' split) <;> simp only [refusesInPlace_refuse, submitChecked_refusesInPlace]

theorem submitPrint_refusesInPlace (s : State) (p : Nat × Nat × Nat) : RefusesInPlace s (submitPrint p s) := by
  unfold submitPrint
  (repeat' split) <;> simp only [refusesInPlace_refuse, refusesInPlace_done]

theorem cancelJob_refusesInPlace (s : State) (n : Nat) : RefusesInPlace s (cancelJob n s) := by
  unfold cancelJob
  (repeat' split) <;> simp only [refusesInPlace_refuse, refusesInPlace_done]

theorem readJob_refusesInPlace (s : State) (p : Nat × Nat) : RefusesInPlace s (readJob p s) := by
  unfold readJob
  (repeat' split) <;> simp only [refusesInPlace_refuse, refusesInPlace_done]

theorem applyTariff_refusesInPlace (s : State) (n : Unit) : RefusesInPlace s (applyTariff n s) := by
  unfold applyTariff
  exact refusesInPlace_done s _ _

theorem takeRecords_refusesInPlace (s : State) (n : Nat) : RefusesInPlace s (takeRecords n s) := by
  unfold takeRecords
  exact refusesInPlace_done s _ _

theorem restartOrder_refusesInPlace (s : State) (n : Unit) : RefusesInPlace s (restartOrder n s) := by
  unfold restartOrder
  exact refusesInPlace_done s _ _

/-- Every owner's refusal changes nothing (R206). -/
theorem ownerOf_refusesInPlace (s : State) (code : Byte) (bs : List Byte) : RefusesInPlace s (ownerOf code bs s) := by
  refine ownerOf_forall (P := fun own => RefusesInPlace s (own bs s)) (fun k hk => ?_) code
  match k, hk with
  | 0, _ => exact refusesInPlace_refuse s _
  | 1, _ => exact refusesInPlace_checked (fun _ => configure_refusesInPlace s _) bs
  | 2, _ => exact refusesInPlace_checked (fun _ => loadRoute_refusesInPlace s _) bs
  | 3, _ => exact refusesInPlace_checked (fun _ => clearRoute_refusesInPlace s _) bs
  | 4, _ => exact refusesInPlace_checked (fun _ => loadDialProfile_refusesInPlace s _) bs
  | 5, _ => exact refusesInPlace_checked (fun _ => loadGroup_refusesInPlace s _) bs
  | 6, _ => exact refusesInPlace_checked (fun _ => stageTariff_refusesInPlace s _) bs
  | 7, _ => exact refusesInPlace_checked (fun _ => applyTariff_refusesInPlace s _) bs
  | 8, _ => exact refusesInPlace_checked (fun _ => loadBands_refusesInPlace s _) bs
  | 9, _ => exact refusesInPlace_checked (fun _ => loadDayMap_refusesInPlace s _) bs
  | 10, _ => exact refusesInPlace_checked (fun _ => setTime_refusesInPlace s _) bs
  | 11, _ => exact refusesInPlace_checked (fun _ => refusesInPlace_done s _ _) bs
  | 12, _ => exact refusesInPlace_checked (fun _ => setAccount_refusesInPlace s _) bs
  | 13, _ => exact refusesInPlace_checked (fun _ => readAccount_refusesInPlace s _) bs
  | 14, _ => exact refusesInPlace_checked (fun _ => takeRecords_refusesInPlace s _) bs
  | 15, _ => exact refusesInPlace_checked (fun _ => setLineSettings_refusesInPlace s _) bs
  | 16, _ => exact refusesInPlace_checked (fun _ => retireLine_refusesInPlace s _) bs
  | 17, _ => exact refusesInPlace_checked (fun _ => returnLine_refusesInPlace s _) bs
  | 18, _ => exact refusesInPlace_checked (fun _ => readLine_refusesInPlace s _) bs
  | 19, _ => exact refusesInPlace_checked (fun _ => openDocument_refusesInPlace s _) bs
  | 20, _ => exact refusesInPlace_checked (fun _ => closeDocument_refusesInPlace s _) bs
  | 21, _ => exact refusesInPlace_checked (fun _ => replacePage_refusesInPlace s _) bs
  | 22, _ => exact refusesInPlace_checked (fun _ => releaseDocument_refusesInPlace s _) bs
  | 23, _ => exact refusesInPlace_checked (fun _ => readDocument_refusesInPlace s _) bs
  | 24, _ => exact refusesInPlace_checked (fun _ => submitSend_refusesInPlace s _) bs
  | 25, _ => exact refusesInPlace_checked (fun _ => submitPrint_refusesInPlace s _) bs
  | 26, _ => exact refusesInPlace_checked (fun _ => cancelJob_refusesInPlace s _) bs
  | 27, _ => exact refusesInPlace_checked (fun _ => readJob_refusesInPlace s _) bs
  | 28, _ => exact refusesInPlace_checked (fun _ => refusesInPlace_done s _ _) bs
  | 29, _ => exact refusesInPlace_checked (fun _ => restartOrder_refusesInPlace s _) bs
  | n + 30, hn => exact absurd hn (by omega)

/-- Settles O17. -/
theorem refusedOrderChangesNothing : Obligations.RefusedOrderChangesNothing := by
  intro c o s t why hc h he hl
  rw [exec_orderOfCommand hc, takeOrder_taken h] at he
  obtain rfl := Host.Outcome.next.inj he
  have hans : (ownerOf o.code o.params (s.handed o)).2 = .refused why := by
    have hl' := Option.some.inj hl
    simp only [Prod.mk.injEq, Reply.mk.injEq] at hl'
    exact hl'.2.2.2
  have hstate := ownerOf_refusesInPlace (s.handed o) o.code o.params why hans
  have hr : ownerOf o.code o.params (s.handed o) = (s.handed o, .refused why) := Prod.ext hstate hans
  show answerOrder o (ownerOf o.code o.params (s.handed o)) = _
  rw [hr]
  exact answerOrder_handed h o.code o.params _

/-! ### Lists of the wrong length (O18) -/

section
variable {s : State} {tag : Tag} {bs : List Byte} {α : Type} {r : Reader α} {own : α → State → State × Answer} {n : Nat}

theorem takeOrder_exactly (h : s.takesOrder tag) (code : Byte) (hc : ownerOf code = checked r own) (hr : Exactly r n)
    (hb : bs.length ≠ n) : takeOrder code tag bs s = s.replied tag code (.refused .malformed) :=
  takeOrder_malformed h code r own bs hc (readAll_of_exactly hr hb)

theorem takeOrder_atLeast (h : s.takesOrder tag) (code : Byte) (hc : ownerOf code = checked r own) (hr : AtLeast r n)
    (hb : bs.length < n) : takeOrder code tag bs s = s.replied tag code (.refused .malformed) :=
  takeOrder_malformed h code r own bs hc (readAll_of_atLeast hr hb)

theorem takeOrder_rest (h : s.takesOrder tag) (code : Byte) (hc : ownerOf code = checked r own) {a : α} {rest : List Byte}
    (hr : r.run bs = some (a, rest)) (hb : rest ≠ []) : takeOrder code tag bs s = s.replied tag code (.refused .malformed) :=
  takeOrder_malformed h code r own bs hc (readAll_of_rest hr hb)

end

theorem exactly_readNothing : Exactly readNothing 0 := exactly_pure ()

theorem exactly_readPair : Exactly readPair 2 := (exactly_readUint 1).bind fun _ => (exactly_readUint 1).bind fun _ => exactly_pure _

theorem exactly_readZeroing : Exactly readZeroing 2 := (exactly_readUint 1).bind fun _ => exactly_readFlag.bind fun _ => exactly_pure _

theorem exactly_readPrint : Exactly readPrint 3 :=
  (exactly_readUint 1).bind fun _ => (exactly_readUint 1).bind fun _ => (exactly_readUint 1).bind fun _ => exactly_pure _

theorem exactly_readClock : Exactly readClock 4 := (exactly_readUint 3).bind fun _ => (exactly_readUint 1).bind fun _ => exactly_pure _

theorem exactly_readSettings : Exactly readSettings 5 :=
  (exactly_readUint 1).bind fun _ => (exactly_readUint 1).bind fun _ => (exactly_readUint 1).bind fun _ =>
    exactly_readFlag.bind fun _ => (exactly_readUint 1).bind fun _ => exactly_pure _

theorem exactly_readAccountParams : Exactly readAccountParams 6 :=
  (exactly_readUint 1).bind fun _ => (exactly_readUint 3).bind fun _ => (exactly_readEnum 2).bind fun _ =>
    exactly_readFlag.bind fun _ => exactly_pure _

theorem exactly_readProfile : Exactly readProfile 19 :=
  (exactly_readUint 1).bind fun _ => (exactly_readEnum 2).bind fun _ => (exactly_readUint 1).bind fun _ =>
    (exactly_readUint 1).bind fun _ => (exactly_readUint 1).bind fun _ => (exactly_readUint 1).bind fun _ =>
    (exactly_readUint 1).bind fun _ => (exactly_readUint 2).bind fun _ => (exactly_readUint 2).bind fun _ =>
    (exactly_readUint 2).bind fun _ => (exactly_readUint 2).bind fun _ => (exactly_readUint 2).bind fun _ =>
    (exactly_readUint 2).bind fun _ => exactly_pure _

theorem Exactly.readTimes {α : Type} {r : Reader α} {n : Nat} (hr : Exactly r n) (k : Nat) : Exactly (readTimes r k) (n * k) := by
  induction k with
  | zero => exact exactly_pure _
  | succ k ih =>
    have h : Exactly (Machine.readTimes r (k + 1)) (n + (n * k + 0)) := hr.bind fun _ => ih.bind fun _ => exactly_pure _
    have e : n + (n * k + 0) = n * (k + 1) := by rw [Nat.mul_succ]; omega
    rwa [e] at h

theorem exactly_readDays : Exactly readDays 7 := (exactly_readUint 1).readTimes 7

theorem AtLeast.map {α β : Type} {r : Reader α} {n : Nat} (hr : AtLeast r n) (f : α → β) : AtLeast (f <$> r) n := by
  intro bs b rest h
  rw [Reader.run_map, Option.map_eq_some_iff] at h
  obtain ⟨⟨a, mid⟩, ha, he⟩ := h
  cases he
  exact hr _ _ _ ha

theorem atLeast_readConfigValue (id : Nat) : AtLeast (readConfigValue id) 0 := by
  unfold readConfigValue
  split
  · exact (atLeast_zero (exactly_readUint 2).atLeast).map _
  · exact (atLeast_zero (exactly_readUint 1).atLeast).map _
  · exact (atLeast_zero atLeast_readNibbles).map _
  · exact (atLeast_zero (exactly_readUint 1).atLeast).map _
  · exact (atLeast_zero (exactly_readUint 2).atLeast).map _
  · exact (atLeast_zero (exactly_readUint 1).atLeast).map _
  · exact (atLeast_zero (exactly_readUint 2).atLeast).map _
  · exact (atLeast_zero (exactly_readFlag).atLeast).map _
  · exact (atLeast_zero (exactly_readFlag).atLeast).map _
  · exact (atLeast_zero (exactly_readUint 1).atLeast).map _
  · exact (atLeast_zero (atLeast_readList (atLeast_zero exactly_readByte.atLeast))).map _
  · exact (atLeast_zero (exactly_readUint 1).atLeast).map _
  · exact (atLeast_zero (exactly_readUint 1).atLeast).map _
  · exact (atLeast_zero (exactly_readUint 2).atLeast).map _
  · exact (atLeast_zero (exactly_readUint 2).atLeast).map _
  · exact (atLeast_zero (exactly_readUint 2).atLeast).map _
  · exact (atLeast_zero (exactly_readUint 2).atLeast).map _
  · exact (atLeast_zero (exactly_readUint 2).atLeast).map _
  · exact (atLeast_zero (exactly_readUint 2).atLeast).map _
  · exact (atLeast_zero ((exactly_readUint 2).bind fun _ => exactly_pure _).atLeast).map _
  · exact (exactly_fail 0).atLeast

theorem atLeast_readConfigItem : AtLeast readConfigItem 0 :=
  atLeast_zero ((exactly_readUint 1).atLeast.bind fun id => (atLeast_readConfigValue id).bind fun _ => (exactly_pure _).atLeast)

theorem exactly_readTariffEntry : Exactly readTariffEntry 6 :=
  (exactly_readUint 1).bind fun _ => (exactly_readUint 1).bind fun _ => (exactly_readUint 2).bind fun _ =>
    (exactly_readUint 1).bind fun _ => (exactly_readUint 1).bind fun _ => exactly_pure _

theorem exactly_readPoint : Exactly readPoint 4 := (exactly_readUint 3).bind fun _ => (exactly_readUint 1).bind fun _ => exactly_pure _

theorem atLeast_readGroup : AtLeast readGroup 2 :=
  (exactly_readUint 1).atLeast.bind fun _ => (atLeast_readList (atLeast_zero atLeast_readNibbles)).bind fun _ => (exactly_pure _).atLeast

theorem atLeast_readBands : AtLeast readBands 3 :=
  (exactly_readUint 1).atLeast.bind fun _ => (exactly_readUint 1).atLeast.bind fun _ =>
    (atLeast_readList (atLeast_zero exactly_readPoint.atLeast)).bind fun _ => (exactly_pure _).atLeast

theorem atLeast_readRoute : AtLeast readRoute 9 :=
  have one := atLeast_readOptional (atLeast_zero (exactly_readUint 1).atLeast)
  (exactly_readUint 1).atLeast.bind fun _ => atLeast_readNibbles.bind fun _ => exactly_readFlag.atLeast.bind fun _ =>
    one.bind fun _ => one.bind fun _ => (atLeast_readOptional (atLeast_zero atLeast_readNibbles)).bind fun _ =>
    (atLeast_readOptional (atLeast_zero (atLeast_readList (atLeast_zero (exactly_readUint 1).atLeast)))).bind fun _ =>
    one.bind fun _ => one.bind fun _ => (exactly_pure _).atLeast

theorem atLeast_readSend : AtLeast readSend 9 :=
  (exactly_readUint 1).atLeast.bind fun _ => (exactly_readUint 1).atLeast.bind fun _ => (exactly_readUint 1).atLeast.bind fun _ =>
    (exactly_readUint 1).atLeast.bind fun _ => (exactly_readUint 2).atLeast.bind fun _ => (exactly_readEnum 2).atLeast.bind fun _ =>
    (atLeast_readList (atLeast_zero atLeast_readNibbles)).bind fun _ =>
    (atLeast_readOptional (atLeast_zero (exactly_readUint 1).atLeast)).bind fun _ => (exactly_pure _).atLeast

/-! #### Bytes left over after an empty list -/

@[simp] theorem readList_zero {α : Type} (r : Reader α) (bs : List Byte) : (readList r).run (0 :: bs) = some ([], bs) := rfl

@[simp] theorem readNibbles_zero (bs : List Byte) : readNibbles.run (0 :: bs) = some ([], bs) := rfl

@[simp] theorem readFlag_zero (bs : List Byte) : readFlag.run (0 :: bs) = some (false, bs) := rfl

theorem readGroup_zero (a : Byte) (bs : List Byte) : readGroup.run (a :: 0 :: bs) = some ((a.toNat, []), bs) := by
  unfold readGroup
  simp only [Reader.run_bind, readUint_one, Option.bind_some, readList_zero, Reader.run_pure]

theorem readBands_zero (a b : Byte) (bs : List Byte) : readBands.run (a :: b :: 0 :: bs) = some ((a.toNat, b.toNat, []), bs) := by
  unfold readBands
  simp only [Reader.run_bind, readUint_one, Option.bind_some, readList_zero, Reader.run_pure]

theorem readRoute_zero (a : Byte) (bs : List Byte) :
    ∃ p, readRoute.run ([a, 0, 1, 0, 0, 0, 0, 0, 0] ++ bs) = some (p, bs) := by
  refine ⟨⟨a.toNat, [], true, none, none, none, none, none, none⟩, ?_⟩
  have hflag (rest : List Byte) : readFlag.run (1 :: rest) = some (true, rest) := rfl
  have hopt {α : Type} (r : Reader α) (rest : List Byte) : (readOptional r).run (0 :: rest) = some (none, rest) := rfl
  unfold readRoute
  simp only [List.cons_append, List.nil_append, Reader.run_bind, readUint_one, Option.bind_some, readNibbles_zero, hflag, hopt,
    Reader.run_pure]

theorem readSend_zero (a b c d e f : Byte) (bs : List Byte) :
    ∃ p, readSend.run ([a, b, c, d, e, f, 0, 0, 0] ++ bs) = some (p, bs) := by
  obtain ⟨delay, hdelay⟩ : ∃ n, (readUint 2).run (e :: f :: 0 :: 0 :: 0 :: bs) = some (n, 0 :: 0 :: 0 :: bs) := ⟨_, rfl⟩
  have hpolicy (rest : List Byte) : (readEnum 2).run (0 :: rest) = some (0, rest) := rfl
  have hopt {α : Type} (r : Reader α) (rest : List Byte) : (readOptional r).run (0 :: rest) = some (none, rest) := rfl
  refine ⟨⟨a.toNat, b.toNat, c.toNat, d.toNat, delay, 0, [], none⟩, ?_⟩
  unfold readSend
  simp only [List.cons_append, List.nil_append, Reader.run_bind, readUint_one, Option.bind_some, hdelay, hpolicy, readList_zero, hopt,
    Reader.run_pure]

/-- Settles O18: a list of the wrong length does not fit its order's reader, which is exact or takes at least so many bytes. -/
theorem misformedOrderIsMalformed : Obligations.MisformedOrderIsMalformed := by
  intro s tag bs h no
  have ok (code : Byte) {t : State} (e : t = s.replied tag code (.refused .malformed)) :
      (.next t : Host.Outcome State Fault Refusal) = no code := congrArg _ e
  refine ⟨fun code hc => ?_, fun hb => ?_, fun hb => ?_, fun hb => ?_, fun hb => ?_, fun hb => ?_, fun hb => ?_, fun hb => ?_,
    fun hb => ?_, fun hb => ?_, fun hb => ?_, fun hb => ?_, fun hb => ?_, fun hb => ?_, fun hb => ?_⟩
  · have hbad : badCode code = true := by simpa [badCode] using hc
    have hown : ownerOf code = fun _ => refuse .malformed := ownerOf_badCode hbad
    show execOrderBadCode tag code bs s = _
    unfold execOrderBadCode
    rw [if_pos hbad]
    exact ok code (takeOrder_reads h code bs _ (by rw [hown]; rfl))
  · have len : bs.length ≠ 0 := fun e => hb (List.length_eq_zero_iff.mp e)
    exact ⟨ok 7 (takeOrder_exactly h 7 rfl exactly_readNothing len), ok 11 (takeOrder_exactly h 11 rfl exactly_readNothing len),
      ok 28 (takeOrder_exactly h 28 rfl exactly_readNothing len), ok 29 (takeOrder_exactly h 29 rfl exactly_readNothing len)⟩
  · have one (code : Byte) {own} (hown : ownerOf code = checked (readUint 1) own) :=
      ok code (takeOrder_exactly h code hown (exactly_readUint 1) hb)
    exact ⟨one 3 rfl, one 14 rfl, one 16 rfl, one 17 rfl, one 18 rfl, one 19 rfl, one 20 rfl, one 22 rfl, one 26 rfl⟩
  · exact ⟨ok 13 (takeOrder_exactly h 13 rfl exactly_readZeroing hb), ok 21 (takeOrder_exactly h 21 rfl exactly_readPair hb),
      ok 23 (takeOrder_exactly h 23 rfl exactly_readPair hb), ok 27 (takeOrder_exactly h 27 rfl exactly_readPair hb)⟩
  · exact ok 25 (takeOrder_exactly h 25 rfl exactly_readPrint hb)
  · exact ok 10 (takeOrder_exactly h 10 rfl exactly_readClock hb)
  · exact ok 15 (takeOrder_exactly h 15 rfl exactly_readSettings hb)
  · exact ok 12 (takeOrder_exactly h 12 rfl exactly_readAccountParams hb)
  · exact ok 9 (takeOrder_exactly h 9 rfl exactly_readDays hb)
  · exact ok 4 (takeOrder_exactly h 4 rfl exactly_readProfile hb)
  · exact ⟨ok 1 (takeOrder_atLeast h 1 rfl (atLeast_readList atLeast_readConfigItem) hb),
      ok 6 (takeOrder_atLeast h 6 rfl (atLeast_readList (atLeast_zero exactly_readTariffEntry.atLeast)) hb)⟩
  · exact ok 5 (takeOrder_atLeast h 5 rfl atLeast_readGroup hb)
  · exact ok 8 (takeOrder_atLeast h 8 rfl atLeast_readBands hb)
  · exact ⟨ok 2 (takeOrder_atLeast h 2 rfl atLeast_readRoute hb), ok 24 (takeOrder_atLeast h 24 rfl atLeast_readSend hb)⟩
  · refine ⟨ok 1 (takeOrder_rest h 1 rfl (readList_zero _ bs) hb), ok 6 (takeOrder_rest h 6 rfl (readList_zero _ bs) hb),
      fun a b => ⟨ok 5 (takeOrder_rest h 5 rfl (readGroup_zero a bs) hb), ok 8 (takeOrder_rest h 8 rfl (readBands_zero a b bs) hb), ?_⟩,
      fun a b c d e f => ?_⟩
    · obtain ⟨p, hp⟩ := readRoute_zero a bs
      exact ok 2 (takeOrder_rest h 2 rfl hp hb)
    · obtain ⟨p, hp⟩ := readSend_zero a b c d e f bs
      exact ok 24 (takeOrder_rest h 24 rfl hp hb)

end Sys2Proof.Machine
end

section
/-! PROOFS. The orders on the tables: the parameters of each read back, and what its owner stores (O19 to O23). -/

namespace Sys2Proof.Machine

/-! ### An order whose parameters fit and whose owner leaves the link alone -/

theorem takeOrder_done {α : Type} {s s' : State} {tag : Tag} (h : s.takesOrder tag) {code : Byte} {params : List Byte} {r : Reader α}
    {own : α → State → State × Answer} {a : α} {ans : Answer} (hc : ownerOf code = checked r own)
    (hr : ∀ rest, r.run (params ++ rest) = some (a, rest))
    (hown : own a (s.handed ⟨tag, code, params⟩) = (s'.handed ⟨tag, code, params⟩, ans)) (hl : s'.link = s.link) :
    takeOrder code tag params s = s'.replied tag code ans := by
  have h' : s'.takesOrder tag := by unfold State.takesOrder; rwa [hl]
  rw [takeOrder_taken h, hc, checked_some (readAll_of_run hr), hown, answerOrder_handed h']

/-- The same for an order whose owner changes nothing. -/
theorem takeOrder_answered {α : Type} {s : State} {tag : Tag} (h : s.takesOrder tag) {code : Byte} {params : List Byte} {r : Reader α}
    {own : α → State → State × Answer} {a : α} {ans : Answer} (hc : ownerOf code = checked r own)
    (hr : ∀ rest, r.run (params ++ rest) = some (a, rest))
    (hown : own a (s.handed ⟨tag, code, params⟩) = (s.handed ⟨tag, code, params⟩, ans)) :
    takeOrder code tag params s = s.replied tag code ans := takeOrder_done h hc hr hown rfl

theorem readUint_one_uint {n : Nat} (h : n < 256) (rest : List Byte) : (readUint 1).run (uint 1 n ++ rest) = some (n, rest) :=
  readUint_uint 1 n h rest

/-! ### CONFIGURE (R207) -/

theorem configure_one {e : Nat × ConfigValue} (hs : e.2.badSymbol = false) (ho : outOfRangeItem e = false) (s : State) :
    configure [e] s = done (s.cfg.with e).bytes (putConfig (s.cfg.with e) s) := by
  simp [configure, namedTwice, hs, ho]

theorem readConfig_one {id : Byte} {item : List Byte} {v : ConfigValue} (h : ∀ rest, (readConfigValue id.toNat).run (item ++ rest) = some (v, rest))
    (rest : List Byte) : (readList readConfigItem).run ((1 :: id :: item) ++ rest) = some ([(id.toNat, v)], rest) := by
  have hitem (rest' : List Byte) : readConfigItem.run ((id :: item) ++ rest') = some ((id.toNat, v), rest') := by
    unfold readConfigItem
    simp only [List.cons_append, Reader.run_bind, readUint_one, Option.bind_some, h, Reader.run_pure]
  have hlist := readList_listOf (r := readConfigItem) (w := fun _ : Unit => id :: item) (v := fun _ => (id.toNat, v)) [()] (by decide)
    (fun _ _ => hitem) rest
  rwa [show listOf (fun _ : Unit => id :: item) [()] = 1 :: id :: item by simp [listOf, byteOf]] at hlist

@[simp] theorem restartedTicks_same (old ticks : Table Nat 6) : restartedTicks old old ticks = ticks := by
  simp [restartedTicks]

@[simp] theorem restartedAccumulator_same (c : Int) (a : Nat) : restartedAccumulator c c a = a := by
  simp [restartedAccumulator]

theorem restartedTicks_store (old ticks : Table Nat 6) (k : Fin 6) (n : Nat) :
    restartedTicks old (store old k n) ticks = if fetch old k = n then ticks else store ticks k 0 := by
  have step (i : Fin 6) (t : Table Nat 6) :
      (if fetch old i = fetch (store old k n) i then t else store t i 0) = if i = k ∧ fetch old k ≠ n then store t k 0 else t := by
    by_cases hi : i = k
    · subst hi
      simp [ite_not]
    · simp [hi]
  have fold : ∀ (l : List (Fin 6)) (t : Table Nat 6), l.foldl (fun t i => if fetch old i = fetch (store old k n) i then t else store t i 0) t
      = if k ∈ l ∧ fetch old k ≠ n then store t k 0 else t := by
    intro l
    induction l with
    | nil => intro t; simp
    | cons i l ih =>
      intro t
      rw [List.foldl_cons, ih, step]
      by_cases hn : fetch old k = n
      · simp [hn]
      · by_cases hi : i = k
        · subst hi
          simp [hn]
        · simp [hn, hi, Ne.symm hi]
  unfold restartedTicks
  rw [fold]
  simp [indices, List.mem_finRange, ite_not]

/-- New values that are stored without the end of a stall (R207, R26). -/
theorem putConfig_eq {c : Configuration} {s : State} (h : s.cfg.reserve < s.store.freeCount ∨ s.store.freeCount ≤ c.reserve) :
    putConfig c s = { s with
      cfg := c, ticks := restartedTicks s.cfg.periods c.periods s.ticks,
      clock := { s.clock with accumulator := restartedAccumulator s.cfg.correction c.correction s.clock.accumulator } } := by
  have h' : ¬(s.store.freeCount ≤ s.cfg.reserve ∧ c.reserve < s.store.freeCount) := by omega
  unfold putConfig
  exact if_neg h'

theorem configure_nil (s : State) : configure [] s = (s, .done s.cfg.bytes) := by
  refine Prod.ext ((putConfig_eq (Nat.lt_or_ge _ _)).trans ?_) rfl
  rw [restartedTicks_same, restartedAccumulator_same]

/-- One named value: what reading its item back gives, and what the values become. -/
theorem exec_configure_one {s : State} {tag : Tag} (h : s.takesOrder tag) {id : Byte} {item : List Byte} {v : ConfigValue}
    {c : Configuration} (hr : ∀ rest, (readConfigValue id.toNat).run (item ++ rest) = some (v, rest)) (hs : v.badSymbol = false)
    (ho : outOfRangeItem (id.toNat, v) = false) (hc : s.cfg.with (id.toNat, v) = c)
    (hfree : s.cfg.reserve < s.store.freeCount ∨ s.store.freeCount ≤ c.reserve) :
    exec (.configure tag (1 :: id :: item)) s = .next (({ s with
      cfg := c, ticks := restartedTicks s.cfg.periods c.periods s.ticks,
      clock := { s.clock with accumulator := restartedAccumulator s.cfg.correction c.correction s.clock.accumulator } }).replied tag 1
        (.done c.bytes)) := by
  subst hc
  refine congrArg Host.Outcome.next (takeOrder_done h ownerOf_1 (readConfig_one hr) ?_ rfl)
  exact (configure_one hs ho _).trans (congrArg (done _) (putConfig_eq (s := s.handed _) hfree))

theorem clamp_eq {lo hi n : Nat} : clamp lo hi n = max lo (min hi n) := rfl

theorem Symbol.nibbles_good (n : Number) : (ConfigValue.symbols (n.map Symbol.nibble)).badSymbol = false := by
  simp [ConfigValue.badSymbol]

theorem readInt16_int16 {c : Int} (h1 : -32768 ≤ c) (h2 : c ≤ 32767) (rest : List Byte) :
    readInt16.run (int16 c ++ rest) = some (c, rest) := by
  have hc : (BitVec.ofInt 16 c).toInt = c := by
    rw [BitVec.toInt_ofInt]
    exact Int.bmod_eq_of_le (by omega) (by omega)
  unfold readInt16 int16
  rw [Reader.run_bind, readUint_uint 2 _ (BitVec.ofInt 16 c).isLt, Option.bind_some, Reader.run_pure, BitVec.ofNat_toNat,
    BitVec.setWidth_eq, hc]

/-- Settles O19, value by value. -/
theorem configureStoresValues : Obligations.ConfigureStoresValues := by
  intro s tag h stored
  have free : s.cfg.reserve < s.store.freeCount ∨ s.store.freeCount ≤ s.cfg.reserve := Nat.lt_or_ge _ _
  have count (id : Byte) (k n : Nat) (hn : n < 2 ^ (8 * k)) (hv : readConfigValue id.toNat = .count <$> readUint k) (rest : List Byte) :
      (readConfigValue id.toNat).run (uint k n ++ rest) = some (.count n, rest) := by
    rw [hv, Reader.run_map, readUint_uint k n hn]
    rfl
  have byte (id : Byte) (n : Byte) (hv : readConfigValue id.toNat = .count <$> readUint 1) (rest : List Byte) :
      (readConfigValue id.toNat).run ([n] ++ rest) = some (.count n.toNat, rest) := by
    rw [hv, Reader.run_map, List.singleton_append, readUint_one]
    rfl
  have yes (id : Byte) (b : Bool) (hv : readConfigValue id.toNat = .yesNo <$> readFlag) (rest : List Byte) :
      (readConfigValue id.toNat).run (flag b ++ rest) = some (.yesNo b, rest) := by
    rw [hv, Reader.run_map, readFlag_flag]
    rfl
  have plain {id : Byte} {item : List Byte} {v : ConfigValue} {c : Configuration}
      (hr : ∀ rest, (readConfigValue id.toNat).run (item ++ rest) = some (v, rest)) (hs : v.badSymbol = false)
      (ho : outOfRangeItem (id.toNat, v) = false) (hc : s.cfg.with (id.toNat, v) = c) (hreserve : c.reserve = s.cfg.reserve)
      (hperiods : c.periods = s.cfg.periods) (hcorrection : c.correction = s.cfg.correction) :
      stored (id :: item) { s with cfg := c } := by
    have := exec_configure_one h hr hs ho hc (by rw [hreserve]; exact free)
    simp only [hperiods, hcorrection, restartedTicks_same, restartedAccumulator_same] at this
    exact this
  refine ⟨?_, fun n hn hfree => ?_, fun n => ?_, fun n hn => ?_, fun n => ?_, fun n hn => ?_, fun n => ?_, fun w hw => ?_, fun b => ⟨?_, ?_⟩,
    fun n => ?_, fun n hn => ?_, fun n => ⟨?_, ?_⟩, fun k n hn => ?_, fun c h1 h2 => ?_⟩
  · exact congrArg Host.Outcome.next (takeOrder_answered h ownerOf_1 (a := []) (readList_zero _) (configure_nil _))
  · have := exec_configure_one h (c := { s.cfg with reserve := min 4095 n }) (count 1 2 n hn rfl) rfl rfl
      (by rw [← Nat.zero_max (min 4095 n)]; rfl) hfree
    simp only [restartedTicks_same, restartedAccumulator_same] at this
    exact this
  · exact plain (byte 2 n rfl) rfl rfl rfl rfl rfl rfl
  · refine plain (id := 3) (v := .symbols (n.map Symbol.nibble)) (fun rest => ?_) (Symbol.nibbles_good n) (by simp [outOfRangeItem, hn]) ?_ rfl rfl rfl
    · show (ConfigValue.symbols <$> readNibbles).run _ = _
      rw [Reader.run_map, readNibbles_symbols n (by omega)]
      rfl
    · show { s.cfg with ownNumber := (numberOf (n.map Symbol.nibble)).getD [] } = _
      rw [numberOf_nibbles]
      rfl
  · exact plain (byte 4 n rfl) rfl rfl rfl rfl rfl rfl
  · exact plain (count 5 2 n hn rfl) rfl rfl rfl rfl rfl rfl
  · exact plain (byte 6 n rfl) rfl rfl rfl rfl rfl rfl
  · exact plain (count 7 2 w (by omega) rfl) rfl (by simp [outOfRangeItem, isWidth, hw]) rfl rfl rfl rfl
  · exact plain (yes 8 b rfl) rfl rfl rfl rfl rfl rfl
  · exact plain (yes 9 b rfl) rfl rfl rfl rfl rfl rfl
  · exact plain (byte 10 n rfl) rfl rfl rfl rfl rfl rfl
  · refine plain (id := 11) (v := .name n) (fun rest => ?_) rfl (by simp [outOfRangeItem, hn]) rfl rfl rfl rfl
    show (ConfigValue.name <$> readText).run _ = _
    rw [Reader.run_map, readText_text n (by omega)]
    rfl
  · exact plain (byte 12 n rfl) rfl rfl (by rw [← Nat.zero_max (min 3 n.toNat)]; rfl) rfl rfl rfl
  · have := n.isLt
    refine plain (byte 13 n rfl) rfl rfl ?_ rfl rfl rfl
    show { s.cfg with acceptLimit := max 0 (min 255 n.toNat) } = _
    rw [Nat.zero_max, Nat.min_eq_right (by omega)]
  · have hclamp : clamp 1 65535 n = max 1 n := by
      rw [clamp_eq, Nat.min_eq_right (by omega)]
    have period (k : Fin 6) {id : Byte} (hid : readConfigValue id.toNat = .count <$> readUint 2)
        (ho : outOfRangeItem (id.toNat, .count n) = false)
        (hc : s.cfg.with (id.toNat, .count n) = { s.cfg with periods := store s.cfg.periods k (max 1 n) }) :
        stored (id :: uint 2 n) { s with
          cfg := { s.cfg with periods := store s.cfg.periods k (max 1 n) },
          ticks := if fetch s.cfg.periods k = max 1 n then s.ticks else store s.ticks k 0 } := by
      have := exec_configure_one h (count id 2 n hn hid) rfl ho hc free
      simp only [restartedTicks_store, restartedAccumulator_same] at this
      exact this
    match k with
    | 0 => exact period 0 (id := 14) rfl rfl (by rw [← hclamp]; rfl)
    | 1 => exact period 1 (id := 15) rfl rfl (by rw [← hclamp]; rfl)
    | 2 => exact period 2 (id := 16) rfl rfl (by rw [← hclamp]; rfl)
    | 3 => exact period 3 (id := 17) rfl rfl (by rw [← hclamp]; rfl)
    | 4 => exact period 4 (id := 18) rfl rfl (by rw [← hclamp]; rfl)
    | 5 => exact period 5 (id := 19) rfl rfl (by rw [← hclamp]; rfl)
  · have hr (rest : List Byte) : (readConfigValue (20 : Byte).toNat).run (int16 c ++ rest) = some (.signed c, rest) := by
      show (ConfigValue.signed <$> readInt16).run _ = _
      rw [Reader.run_map, readInt16_int16 h1 h2]
      rfl
    have := exec_configure_one h (c := { s.cfg with correction := max (-255) (min 255 c) }) hr rfl rfl rfl free
    simp only [restartedTicks_same] at this
    exact this

/-! ### Routes (R91, R92) -/

theorem trigger_handed (s : State) (o : Order) : trigger (s.handed o) = (trigger s).handed o := by
  unfold trigger
  by_cases h : s.routes.passing = true
  · rw [if_pos h, if_pos (show (s.handed o).routes.passing = true from h)]
    rfl
  · rw [if_neg h, if_neg (show ¬(s.handed o).routes.passing = true from h)]
    rfl

theorem putRoute_handed (i : Fin 48) (r : Route) (s : State) (o : Order) :
    putRoute i r (s.handed o) = (putRoute i r s).handed o := trigger_handed (setRoutes _ s) o

theorem putRoute_link (i : Fin 48) (r : Route) (s : State) : (putRoute i r s).link = s.link := trigger_link _

theorem all_isPrefixSymbol {digits : Number} (h : ∀ x ∈ digits, ∃ d, x = .digit d) : (digits.map Symbol.nibble).all isPrefixSymbol = true := by
  simp only [List.all_map, List.all_eq_true, Function.comp_apply]
  intro x hx
  obtain ⟨d, rfl⟩ := h x hx
  simp [isPrefixSymbol, Symbol.nibble]

theorem all_isAccessSymbol {access : Number} (h : ∀ x ∈ access, x ≠ .pause) : (access.map Symbol.nibble).all isAccessSymbol = true := by
  simp only [List.all_map, List.all_eq_true, Function.comp_apply]
  intro x hx
  cases x with
  | digit d =>
    have := d.isLt
    exact decide_eq_true (show d.val < 12 by omega)
  | star => rfl
  | hash => rfl
  | pause => exact absurd rfl (h _ hx)

theorem mapM_index?_val {n : Nat} (l : List (Fin n)) : (l.map Fin.val).mapM (index? n) = some l := by
  induction l with
  | nil => rfl
  | cons x l ih => simp [ih]

theorem openRoute_good {digits access : Number} {zone profile : Fin 8} {lines : List LineNo} {mode : ChoiceMode} {m limit : Nat}
    (hm : m = 0 ∧ mode = .inOrder ∨ m = 1 ∧ mode = .spread)
    (h1 : digits.length ≤ 8) (h2 : ∀ x ∈ digits, ∃ d, x = .digit d) (h3 : access.length ≤ 4) (h4 : ∀ x ∈ access, x ≠ .pause)
    (h5 : lines ≠ []) (h6 : lines.Nodup) (h7 : 1 ≤ limit) (h8 : limit ≤ 8) :
    openRoute (digits.map Symbol.nibble) zone.val profile.val (access.map Symbol.nibble) (lines.map Fin.val) m limit =
      .inr ⟨true, digits, false, zone, profile, access, lines, mode, limit⟩ := by
  have hlen : lines.length ≤ 8 := by simpa using h6.length_le_card
  have hnodup : (lines.map Fin.val).Nodup := h6.map Fin.val_injective
  have hform : ¬((digits.map Symbol.nibble).all isPrefixSymbol = false ∨ (access.map Symbol.nibble).all isAccessSymbol = false ∨
      ¬(lines.map Fin.val).Nodup ∨ 1 < m ∨ lines.map Fin.val = []) := by
    have hm1 : ¬1 < m := by omega
    rw [all_isPrefixSymbol h2, all_isAccessSymbol h4]
    simp [hnodup, h5, hm1]
  have hrange : ¬(8 < (digits.map Symbol.nibble).length ∨ 4 < (access.map Symbol.nibble).length ∨ 8 < (lines.map Fin.val).length ∨
      limit = 0 ∨ 8 < limit) := by
    simp only [List.length_map]
    omega
  unfold openRoute
  rw [if_neg hform, if_neg hrange, index?_val, index?_val, mapM_index?_val, numberOf_nibbles, numberOf_nibbles]
  rcases hm with ⟨rfl, rfl⟩ | ⟨rfl, rfl⟩ <;> rfl

theorem readRoute_open {i : Nat} {digits access : Number} {zone profile : Fin 8} {lines : List LineNo} {m limit : Nat}
    (hi : i < 256) (h1 : digits.length ≤ 8) (h3 : access.length ≤ 4) (h6 : lines.Nodup) (hm : m < 256) (h8 : limit ≤ 8)
    (rest : List Byte) :
    readRoute.run ((uint 1 i ++ symbols digits ++ flag false ++ (1 :: uint 1 zone.val) ++ (1 :: uint 1 profile.val) ++
        (1 :: symbols access) ++ (1 :: listOf (fun l => uint 1 l.val) lines) ++ (1 :: uint 1 m) ++ (1 :: uint 1 limit)) ++ rest) =
      some (⟨i, digits.map Symbol.nibble, false, some zone.val, some profile.val, some (access.map Symbol.nibble),
        some (lines.map Fin.val), some m, some limit⟩, rest) := by
  have hlen : lines.length ≤ 8 := by simpa using h6.length_le_card
  unfold readRoute
  simp only [List.append_assoc, List.cons_append, Reader.run_bind, Reader.run_pure, Option.bind_some, Option.map_some,
    readUint_one_uint hi, readUint_one_uint (show zone.val < 256 by omega), readUint_one_uint (show profile.val < 256 by omega),
    readUint_one_uint hm, readUint_one_uint (show limit < 256 by omega), readNibbles_symbols digits (by omega),
    readNibbles_symbols access (by omega), readFlag_flag, readOptional_some,
    readList_listOf (v := Fin.val) lines (by omega) (fun l _ => readUint_one_uint (show l.val < 256 by omega))]

/-- Settles O20: the fields are read back, pass the checks and replace the entry. -/
theorem routeOrders : Obligations.RouteOrders := by
  intro s tag i h put
  have hi : i.val < 256 := by omega
  have loaded {params : List Byte} {p : RouteParams} {r : Route} (hr : ∀ rest, readRoute.run (params ++ rest) = some (p, rest))
      (hp : p.index = i.val) (ho : routeOf p = .inr r) : exec (.loadRoute tag params) s = put 2 r := by
    refine congrArg Host.Outcome.next (takeOrder_done h ownerOf_2 hr ?_ (putRoute_link i r s))
    unfold loadRoute
    rw [ho, hp, index?_val]
    exact Prod.ext (putRoute_handed i r s _) rfl
  refine ⟨fun digits access zone profile lines mode limit h1 h2 h3 h4 h5 h6 h7 h8 => ?_, fun digits h1 h2 => ?_, ?_⟩
  · cases mode with
    | inOrder => exact loaded (readRoute_open hi h1 h3 h6 (m := 0) (by decide) h8) rfl (openRoute_good (.inl ⟨rfl, rfl⟩) h1 h2 h3 h4 h5 h6 h7 h8)
    | spread => exact loaded (readRoute_open hi h1 h3 h6 (m := 1) (by decide) h8) rfl (openRoute_good (.inr ⟨rfl, rfl⟩) h1 h2 h3 h4 h5 h6 h7 h8)
  · refine loaded (p := ⟨i.val, digits.map Symbol.nibble, true, none, none, none, none, none, none⟩) (fun rest => ?_) rfl ?_
    · unfold readRoute
      simp only [List.append_assoc, List.cons_append, List.nil_append, Reader.run_bind, Reader.run_pure, Option.bind_some,
        readUint_one_uint hi, readNibbles_symbols digits (by omega), readFlag_flag, readOptional_none]
    · show (if (digits.map Symbol.nibble).all isPrefixSymbol = false then _ else if 8 < (digits.map Symbol.nibble).length then _ else _) = _
      rw [all_isPrefixSymbol h2, if_neg (by simp), if_neg (by simp; omega), numberOf_nibbles]
      rfl
  · refine congrArg Host.Outcome.next (takeOrder_done h ownerOf_3 (readUint_one_uint hi) ?_ (putRoute_link i .invalid s))
    unfold clearRoute
    rw [index?_val]
    exact Prod.ext (putRoute_handed i .invalid s _) rfl

end Sys2Proof.Machine
end

section
/-! PROOFS. The orders on profiles, groups, the tariff and the clock (O21 to O23), the band in effect (O24) and the correction (O26). -/

namespace Sys2Proof.Machine

/-! ### Profiles and groups (R87, R109, R110) -/

theorem readEnum_uint {n k : Nat} (h : k < n) (hn : n ≤ 256) (rest : List Byte) : (readEnum n).run (uint 1 k ++ rest) = some (k, rest) := by
  unfold readEnum
  rw [Reader.run_bind, readUint_one_uint (by omega), Option.bind_some]
  simp only [if_pos h, Reader.run_pure]

theorem Reader.run_next {α β : Type} {r : Reader α} {f : α → Reader β} {bs mid : List Byte} {a : α} (h : r.run bs = some (a, mid)) :
    (r >>= f).run bs = (f a).run mid := by
  rw [Reader.run_bind, h, Option.bind_some]

/-- A profile's method as its byte (R109). -/
def DialMethod.byte (m : DialMethod) : Nat := match m with | .tone => 0 | .pulse => 1

theorem DialMethod.of_byte (m : DialMethod) : (if m.byte = 0 then DialMethod.tone else .pulse) = m := by
  cases m <;> rfl

theorem readProfile_bytes {i : Nat} (hi : i < 256) {p : Profile} (hu : p.unit < 256) (h1 : p.toneOn < 256) (h2 : p.toneOff < 256)
    (h3 : p.breakTime < 256) (h4 : p.makeTime < 256) (h5 : p.interdigit < 65536) (h6 : p.seizePause < 65536)
    (h7 : p.accessPause < 65536) (h8 : p.commaPause < 65536) (h9 : p.bridge < 65536) (h10 : p.blanking < 65536) (rest : List Byte) :
    readProfile.run ((uint 1 i ++ p.bytes) ++ rest) = some ((i, p), rest) := by
  have hm : p.method.byte < 2 := by
    cases p.method <;> decide
  have hb : p.bytes = uint 1 p.method.byte ++ (uint 1 p.unit ++ (uint 1 p.toneOn ++ (uint 1 p.toneOff ++ (uint 1 p.breakTime ++
      (uint 1 p.makeTime ++ (uint 2 p.interdigit ++ (uint 2 p.seizePause ++ (uint 2 p.accessPause ++ (uint 2 p.commaPause ++
      (uint 2 p.bridge ++ uint 2 p.blanking)))))))))) := by
    simp only [Profile.bytes, List.append_assoc]
    rfl
  have hrun : readProfile.run ((uint 1 i ++ p.bytes) ++ rest) =
      some ((i, { p with method := if p.method.byte = 0 then .tone else .pulse }), rest) := by
    rw [hb]
    simp only [List.append_assoc]
    exact (Reader.run_next (readUint_one_uint hi _)).trans <| (Reader.run_next (readEnum_uint hm (by decide) _)).trans <|
      (Reader.run_next (readUint_one_uint hu _)).trans <| (Reader.run_next (readUint_one_uint h1 _)).trans <|
      (Reader.run_next (readUint_one_uint h2 _)).trans <| (Reader.run_next (readUint_one_uint h3 _)).trans <|
      (Reader.run_next (readUint_one_uint h4 _)).trans <| (Reader.run_next (readUint_uint 2 _ h5 _)).trans <|
      (Reader.run_next (readUint_uint 2 _ h6 _)).trans <| (Reader.run_next (readUint_uint 2 _ h7 _)).trans <|
      (Reader.run_next (readUint_uint 2 _ h8 _)).trans <| (Reader.run_next (readUint_uint 2 _ h9 _)).trans <|
      (Reader.run_next (readUint_uint 2 _ h10 _)).trans rfl
  rw [hrun, DialMethod.of_byte]

theorem Profile.clamped_eq {p : Profile} (h1 : p.toneOn < 256) (h2 : p.toneOff < 256) (h3 : p.breakTime < 256) (h4 : p.makeTime < 256) :
    p.clamped = ⟨p.method, p.unit, max 1 p.toneOn, max 1 p.toneOff, max 1 p.breakTime, max 1 p.makeTime, p.interdigit, p.seizePause,
      p.accessPause, p.commaPause, max 10 (min 1000 p.bridge), min 500 p.blanking⟩ := by
  unfold Profile.clamped
  simp only [clamp_eq, Nat.min_eq_right (show p.toneOn ≤ 255 by omega), Nat.min_eq_right (show p.toneOff ≤ 255 by omega),
    Nat.min_eq_right (show p.breakTime ≤ 255 by omega), Nat.min_eq_right (show p.makeTime ≤ 255 by omega), Nat.zero_max]

theorem mapM_dialledNumber (ns : List Number) (h : ∀ n ∈ ns, 1 ≤ n.length ∧ n.length ≤ 24) :
    (ns.map (fun n => n.map Symbol.nibble)).mapM dialledNumber = some ns := by
  induction ns with
  | nil => rfl
  | cons n ns ih =>
    obtain ⟨h1, h2⟩ := h n (by simp)
    simp [dialledNumber_nibbles n h1 h2, ih (fun m hm => h m (by simp [hm]))]

/-- Settles O21. -/
theorem profileAndGroupOrders : Obligations.ProfileAndGroupOrders := by
  intro s tag i h
  have hi : i.val < 256 := by omega
  refine ⟨fun p hu h1 h2 h3 h4 h5 h6 h7 h8 h9 h10 => ?_, fun ns hlen hns => ?_⟩
  · rw [← Profile.clamped_eq h1 h2 h3 h4]
    refine congrArg Host.Outcome.next (takeOrder_done h ownerOf_4
      (readProfile_bytes hi (by omega) h1 h2 h3 h4 h5 h6 h7 h8 h9 h10) ?_ rfl)
    unfold loadDialProfile
    rw [index?_val]
    exact if_pos hu
  · have hr (rest : List Byte) : readGroup.run ((uint 1 i.val ++ listOf symbols ns) ++ rest) =
        some ((i.val, ns.map (fun n => n.map Symbol.nibble)), rest) := by
      unfold readGroup
      simp only [List.append_assoc, Reader.run_bind, Reader.run_pure, Option.bind_some, readUint_one_uint hi,
        readList_listOf (v := fun n : Number => n.map Symbol.nibble) ns (by omega)
          (fun n hn => readNibbles_symbols n (by have := (hns n hn).2; omega))]
    refine congrArg Host.Outcome.next (takeOrder_done h ownerOf_5 hr ?_ rfl)
    unfold loadGroup
    simp only [index?_val, List.length_map, if_neg (Nat.not_lt.mpr hlen), mapM_dialledNumber ns hns]
    rfl

/-! ### The tariff (R181, R182) -/

theorem sameCellTwice_of_pairwise {es : List TariffEntry} (h : es.Pairwise (fun e f => ¬(e.band = f.band ∧ e.zone = f.zone))) :
    sameCellTwice es = false := by
  induction h with
  | nil => rfl
  | cons hx _ ih =>
    simp only [sameCellTwice, ih, Bool.or_false, List.any_eq_false, decide_eq_true_eq]
    intro f hf hsame
    exact hx f hf ⟨hsame.1.symm, hsame.2.symm⟩

theorem readTariffEntry_bytes {e : TariffEntry} (h : e.inRange = true) (rest : List Byte) :
    readTariffEntry.run (e.bytes ++ rest) = some (e, rest) := by
  simp only [TariffEntry.inRange, decide_eq_true_eq] at h
  obtain ⟨h1, h2, h3, h4, h5⟩ := h
  unfold readTariffEntry TariffEntry.bytes
  simp only [List.append_assoc, Reader.run_bind, Reader.run_pure, Option.bind_some, readUint_one_uint (show e.band < 256 by omega),
    readUint_one_uint (show e.zone < 256 by omega), readUint_uint 2 e.cell.whole (by omega),
    readUint_one_uint (show e.cell.fraction < 256 by omega), readUint_one_uint (show e.cell.setup < 256 by omega)]

theorem fetch_stageCell {t : Table Cell 32} {e : TariffEntry} (h1 : e.band ≤ 3) (h2 : e.zone ≤ 7) (b : Fin 4) (z : Fin 8) :
    fetch (stageCell t e) (cellIndex b z) = if e.band = b.val ∧ e.zone = z.val then e.cell else fetch t (cellIndex b z) := by
  have hidx : index? 32 (e.band * 8 + e.zone) = some ⟨e.band * 8 + e.zone, by omega⟩ := index?_val ⟨e.band * 8 + e.zone, by omega⟩
  unfold stageCell
  rw [hidx]
  simp only [fetch_store]
  congr 1
  apply propext
  rw [Fin.ext_iff]
  have hz := z.isLt
  constructor
  · intro h
    have h' : b.val * 8 + z.val = e.band * 8 + e.zone := h
    omega
  · rintro ⟨h3, h4⟩
    simp only [cellIndex, h3, h4]

theorem fetch_foldl_stageCell {es : List TariffEntry} (hd : es.Pairwise (fun e f => ¬(e.band = f.band ∧ e.zone = f.zone)))
    (hr : ∀ e ∈ es, e.inRange = true) (t : Table Cell 32) (b : Fin 4) (z : Fin 8) :
    fetch (es.foldl stageCell t) (cellIndex b z) =
      match es.find? (fun e => decide (e.band = b.val ∧ e.zone = z.val)) with
      | some e => e.cell
      | none => fetch t (cellIndex b z) := by
  induction hd generalizing t with
  | nil => rfl
  | @cons e es hx _ ih =>
    have he := hr e (by simp)
    simp only [TariffEntry.inRange, decide_eq_true_eq] at he
    rw [List.foldl_cons, ih (fun f hf => hr f (by simp [hf])), fetch_stageCell he.1 he.2.1]
    by_cases hm : e.band = b.val ∧ e.zone = z.val
    · have hnone : es.find? (fun e => decide (e.band = b.val ∧ e.zone = z.val)) = none := by
        rw [List.find?_eq_none]
        intro f hf hfm
        have hfm := of_decide_eq_true hfm
        exact hx f hf ⟨hm.1.trans hfm.1.symm, hm.2.trans hfm.2.symm⟩
      simp only [hnone, List.find?_cons, hm, and_self, decide_true, if_true]
    · simp only [List.find?_cons, decide_eq_false hm, if_neg hm]

/-- Settles O22. -/
theorem tariffOrders : Obligations.TariffOrders := by
  intro s tag h
  refine ⟨fun es hne hlen hd hrange => ?_, ?_⟩
  · have hr (e : TariffEntry) (he : e ∈ es) : e.inRange = true := decide_eq_true (hrange e he)
    refine ⟨es.foldl stageCell s.clock.staged, ?_, fetch_foldl_stageCell hd hr _⟩
    refine congrArg Host.Outcome.next (takeOrder_done h ownerOf_6 (a := es) (fun rest => ?_) ?_ rfl)
    · have := readList_listOf (r := readTariffEntry) (w := TariffEntry.bytes) (v := id) es (by omega)
        (fun e he => readTariffEntry_bytes (hr e he)) rest
      rwa [List.map_id] at this
    · have hform : ¬(es = [] ∨ sameCellTwice es = true) := by simp [hne, sameCellTwice_of_pairwise hd]
      have hin : ¬(8 < es.length ∨ es.all TariffEntry.inRange = false) := by
        rw [List.all_eq_true.mpr hr]
        simp only [Bool.true_eq_false, or_false]
        omega
      unfold stageTariff
      rw [if_neg hform, if_neg hin]
      rfl
  · exact congrArg Host.Outcome.next (takeOrder_done h ownerOf_7 (fun _ => rfl) rfl rfl)

/-! ### The clock (R176 to R179) -/

theorem mapM_switchPoint (points : List (Nat × Fin 4)) (h : ∀ p ∈ points, p.1 ≤ 86399) :
    (points.map (fun p => (p.1, p.2.val))).mapM switchPoint = some points := by
  induction points with
  | nil => rfl
  | cons p points ih =>
    have hp : switchPoint (p.1, p.2.val) = some p := by simp [switchPoint, h p (by simp)]
    simp [hp, ih (fun q hq => h q (by simp [hq]))]

theorem ascending_of_pairwise {points : List (Nat × Fin 4)} (h : points.Pairwise (fun p q => p.1 < q.1)) : ascending points = true := by
  match points, h with
  | [], _ => rfl
  | [_], _ => rfl
  | a :: b :: rest, h =>
    obtain ⟨ha, hrest⟩ := List.pairwise_cons.mp h
    simp [ascending, ha b (by simp), ascending_of_pairwise hrest]

theorem dayMapOf_toList (m : Table (Fin 2) 7) : dayMapOf (m.toList.map Fin.val) = some m := by
  unfold dayMapOf
  rw [mapM_index?_val]
  have hlen : m.toList.length = 7 := by simp
  match hm : m.toList, hlen with
  | [a, b, c, d, e, f, g], _ =>
    refine congrArg some (Vector.toList_inj.mp ?_)
    rw [hm]
    rfl

theorem readDays_toList (m : Table (Fin 2) 7) (rest : List Byte) :
    readDays.run (m.toList.flatMap (fun k : Fin 2 => uint 1 k.val) ++ rest) = some (m.toList.map Fin.val, rest) := by
  have := readTimes_flatMap (r := readUint 1) (w := fun k : Fin 2 => uint 1 k.val) (v := Fin.val) m.toList
    (fun k _ => readUint_one_uint (by omega)) rest
  rwa [show m.toList.length = 7 by simp] at this

theorem readClock_uint {second day : Nat} (h1 : second < 16777216) (h2 : day < 256) (rest : List Byte) :
    readClock.run ((uint 3 second ++ uint 1 day) ++ rest) = some ((second, day), rest) := by
  unfold readClock
  simp only [List.append_assoc, Reader.run_bind, Reader.run_pure, Option.bind_some, readUint_uint 3 second h1, readUint_one_uint h2]

theorem readBands_uint {c : Fin 2} {start : Fin 4} {points : List (Nat × Fin 4)} (hlen : points.length ≤ 6)
    (hp : ∀ p ∈ points, p.1 ≤ 86399) (rest : List Byte) :
    readBands.run ((uint 1 c.val ++ (uint 1 start.val ++ listOf (fun p : Nat × Fin 4 => uint 3 p.1 ++ uint 1 p.2.val) points)) ++ rest) =
      some ((c.val, start.val, points.map (fun p => (p.1, p.2.val))), rest) := by
  have hpoint (p : Nat × Fin 4) (hm : p ∈ points) (rest : List Byte) :
      readPoint.run ((uint 3 p.1 ++ uint 1 p.2.val) ++ rest) = some ((p.1, p.2.val), rest) := by
    have := hp p hm
    unfold readPoint
    simp only [List.append_assoc, Reader.run_bind, Reader.run_pure, Option.bind_some, readUint_uint 3 p.1 (by omega),
      readUint_one_uint (show p.2.val < 256 by omega)]
  unfold readBands
  simp only [List.append_assoc, Reader.run_bind, Reader.run_pure, Option.bind_some, readUint_one_uint (show c.val < 256 by omega),
    readUint_one_uint (show start.val < 256 by omega),
    readList_listOf (v := fun p : Nat × Fin 4 => (p.1, p.2.val)) points (by omega) hpoint]

/-- Settles O23. -/
theorem clockOrders : Obligations.ClockOrders := by
  intro s tag h
  refine ⟨fun c start points hlen hp hasc => ?_, fun m => ?_, fun second day hs => ?_, fun second day hs hd hout => ?_, ?_⟩
  · refine congrArg Host.Outcome.next (takeOrder_done h ownerOf_8 (readBands_uint hlen hp) ?_ rfl)
    unfold loadBands
    simp only [index?_val, mapM_switchPoint points hp, if_neg (Nat.not_lt.mpr hlen), ascending_of_pairwise hasc, if_true]
    rfl
  · refine congrArg Host.Outcome.next (takeOrder_done h ownerOf_9 (readDays_toList m) ?_ rfl)
    unfold loadDayMap
    rw [dayMapOf_toList]
    rfl
  · refine congrArg Host.Outcome.next (takeOrder_done h ownerOf_10 (readClock_uint (by omega) (by omega)) ?_ rfl)
    unfold setTime
    rw [index?_val]
    exact if_pos hs
  · refine congrArg Host.Outcome.next (takeOrder_answered h ownerOf_10 (readClock_uint hs hd) ?_)
    unfold setTime
    by_cases hday : day < 7
    · have hidx : index? 7 day = some ⟨day, hday⟩ := dif_pos hday
      simp only [hidx]
      exact if_neg (by omega)
    · rw [index?_none (show 7 ≤ day by omega)]
      rfl
  · exact congrArg Host.Outcome.next (takeOrder_answered h ownerOf_11 (fun _ => rfl) rfl)

/-! ### The band in effect (R178) -/

theorem getLast?_of_greatest {α : Type} {l : List (Nat × α)} (h : l.Pairwise (fun p q => p.1 < q.1)) {p : Nat × α} (hp : p ∈ l)
    (hmax : ∀ q ∈ l, q.1 ≤ p.1) : l.getLast? = some p := by
  rcases List.eq_nil_or_concat l with rfl | ⟨init, q, rfl⟩
  · exact absurd hp List.not_mem_nil
  · rw [List.concat_eq_append] at *
    obtain ⟨_, _, hlast⟩ := List.pairwise_append.mp h
    rcases List.mem_append.mp hp with hinit | hq
    · have := hlast p hinit q (by simp)
      have := hmax q (by simp)
      omega
    · rw [List.mem_singleton.mp hq]
      simp

theorem bandOf_start {x : Schedule} {second : Nat} (h : ∀ p ∈ x.points, second < p.1) : bandOf x second = x.start := by
  have hnone : x.points.filter (fun p => decide (p.1 ≤ second)) = [] := by
    rw [List.filter_eq_nil_iff]
    intro p hp hle
    have := h p hp
    have := of_decide_eq_true hle
    omega
  unfold bandOf
  rw [hnone]
  rfl

theorem bandOf_point {x : Schedule} {second : Nat} (hasc : x.points.Pairwise (fun p q => p.1 < q.1)) {p : Nat × Fin 4}
    (hp : p ∈ x.points) (hle : p.1 ≤ second) (hmax : ∀ q ∈ x.points, q.1 ≤ second → q.1 ≤ p.1) : bandOf x second = p.2 := by
  have hlast : (x.points.filter (fun p => decide (p.1 ≤ second))).getLast? = some p := by
    refine getLast?_of_greatest (hasc.filter _) (List.mem_filter.mpr ⟨hp, decide_eq_true hle⟩) (fun q hq => ?_)
    obtain ⟨hq, hqle⟩ := List.mem_filter.mp hq
    exact hmax q hq (of_decide_eq_true hqle)
  unfold bandOf
  rw [hlast]

/-- Settles O24: the points at or below the second are a rising list, whose last is its greatest. -/
theorem bandInEffect : Obligations.BandInEffect :=
  ⟨fun _ _ hasc => ⟨bandOf_start, fun _ hp hle hmax => bandOf_point hasc hp hle hmax⟩,
    fun _ => fun hasc => ⟨bandOf_start, fun _ hp hle hmax => bandOf_point hasc hp hle hmax⟩⟩

/-! ### The correction (R174) -/

/-- After each second the accumulator and the frames corrected so far hold what the corrections brought. -/
theorem foldl_nextLength {c : Int} (hc : c.natAbs ≤ 255) (l : List Nat) (a n : Nat) (ha : a ≤ 124) :
    ∃ f : Nat, let run := l.foldl (fun (p : Nat × Nat) _ => ((nextLength c p.1).1, p.2 + (nextLength c p.1).2)) (a, n)
      run.1 ≤ 124 ∧ run.1 + 125 * f = a + l.length * c.natAbs ∧
        (run.2 : Int) = n + 8000 * l.length + (if c < 0 then -(f : Int) else f) := by
  induction l generalizing a n with
  | nil => exact ⟨0, by simp [ha]⟩
  | cons x l ih =>
    have hlen : ((nextLength c a).2 : Int) = 8000 + (if c < 0 then -(((a + c.natAbs) / 125 : Nat) : Int) else ((a + c.natAbs) / 125 : Nat)) := by
      have : (a + c.natAbs) / 125 ≤ 8000 := by omega
      unfold nextLength
      by_cases hneg : c < 0
      · simp only [if_pos hneg]
        omega
      · simp only [if_neg hneg]
        omega
    obtain ⟨f, h1, h2, h3⟩ := ih (nextLength c a).1 (n + (nextLength c a).2) (by unfold nextLength; dsimp only; omega)
    refine ⟨f + (a + c.natAbs) / 125, h1, ?_, ?_⟩
    · have hstep : (nextLength c a).1 + 125 * ((a + c.natAbs) / 125) = a + c.natAbs := Nat.mod_add_div _ _
      have hmul : (l.length + 1) * c.natAbs = l.length * c.natAbs + c.natAbs := Nat.succ_mul _ _
      rw [List.foldl_cons, List.length_cons, hmul]
      generalize l.length * c.natAbs = m at h2 ⊢
      dsimp only at h2 ⊢
      omega
    · rw [List.foldl_cons, List.length_cons]
      refine h3.trans ?_
      push_cast at hlen ⊢
      by_cases hneg : c < 0
      · simp only [if_pos hneg] at hlen ⊢
        omega
      · simp only [if_neg hneg] at hlen ⊢
        omega

/-- Settles O26: over 125 seconds the corrections bring 125 times c to an accumulator that gives 125 back a frame. -/
theorem correctionIsPartsPerMillion : Obligations.CorrectionIsPartsPerMillion := by
  intro c a h1 h2 ha run
  obtain ⟨f, hle, hsum, htotal⟩ := foldl_nextLength (c := c) (by omega) (List.range 125) a 0 ha
  rw [List.length_range] at hsum htotal
  have hf : f = c.natAbs ∧ run.1 = a := by
    change run.1 ≤ 124 at hle
    change run.1 + _ = _ at hsum
    omega
  refine ⟨hf.2, htotal.trans ?_⟩
  rw [hf.1]
  split <;> omega

end Sys2Proof.Machine
end

section
/-! PROOFS. The second event, a unit boundary and an eligible time (O25, O27), and the orders on accounts and records (O28, O29). -/

namespace Sys2Proof.Machine

/-! ### A fold over the lines that changes each line's own entry -/

theorem foldl_meter {f : State → LineNo → State} {F : Clock → Meter → Meter}
    (hf : ∀ s l m, (f s l).meter m = if m = l then F s.clock (s.meter l) else s.meter m) (hc : ∀ s l, (f s l).clock = s.clock)
    {ls : List LineNo} (hd : ls.Nodup) (s : State) (m : LineNo) :
    (ls.foldl f s).meter m = if m ∈ ls then F s.clock (s.meter m) else s.meter m := by
  induction ls generalizing s with
  | nil => simp
  | cons l ls ih =>
    obtain ⟨hl, hd⟩ := List.nodup_cons.mp hd
    rw [List.foldl_cons, ih hd, hf, hc]
    by_cases hm : m = l
    · subst hm
      simp [hl]
    · simp [hm]

/-! ### Meters (R185) -/

/-- A meter after a second event, under the cell that is in effect for its zone (R185). -/
def Meter.second (c : Clock) (m : Meter) : Meter :=
  if m.running = false then m
  else if m.timed = false then { m with seconds := m.seconds + 1 }
  else if 1 < m.remaining then { m with seconds := m.seconds + 1, remaining := m.remaining - 1 }
  else ({ m with seconds := m.seconds + 1, remaining := 0, units := m.units + 1 }).reload (fetch c.active (cellIndex c.band m.zone))

theorem meterBoundary_meter (l m : LineNo) (s : State) :
    (meterBoundary l s).meter m =
      if m = l then ({ s.meter l with units := (s.meter l).units + 1 }).reload (s.cell (s.meter l).zone) else s.meter m := by
  rw [meterBoundary_eq, postAccount_meter, State.setMeter_meter]

theorem meterSecond_meter (s : State) (l m : LineNo) :
    (meterSecond l s).meter m = if m = l then (s.meter l).second s.clock else s.meter m := by
  unfold meterSecond Meter.second
  by_cases hr : (s.meter l).running = true
  · by_cases ht : (s.meter l).timed = true
    · have hz : (s.meter l).remaining - 1 = 0 ↔ ¬1 < (s.meter l).remaining := by omega
      by_cases hz1 : 1 < (s.meter l).remaining
      · have hz0 : ¬(s.meter l).remaining - 1 = 0 := fun h => hz.mp h hz1
        simp only [hr, ht, if_true, if_neg hz0, Bool.true_eq_false, if_false, if_pos hz1]
        rw [State.setMeter_meter]
      · have hz0 := hz.mpr hz1
        simp only [hr, ht, if_true, if_pos hz0, Bool.true_eq_false, if_false, if_neg hz1]
        rw [meterBoundary_meter]
        by_cases hm : m = l
        · subst hm
          simp only [if_true, State.setMeter_meter_same, hz0]
          rfl
        · simp only [if_neg hm, State.setMeter_meter_ne _ _ _ _ hm]
    · have ht' : (s.meter l).timed = false := Bool.eq_false_iff.mpr ht
      simp only [hr, ht', if_true, Bool.false_eq_true, if_false, Bool.true_eq_false]
      rw [State.setMeter_meter]
  · have hr' : (s.meter l).running = false := Bool.eq_false_iff.mpr hr
    simp only [hr', if_true, Bool.false_eq_true, if_false]
    by_cases hm : m = l
    · rw [if_pos hm, hm]
    · rw [if_neg hm]

/-! ### Destinations made READY (R71, R75) -/

theorem State.dest_congr {s t : State} (h : t.jobs = s.jobs) (j : Fin 32) (d : Nat) : t.dest j d = s.dest j d := by
  simp only [State.dest, State.sendJob, State.job, h]

/-- A destination made READY (R71, R75). -/
def Dest.readied (now : BitVec 32) (x : Dest) : Dest := { x with state := .ready, ready := now, eligible := none }

theorem foldl_readyDest_dest (ds : List (Fin 32 × Nat)) (s : State) (j : Fin 32) (d : Nat) :
    (ds.foldl (fun s e => readyDest e.1 e.2 s) s).dest j d =
      (s.dest j d).map (fun x => if (j, d) ∈ ds then x.readied s.clock.elapsed else x) := by
  induction ds generalizing s with
  | nil => simp
  | cons e ds ih =>
    have hclock : (readyDest e.1 e.2 s).clock = s.clock := by simp
    have hdest : (readyDest e.1 e.2 s).dest j d =
        (s.dest j d).map (fun x => if (j, d) = e then x.readied s.clock.elapsed else x) := by
      unfold readyDest
      rw [changeDest_dest]
      by_cases he : (j, d) = e
      · subst he
        simp [Dest.readied]
      · rw [if_neg (fun h => he (Prod.ext h.1 h.2))]
        simp [he]
    rw [List.foldl_cons, ih, hclock, hdest, Option.map_map]
    congr 1
    funext x
    by_cases he : (j, d) = e
    · subst he
      simp [Dest.readied]
    · simp [he]

theorem mem_pickDests {pick : SendJob → Dest → Bool} {s : State} {j : Fin 32} {doc : Fin 64} {b : SendJob}
    (hj : s.job j = some ⟨doc, .send b, none⟩) {d : Nat} {x : Dest} (hx : b.dests[d]? = some x) :
    (j, d) ∈ pickDests pick s ↔ pick b x = true := by
  constructor
  · intro hmem
    simp only [pickDests, List.mem_flatMap] at hmem
    obtain ⟨k, -, hmem⟩ := hmem
    split at hmem
    next doc' b' hk =>
      simp only [List.mem_map, List.mem_filter, Prod.mk.injEq] at hmem
      obtain ⟨⟨y, e⟩, ⟨hy, hp⟩, rfl, rfl⟩ := hmem
      rw [hj] at hk
      cases hk
      rw [List.mem_zipIdx_iff_getElem?, hx] at hy
      cases hy
      exact hp
    next => cases hmem
  · intro hp
    refine List.mem_flatMap.mpr ⟨j, List.mem_finRange j, ?_⟩
    simp only [hj]
    exact List.mem_map.mpr ⟨(x, d), List.mem_filter.mpr ⟨List.mem_zipIdx_iff_getElem?.mpr hx, hp⟩, rfl⟩

/-- What a pick and its making READY leave of a destination of an ACTIVE send job. -/
theorem readyPicked_dest {pick : SendJob → Dest → Bool} {s : State} {j : Fin 32} {doc : Fin 64} {b : SendJob}
    (hj : s.job j = some ⟨doc, .send b, none⟩) {d : Nat} {x : Dest} (hx : b.dests[d]? = some x) :
    ((pickDests pick s).foldl (fun s e => readyDest e.1 e.2 s) s).dest j d =
      some (if pick b x then x.readied s.clock.elapsed else x) := by
  rw [foldl_readyDest_dest, State.dest_some hj, hx, Option.map_some]
  simp only [mem_pickDests hj hx]

theorem jobsSecond_dest {s : State} {j : Fin 32} {doc : Fin 64} {b : SendJob} (hj : s.job j = some ⟨doc, .send b, none⟩) {d : Nat}
    {x : Dest} (hx : b.dests[d]? = some x) :
    (jobsSecond s).dest j d = some (if x.due s.clock.elapsed then x.readied s.clock.elapsed else x) := by
  have hpicked := readyPicked_dest (pick := fun _ x => x.due s.clock.elapsed) hj hx
  unfold jobsSecond
  split
  next hnil =>
    rw [hnil] at hpicked
    exact hpicked
  next => rw [State.dest_congr (trigger_jobs _), hpicked]

theorem Clock.tick_eq (c : Clock) (correction : Int) :
    c.tick correction = { c with
      frame := 0, accumulator := (c.accumulator + correction.natAbs) % 125,
      length := if correction < 0 then 8000 - (c.accumulator + correction.natAbs) / 125 else 8000 + (c.accumulator + correction.natAbs) / 125,
      second := if c.second < 86399 then c.second + 1 else 0, day := if c.second < 86399 then c.day else c.day + 1,
      elapsed := c.elapsed + 1 } := by
  unfold Clock.tick nextLength
  by_cases h : c.second < 86399
  · simp [h, Nat.not_le.mpr h]
  · simp [h, Nat.not_lt.mp h]

theorem secondEvent_clock (s : State) : (secondEvent s).clock = s.clock.tick s.cfg.correction := by
  unfold secondEvent
  simp only [foldl_holdingCut_frame, jobsSecond_frame]
  exact foldl_keep State.clock _ (fun _ _ => by simp) _ _

theorem secondEvent_meter (s : State) (l : LineNo) :
    (secondEvent s).meter l = (s.meter l).second (s.clock.tick s.cfg.correction) := by
  unfold secondEvent
  simp only [State.meter, foldl_holdingCut_frame, jobsSecond_frame]
  refine (foldl_meter (F := Meter.second) (fun s l m => meterSecond_meter s l m) (fun _ _ => by simp) nodup_allLines _ l).trans ?_
  rw [if_pos (mem_allLines l)]
  rfl

theorem secondEvent_dest {s : State} {j : Fin 32} {doc : Fin 64} {b : SendJob} (hj : s.job j = some ⟨doc, .send b, none⟩) {d : Nat}
    {x : Dest} (hx : b.dests[d]? = some x) :
    (secondEvent s).dest j d =
      some (if x.due (s.clock.tick s.cfg.correction).elapsed then x.readied (s.clock.tick s.cfg.correction).elapsed else x) := by
  unfold secondEvent
  rw [State.dest_congr (foldl_holdingCut_frame _ _).2.2.2.2.1]
  generalize hu : allLines.foldl (fun s l => meterSecond l s) (setClock (s.clock.tick s.cfg.correction) s) = u
  have hjobs : u.jobs = s.jobs := by rw [← hu]; exact foldl_keep State.jobs _ (fun _ _ => by simp) _ _
  have hclock : u.clock = s.clock.tick s.cfg.correction := by rw [← hu]; exact foldl_keep State.clock _ (fun _ _ => by simp) _ _
  rw [← hclock]
  exact jobsSecond_dest (by rw [State.job, hjobs]; exact hj) hx

/-- Settles O25: the event is the clock's tick, a second at each meter and the due destinations, and the callers' cut leaves these. -/
theorem secondEventAdvances : Obligations.SecondEventAdvances := by
  intro s
  refine ⟨secondEvent s, rfl, (secondEvent_clock s).trans (Clock.tick_eq _ _), fun l => ?_, fun j d x hj hx => ?_, ?_⟩
  · rw [secondEvent_clock]
    exact secondEvent_meter s l
  · obtain ⟨doc, b, hj⟩ := hj
    rw [State.dest_some hj] at hx
    rw [secondEvent_clock]
    exact secondEvent_dest hj hx
  · simp

theorem putAccount_accounts (n : Fin 64) (a : Account) (s : State) : (putAccount n a s).accounts = store s.accounts n a := by
  unfold putAccount
  split <;> rfl

theorem putAccount_link (n : Fin 64) (a : Account) (s : State) :
    (putAccount n a s).link = if a.isOver = true ∧ (s.account n).isOver = false then s.link.offer (overReport n a) else s.link := by
  unfold putAccount
  by_cases h : a.isOver = true ∧ (s.account n).isOver = false
  · rw [if_pos h, if_pos (by simp [h.1, h.2])]
    rfl
  · rw [if_neg h, if_neg (by simpa using h)]
    rfl

theorem destinationEligible_queued {s : State} {j : Fin 32} {d : Nat} {doc : Fin 64} {b : SendJob} {x : Dest}
    (hj : s.job j = some ⟨doc, .send b, none⟩) (hx : b.dests[d]? = some x) (hq : x.state = .queued) :
    destinationEligible j d s =
      trigger (s.setJob j (some ⟨doc, .send { b with dests := b.dests.set d (x.readied s.clock.elapsed) }, none⟩)) := by
  have hmodify : b.dests.modify d (Dest.readied s.clock.elapsed) = b.dests.set d (x.readied s.clock.elapsed) := by
    apply List.ext_getElem?
    intro k
    rw [List.getElem?_modify, List.getElem?_set]
    by_cases hk : d = k
    · subst hk
      have hlt : d < b.dests.length := List.getElem?_eq_some_iff.mp hx |>.1
      simp only [if_true, hx, hlt]
      rfl
    · simp [hk]
  unfold destinationEligible
  rw [State.dest_some hj, hj, hx]
  dsimp only
  rw [if_pos hq]
  unfold readyDest
  rw [changeDest_some hj]
  exact congrArg (fun ds => trigger (s.setJob j (some ⟨doc, .send { b with dests := ds }, none⟩))) hmodify

/-- Settles O27: a unit boundary is one posting beside the meter's reload, and an eligible destination is one change. -/
theorem boundaryAndEligible : Obligations.BoundaryAndEligible := by
  refine ⟨fun s l hr ht => ⟨meterBoundary l s, ?_, ?_, ⟨?_, ?_⟩, by simp⟩, fun s j d doc b x hj hx hq =>
    congrArg Host.Outcome.next (destinationEligible_queued hj hx hq)⟩
  · show Host.Outcome.next (unitBoundary l s) = _
    unfold unitBoundary
    rw [if_pos ⟨hr, ht⟩]
  · rw [meterBoundary_eq, (postAccount_frame _ _ _).2.2.2.2.2.2.2.2.2.2.2.2.2.1]
    rfl
  · rw [meterBoundary_eq]
    exact putAccount_accounts _ _ _
  · rw [meterBoundary_eq]
    exact putAccount_link _ _ _

/-! ### What an owner does beside the order in hand (R205) -/

/-- An order whose parameters fit and whose owner leaves the orders of the link alone. -/
theorem takeOrder_owned {α : Type} {s s' : State} {tag : Tag} (h : s.takesOrder tag) {code : Byte} {params : List Byte} {r : Reader α}
    {own : α → State → State × Answer} {a : α} {ans : Answer} (hc : ownerOf code = checked r own)
    (hr : ∀ rest, r.run (params ++ rest) = some (a, rest))
    (hown : own a (s.handed ⟨tag, code, params⟩) = (s'.handed ⟨tag, code, params⟩, ans))
    (hin : s'.link.inHand = s.link.inHand) (ho : s'.link.orders = s.link.orders) :
    takeOrder code tag params s = s'.replied tag code ans := by
  rw [takeOrder_taken h, hc, checked_some (readAll_of_run hr), hown]
  have h1 := hin.trans h.1
  have h2 := ho.trans h.2.1
  clear h hown hin ho
  cases s'
  rename_i link _
  cases link
  simp_all [answerOrder, State.handed, State.replied, Link.withReply]

theorem report_handed (r : Report) (s : State) (o : Order) : report r (s.handed o) = (report r s).handed o := by
  unfold report State.handed Link.offer
  dsimp only
  split <;> rfl

theorem foldl_handed {α : Type} {f : State → α → State} {o : Order} (hf : ∀ s e, f (s.handed o) e = (f s e).handed o) (l : List α)
    (s : State) : l.foldl f (s.handed o) = (l.foldl f s).handed o := by
  induction l generalizing s with
  | nil => rfl
  | cons e l ih => rw [List.foldl_cons, List.foldl_cons, hf, ih]

theorem changeSend_handed (j : Fin 32) (f : SendJob → SendJob) (s : State) (o : Order) :
    changeSend j f (s.handed o) = (changeSend j f s).handed o := by
  have hj : (s.handed o).job j = s.job j := rfl
  unfold changeSend
  rw [hj]
  split <;> rfl

theorem readyDest_handed (j : Fin 32) (d : Nat) (s : State) (o : Order) : readyDest j d (s.handed o) = (readyDest j d s).handed o :=
  changeSend_handed j _ s o

theorem accountLeft_handed (n : Fin 64) (s : State) (o : Order) : accountLeft n (s.handed o) = (accountLeft n s).handed o := by
  unfold accountLeft
  rw [← trigger_handed, ← foldl_handed (fun s e => readyDest_handed e.1 e.2 s o)]
  rfl

theorem putAccount_handed (n : Fin 64) (a : Account) (s : State) (o : Order) : putAccount n a (s.handed o) = (putAccount n a s).handed o := by
  have ha : (s.handed o).account n = s.account n := rfl
  unfold putAccount
  rw [ha]
  split
  · exact report_handed _ (s.setAccount n a) o
  · rfl

theorem orderAccount_handed (n : Fin 64) (a : Account) (s : State) (o : Order) :
    orderAccount n a (s.handed o) = (orderAccount n a s).handed o := by
  have ha : (s.handed o).account n = s.account n := rfl
  unfold orderAccount
  rw [ha, putAccount_handed]
  dsimp only
  split
  · exact accountLeft_handed n _ o
  · rfl

/-! ### SET-ACCOUNT and READ-ACCOUNT (R195, R196) -/

theorem orderAccount_link (n : Fin 64) (a : Account) (s : State) :
    (orderAccount n a s).link = if a.isOver = true ∧ (s.account n).isOver = false then s.link.offer (overReport n a) else s.link := by
  rw [← putAccount_link]
  unfold orderAccount
  dsimp only
  split
  · simp
  · rfl

theorem orderAccount_left {n : Fin 64} {a : Account} {s : State} (h : (s.account n).isOpen = false ∧ a.isOpen = true) :
    orderAccount n a s = accountLeft n (putAccount n a s) := by
  unfold orderAccount
  rw [h.1, h.2]
  rfl

theorem orderAccount_stayed {n : Fin 64} {a : Account} {s : State} (h : ¬((s.account n).isOpen = false ∧ a.isOpen = true)) :
    orderAccount n a s = putAccount n a s := by
  unfold orderAccount
  exact if_neg (by simpa using h)

theorem accountLeft_routes (n : Fin 64) (s : State) :
    (accountLeft n s).routes.passing = true ∧ (accountLeft n s).routes.rerun = (s.routes.rerun || s.routes.passing) := by
  unfold accountLeft
  generalize hu : (pickDests (fun b x => decide (b.account = n ∧ x.state = .held)) s).foldl (fun s e => readyDest e.1 e.2 s) s = u
  have hroutes : u.routes = s.routes := by rw [← hu]; exact foldl_keep State.routes _ (fun _ _ => by simp) _ _
  rw [← hroutes]
  rw [trigger_routes]
  exact ⟨rfl, rfl⟩

theorem accountLeft_dest {n : Fin 64} {s : State} {j : Fin 32} {doc : Fin 64} {b : SendJob} (hj : s.job j = some ⟨doc, .send b, none⟩)
    {d : Nat} {x : Dest} (hx : b.dests[d]? = some x) (hn : b.account = n) (hh : x.state = .held) :
    (accountLeft n s).dest j d = some (x.readied s.clock.elapsed) := by
  unfold accountLeft
  rw [State.dest_congr (trigger_jobs _), readyPicked_dest hj hx, if_pos (decide_eq_true ⟨hn, hh⟩)]

theorem readAccountParams_bytes {n : Fin 64} {limit : Nat} {policy : AccountPolicy} {blocked : Bool} (hl : limit ≤ 16777215)
    (rest : List Byte) :
    readAccountParams.run ((uint 1 n.val ++ uint 3 limit ++ uint 1 policy.code ++ flag blocked) ++ rest) =
      some (⟨n.val, limit, policy.code, blocked⟩, rest) := by
  have hp : policy.code < 2 := by cases policy <;> decide
  unfold readAccountParams
  simp only [List.append_assoc, Reader.run_bind, Reader.run_pure, Option.bind_some, readUint_one_uint (show n.val < 256 by omega),
    readUint_uint 3 limit (by omega), readEnum_uint hp (by decide), readFlag_flag]

theorem readZeroing_bytes {n : Fin 64} {zero : Bool} (rest : List Byte) :
    readZeroing.run ((uint 1 n.val ++ flag zero) ++ rest) = some ((n.val, zero), rest) := by
  unfold readZeroing
  simp only [List.append_assoc, Reader.run_bind, Reader.run_pure, Option.bind_some, readUint_one_uint (show n.val < 256 by omega),
    readFlag_flag]

theorem orderAccount_accounts (n : Fin 64) (a : Account) (s : State) : (orderAccount n a s).accounts = store s.accounts n a := by
  rw [← putAccount_accounts]
  unfold orderAccount
  dsimp only
  split
  · simp
  · rfl

theorem policyOf_code (p : AccountPolicy) : policyOf p.code = p := by
  cases p <;> rfl

theorem Account.isOpen_eq_false (a : Account) : a.isOpen = false ↔ (a.isOver || a.blocked) = true := by
  unfold Account.isOpen
  cases a.isOver <;> cases a.blocked <;> decide

theorem Account.isOpen_eq_true (a : Account) : a.isOpen = true ↔ (a.isOver || a.blocked) = false := by
  unfold Account.isOpen
  cases a.isOver <;> cases a.blocked <;> decide

/-- Settles O28: both orders come to the account's new contents, its report and the news that it has left OVER and BLOCKED. -/
theorem accountOrders : Obligations.AccountOrders := by
  intro s tag n h a result
  have ordered {i : Instr} {code : Byte} {new : Account} {bytes : List Byte}
      (hrun : exec i s = .next ((orderAccount n new s).replied tag code (.done bytes))) : result i code new bytes := by
    have hopen : (s.account n).isOpen = false ∧ new.isOpen = true ↔
        (a.isOver || a.blocked) = true ∧ (new.isOver || new.blocked) = false :=
      and_congr (Account.isOpen_eq_false _) (Account.isOpen_eq_true _)
    refine ⟨_, hrun, orderAccount_accounts n new s, ?_, ?_, by simp [State.replied]⟩
    · exact congrArg (Link.withReply · ⟨tag, code, .done bytes⟩) (orderAccount_link n new s)
    · by_cases hleft : (s.account n).isOpen = false ∧ new.isOpen = true
      · rw [if_pos (hopen.mp hleft), orderAccount_left hleft]
        have hjobs : (putAccount n new s).jobs = s.jobs := by simp
        have hclock : (putAccount n new s).clock = s.clock := by simp
        have hroutes : (putAccount n new s).routes = s.routes := by simp
        refine ⟨fun j b doc d x hj hb hx hh => ?_, ?_⟩
        · have := accountLeft_dest (s := putAccount n new s) (by rw [State.job, hjobs]; exact hj) hx hb hh
          rwa [hclock] at this
        · have := accountLeft_routes n (putAccount n new s)
          rwa [hroutes] at this
      · rw [if_neg (fun hc => hleft (hopen.mpr hc)), orderAccount_stayed hleft]
        exact ⟨(putAccount_frame n new s).2.2.2.2.1, (putAccount_frame n new s).2.2.2.2.2.1⟩
  have kept (new : Account) : (orderAccount n new s).link.inHand = s.link.inHand ∧ (orderAccount n new s).link.orders = s.link.orders := by
    rw [orderAccount_link]
    split <;> simp
  refine ⟨fun limit policy blocked hl => ordered ?_, ordered ?_, ?_⟩
  · refine congrArg Host.Outcome.next (takeOrder_owned h ownerOf_12 (readAccountParams_bytes hl) ?_ (kept _).1 (kept _).2)
    unfold setAccount
    simp only [index?_val, maxTotal, if_neg (Nat.not_lt.mpr hl), policyOf_code]
    exact Prod.ext (orderAccount_handed n _ s _) rfl
  · refine congrArg Host.Outcome.next (takeOrder_owned h ownerOf_13 readZeroing_bytes ?_ (kept _).1 (kept _).2)
    unfold readAccount
    simp only [index?_val, if_true]
    exact Prod.ext (orderAccount_handed n _ s _) rfl
  · refine congrArg Host.Outcome.next (takeOrder_answered h ownerOf_13 readZeroing_bytes ?_)
    unfold readAccount
    simp only [index?_val, Bool.false_eq_true, if_false]
    rfl

/-- Settles O29. -/
theorem takeRecordsTakesOldest : Obligations.TakeRecordsTakesOldest := by
  intro s tag k h n s'
  refine congrArg Host.Outcome.next (takeOrder_done (s' := if s.charges.filled = [] then s' else trigger s') h ownerOf_14
    (fun rest => readUint_one k rest) ?_ ?_)
  · unfold takeRecords
    have hlen : s.charges.filled.length - n = (s.charges.filled.drop n).length := (List.length_drop).symm
    rw [hlen]
    refine Prod.ext ?_ rfl
    show (if s.charges.filled = [] then _ else trigger (s'.handed _)) = _
    rw [trigger_handed]
    split <;> rfl
  · split
    · rfl
    · exact trigger_link s'

end Sys2Proof.Machine
end

section
/-! PROOFS. The orders on lines, and those on documents that read or only mark (O30, O31, O33, O34). -/

namespace Sys2Proof.Machine

/-! ### The state as an owner finds it: what is read of it beside the order in hand -/

section
variable (s : State) (o : Order)

@[simp] theorem State.handed_cfg : (s.handed o).cfg = s.cfg := rfl
@[simp] theorem State.handed_store : (s.handed o).store = s.store := rfl
@[simp] theorem State.handed_jobs : (s.handed o).jobs = s.jobs := rfl
@[simp] theorem State.handed_printer : (s.handed o).printer = s.printer := rfl
@[simp] theorem State.handed_clock : (s.handed o).clock = s.clock := rfl
@[simp] theorem State.handed_channel (c : ChannelNo) : (s.handed o).channel c = s.channel c := rfl
@[simp] theorem State.handed_line (l : LineNo) : (s.handed o).line l = s.line l := rfl
@[simp] theorem State.handed_doc (d : Fin 64) : (s.handed o).doc d = s.doc d := rfl
@[simp] theorem State.handed_page (p : Fin 256) : (s.handed o).page p = s.page p := rfl
@[simp] theorem State.handed_job (j : Fin 32) : (s.handed o).job j = s.job j := rfl

end

/-! ### SET-LINE, RETIRE-LINE, RETURN-LINE and READ-LINE (R121 to R124) -/

theorem Line.retire_eq (x : Line) :
    x.retire = if x.state = .idle then { x with state := .retired } else if x.state = .retired then x else { x with retiring := true } := by
  unfold Line.retire
  cases h : x.state <;> rfl

theorem Line.return_eq (x : Line) :
    x.return = if x.state = .retired then { x with state := .idle } else { x with retiring := false } := by
  unfold Line.return
  cases h : x.state <;> rfl

theorem Line.returns_iff (x : Line) : x.returns = true ↔ x.state = .retired ∨ x.retiring = true := by
  unfold Line.returns
  rw [Bool.or_eq_true, decide_eq_true_eq]

theorem readSettings_bytes {l : LineNo} {after copies : Byte} {auto : Bool} {priority : Fin 4} (rest : List Byte) :
    readSettings.run ((uint 1 l.val ++ [after, copies] ++ flag auto ++ uint 1 priority.val) ++ rest) =
      some ((l.val, ⟨after.toNat, copies.toNat, auto, priority.val⟩), rest) := by
  unfold readSettings
  simp only [List.append_assoc, List.cons_append, List.nil_append, Reader.run_bind, Reader.run_pure, Option.bind_some,
    readUint_one_uint (show l.val < 256 by omega), readUint_one, readFlag_flag, readUint_one_uint (show priority.val < 256 by omega)]

/-- The presence bytes of READ-LINE that depend on the line's state (R124). -/
theorem Line.stateBytes_eq (x : Line) :
    x.stateBytes =
      (if x.state = .dialing then (1 :: uint 1 x.part.code) ++ (1 :: uint 1 x.position) else [0, 0]) ++
      (if x.state = .ringing then (1 :: uint 1 x.rings) ++ (1 :: flag x.refused) else [0, 0]) ++
      (if x.state = .releasing then 1 :: uint 1 ((x.guard + 7999) / 8000) else [0]) := by
  unfold Line.stateBytes fieldIf
  cases h : x.state <;> simp

/-- The bytes of READ-LINE that tell an outgoing call (R124). -/
theorem Line.outgoingBytes_eq (x : Line) :
    x.outgoingBytes = match x.admission with
      | none => [0, 0, 0, 0, 0, 0, 0]
      | some a => (1 :: uint 1 a.job.val) ++ (1 :: uint 1 a.dest) ++ (1 :: symbols a.number) ++ (1 :: uint 1 a.entry.val) ++
          (1 :: uint 1 a.zone.val) ++ (1 :: uint 1 a.profile.val) ++ (1 :: flag x.answered) := by
  unfold Line.outgoingBytes
  cases x.admission <;> rfl

/-- Settles O30. -/
theorem lineOrders : Obligations.LineOrders := by
  intro s tag l h x
  have hread (rest : List Byte) : (readUint 1).run (uint 1 l.val ++ rest) = some (l.val, rest) := readUint_one_uint (by omega) rest
  refine ⟨fun after copies auto priority => ?_, ?_, ?_, ?_⟩
  · refine congrArg Host.Outcome.next (takeOrder_done h ownerOf_15 readSettings_bytes ?_ rfl)
    unfold setLineSettings
    simp only [index?_val, clamp_eq, Nat.zero_max, if_neg (show ¬3 < priority.val by omega)]
    rfl
  · rw [← Line.retire_eq x]
    refine congrArg Host.Outcome.next (takeOrder_done h ownerOf_16 hread ?_ rfl)
    unfold retireLine
    rw [index?_val]
    rfl
  · rw [← Line.return_eq x]
    refine congrArg Host.Outcome.next (takeOrder_done (s' := if x.state = .retired ∨ x.retiring = true then trigger (s.setLine l x.return)
      else s.setLine l x.return) h ownerOf_17 hread ?_ ?_)
    · unfold returnLine
      rw [index?_val]
      show done _ (if x.returns = true then trigger ((s.setLine l x.return).handed _) else _) = _
      rw [trigger_handed]
      by_cases hr : x.state = .retired ∨ x.retiring = true
      · rw [if_pos hr, if_pos ((Line.returns_iff x).mpr hr)]
        rfl
      · rw [if_neg hr, if_neg (fun hc => hr ((Line.returns_iff x).mp hc))]
        rfl
    · split
      · exact trigger_link _
      · rfl
  · refine (congrArg Host.Outcome.next (takeOrder_answered (ans := .done x.bytes) h ownerOf_18 hread ?_)).trans ?_
    · unfold readLine
      rw [index?_val]
      rfl
    · refine congrArg (fun bs => Host.Outcome.next (s.replied tag 18 (.done bs))) ?_
      unfold Line.bytes
      rw [Line.stateBytes_eq, Line.outgoingBytes_eq]
      unfold Line.retireBytes LineSettings.bytes
      simp only [List.append_assoc]
      have hreason : present (fun r => uint 1 r.code) x.lastReason = match x.lastReason with | none => [0] | some r => 1 :: uint 1 r.code := by
        cases x.lastReason <;> rfl
      have hreceive (rest : List Byte) : present (fun r => uint 1 r.1.val) x.receive ++ (present (fun r => uint 1 r.2.val) x.receive ++ rest) =
          (match x.receive with | none => [0, 0] | some (j, d) => (1 :: uint 1 j.val) ++ (1 :: uint 1 d.val)) ++ rest := by
        cases x.receive with
        | none => rfl
        | some r => simp [present]
      rw [hreason, hreceive]
      rcases x.direction with _ | _ | _ <;> rfl

/-! ### OPEN-DOCUMENT and CLOSE-DOCUMENT (R21, R22) -/

/-- The lowest index at which a test holds. -/
theorem find?_indices {n : Nat} {p : Fin n → Bool} {i : Fin n} (hi : p i = true) (hlow : ∀ k, k < i → p k = false) :
    (indices n).find? p = some i := by
  rw [List.find?_eq_some_iff_getElem]
  refine ⟨hi, i.val, by simp [indices], by simp [indices], fun k hk => ?_⟩
  have hkn : k < n := Nat.lt_trans hk i.isLt
  have : p ⟨k, hkn⟩ = false := hlow ⟨k, hkn⟩ hk
  simpa [indices] using this

theorem channelOf_stationOf (c : ChannelNo) : channelOf (c.val + 2) = some c := by
  simp [channelOf]

/-- With the news heard by nobody, a document that has slots is closed by its binding and its record alone. -/
theorem closeScanned_unheard {s u : State} {d : Fin 64} {c : ChannelNo}
    (hu : ({ s.setChannel c { s.channel c with binding := (s.channel c).closedBinding } with
      store := (s.setChannel c { s.channel c with binding := (s.channel c).closedBinding }).store.changeDoc d
        (fun x => { x with isOpen := false, closePending := false }) } : State) = u) (hq : u.quiet) (he : docEmpty d u = false) :
    closeScanned c d s = u := by
  unfold closeScanned
  dsimp only at hu ⊢
  rw [hu, documentNews_quiet hq, he]
  exact printerLook_noPrinting hq.1

theorem closeScanned_quiet {s : State} (h : s.quiet) {d : Fin 64} {x : Document} {c : ChannelNo} (hd : s.doc d = some x)
    (hpending : x.closePending = false) (hslots : x.slots ≠ []) (hbound : (s.channel c).binding = .bound d) :
    closeScanned c d s = (s.setDoc d (some { x with isOpen := false })).setChannel c
      { s.channel c with binding := if (s.channel c).replacement = .none then .unbound else .replaceOnly d } := by
  have hbinding : (s.channel c).closedBinding = if (s.channel c).replacement = .none then .unbound else .replaceOnly d := by
    unfold Channel.closedBinding
    rw [hbound]
    cases (s.channel c).replacement <;> rfl
  have hx : fetch s.store.docs d = some x := hd
  have hdoc : change s.store.docs d (Option.map fun x => { x with isOpen := false, closePending := false }) =
      store s.store.docs d (some { x with isOpen := false }) := by
    unfold change
    rw [hx, Option.map_some, ← hpending]
  refine closeScanned_unheard ?_ (State.quiet_congr h rfl rfl rfl rfl) ?_
  · rw [hbinding]
    unfold Store.changeDoc
    dsimp only [State.setChannel_store]
    rw [hdoc]
    rfl
  · unfold docEmpty
    have hdu : ((s.setDoc d (some { x with isOpen := false })).setChannel c
        { s.channel c with binding := if (s.channel c).replacement = .none then .unbound else .replaceOnly d }).doc d =
        some { x with isOpen := false } := by simp [State.doc, State.setDoc]
    rw [hdu]
    simp [hslots]

theorem Document.channel_scanned {x : Document} {c : ChannelNo} (h : x.kind = .scanned c) : x.channel = some c := by
  unfold Document.channel
  rw [h]

/-- Settles O31. -/
theorem openAndCloseDocument : Obligations.OpenAndCloseDocument := by
  intro s tag h
  refine ⟨fun c d hb hd hlow => ?_, fun d x c hd hk => ?_⟩
  · refine congrArg Host.Outcome.next (takeOrder_done h ownerOf_19 (readUint_one_uint (show c.val + 2 < 256 by omega)) ?_ rfl)
    have hfree : s.store.freeDoc = some d := find?_indices hd (fun k hk => by
      rw [← Option.not_isSome]
      exact congrArg not (hlow k hk))
    unfold openDocument
    simp only [channelOf_stationOf, State.handed_channel, State.handed_store, hb, ne_eq, not_true, if_false, hfree]
    rfl
  · have closed {s' : State} (hown : closeDocument d.val (s.handed ⟨tag, 20, uint 1 d.val⟩) = done [] (s'.handed ⟨tag, 20, uint 1 d.val⟩))
        (hl : s'.link = s.link) : exec (.closeDocument tag (uint 1 d.val)) s = .next (s'.replied tag 20 (.done [])) :=
      congrArg Host.Outcome.next (takeOrder_done h ownerOf_20 (readUint_one_uint (show d.val < 256 by omega)) hown hl)
    have hstart (o : Order) : closeDocument d.val (s.handed o) =
        if x.isOpen = false ∨ x.closePending = true then done [] (s.handed o)
        else if (s.channel c).inProgress then done [] ((s.handed o).setDoc d (some { x with closePending := true }))
        else done [] (closeScanned c d (s.handed o)) := by
      have hd' : (s.handed o).doc d = some x := hd
      unfold closeDocument
      simp only [index?_val, hd', Document.channel_scanned hk]
      rfl
    refine ⟨fun hc => ?_, fun h1 h2 h3 => ?_, fun h1 h2 h3 hq hs hb => ?_⟩
    · exact closed ((hstart _).trans (if_pos hc)) rfl
    · have hc : ¬(x.isOpen = false ∨ x.closePending = true) := by simp [h1, h2]
      have hp : (s.channel c).inProgress = true := by simp [Channel.inProgress, h3]
      refine closed ((hstart _).trans ?_) rfl
      rw [if_neg hc, if_pos hp]
      rfl
    · have hc : ¬(x.isOpen = false ∨ x.closePending = true) := by simp [h1, h2]
      have hp : (s.channel c).inProgress = false := by simp [Channel.inProgress, h3]
      refine closed ((hstart _).trans ?_) rfl
      rw [if_neg hc, hp, closeScanned_quiet (s := s.handed _) (State.quiet_congr hq rfl rfl rfl rfl) hd h2 hs hb]
      rfl

/-! ### READ-STORE, READ-DOCUMENT and READ-JOB (R24, R25, R88, R159) -/

/-- Settles O33. -/
theorem readStoreReplies : Obligations.ReadStoreReplies :=
  fun _ _ h => congrArg Host.Outcome.next (takeOrder_answered h ownerOf_28 (fun _ => rfl) rfl)

theorem readPair_bytes {a b : Nat} (ha : a < 256) (hb : b < 256) (rest : List Byte) :
    readPair.run ((uint 1 a ++ uint 1 b) ++ rest) = some ((a, b), rest) := by
  unfold readPair
  simp only [List.append_assoc, Reader.run_bind, Reader.run_pure, Option.bind_some, readUint_one_uint ha, readUint_one_uint hb]

/-- The replacement of a document as READ-DOCUMENT tells it (R24). -/
theorem replacement_bytes (d : Fin 64) (s : State) :
    present (fun q => uint 1 q.1) (replacementOf d s) ++ present (fun q => uint 1 q.val) ((replacementOf d s).bind (fun q => q.2)) =
      (allChannels.findSome? (fun c => match (s.channel c).replacement with
        | .none => none
        | .pending e k => if e = d then some ((1 :: uint 1 k) ++ [0]) else none
        | .filling e k p => if e = d then some ((1 :: uint 1 k) ++ (1 :: uint 1 p.val)) else none)).getD [0, 0] := by
  have hmap : (allChannels.findSome? (fun c => match (s.channel c).replacement with
        | .none => none
        | .pending e k => if e = d then some ((1 :: uint 1 k) ++ [0]) else none
        | .filling e k p => if e = d then some ((1 :: uint 1 k) ++ (1 :: uint 1 p.val)) else none)) =
      (replacementOf d s).map (fun q => (1 :: uint 1 q.1) ++ present (fun p => uint 1 p.val) q.2) := by
    unfold replacementOf
    rw [List.map_findSome?]
    congr 1
    funext c
    dsimp only [Function.comp]
    cases (s.channel c).replacement with
    | none => rfl
    | pending e k => by_cases he : e = d <;> simp [he, present]
    | filling e k p => by_cases he : e = d <;> simp [he, present]
  rw [hmap]
  cases replacementOf d s <;> rfl

theorem Dest.bytes_eq (y : Dest) :
    y.bytes = symbols y.number ++ uint 1 y.state.code ++ uint 1 y.attempts ++
      (match y.state, y.eligible with | .queued, some e => 1 :: uint 4 e.toNat | _, _ => [0]) ++ uint 4 y.ready.toNat ++
      (match y.state, y.line with | .onLine, some l => 1 :: uint 1 l.val | _, _ => [0]) ++ uint 1 y.next ++
      (match y.reason with | some r => 1 :: uint 1 r.code | none => [0]) ++ flag y.oldVersion := by
  have heligible : present (fun t : BitVec 32 => uint 4 t.toNat) (if y.state = .queued then y.eligible else none) =
      match y.state, y.eligible with | .queued, some e => 1 :: uint 4 e.toNat | _, _ => [0] := by
    cases y.state <;> cases y.eligible <;> rfl
  have hline : present (fun l : LineNo => uint 1 l.val) (if y.state = .onLine then y.line else none) =
      match y.state, y.line with | .onLine, some l => 1 :: uint 1 l.val | _, _ => [0] := by
    cases y.state <;> cases y.line <;> rfl
  have hreason : present (fun r : Reason => uint 1 r.code) y.reason = match y.reason with | some r => 1 :: uint 1 r.code | none => [0] := by
    cases y.reason <;> rfl
  unfold Dest.bytes
  rw [heligible, hline, hreason]

/-- Settles O34. -/
theorem readDocumentAndJob : Obligations.ReadDocumentAndJob := by
  intro s tag k first h hk hf
  have doc {ans : Answer} (hown : readDocument (k, first) (s.handed ⟨tag, 23, uint 1 k ++ uint 1 first⟩) =
      (s.handed ⟨tag, 23, uint 1 k ++ uint 1 first⟩, ans)) :
      exec (.readDocument tag (uint 1 k ++ uint 1 first)) s = .next (s.replied tag 23 ans) :=
    congrArg Host.Outcome.next (takeOrder_answered h ownerOf_23 (readPair_bytes hk hf) hown)
  have job {ans : Answer} (hown : readJob (k, first) (s.handed ⟨tag, 27, uint 1 k ++ uint 1 first⟩) =
      (s.handed ⟨tag, 27, uint 1 k ++ uint 1 first⟩, ans)) :
      exec (.readJob tag (uint 1 k ++ uint 1 first)) s = .next (s.replied tag 27 ans) :=
    congrArg Host.Outcome.next (takeOrder_answered h ownerOf_27 (readPair_bytes hk hf) hown)
  refine ⟨fun hout => doc ?_, fun d hd hle => doc ?_, fun hout => job ?_, fun j hj hle => job ?_⟩
  · unfold readDocument
    by_cases h64 : k < 64
    · have hidx : index? 64 k = some ⟨k, h64⟩ := dif_pos h64
      simp only [hidx]
      exact if_pos (by omega)
    · simp only [index?_none (show 64 ≤ k by omega)]
      rfl
  · subst hd
    unfold readDocument
    simp only [index?_val, if_neg (Nat.not_lt.mpr hle), State.handed_doc]
    cases hx : s.doc d with
    | none => rfl
    | some x =>
      refine Prod.ext rfl (congrArg Answer.done ?_)
      unfold documentBytes
      rw [List.append_assoc _ (present _ _) (present _ _), replacement_bytes]
      refine congrArg₂ (· ++ ·) (congrArg₂ (· ++ ·) (congrArg₂ (· ++ ·) ?_ rfl) rfl) rfl
      cases hkind : x.kind with
      | scanned c =>
        rw [Document.channel_scanned hkind, show x.line = none by unfold Document.line; rw [hkind]]
        simp [present, fieldIf, stationOf, uint_one, byteOf]
      | received l =>
        rw [show x.channel = none by unfold Document.channel; rw [hkind], show x.line = some l by unfold Document.line; rw [hkind]]
        simp [present, fieldIf, uint_one, byteOf]
  · unfold readJob
    by_cases h32 : k < 32
    · have hidx : index? 32 k = some ⟨k, h32⟩ := dif_pos h32
      simp only [hidx]
      exact if_pos (by omega)
    · simp only [index?_none (show 32 ≤ k by omega)]
      rfl
  · subst hj
    unfold readJob
    simp only [index?_val, if_neg (Nat.not_lt.mpr hle), State.handed_job]
    cases hx : s.job j with
    | none => rfl
    | some x =>
      refine Prod.ext rfl (congrArg Answer.done ?_)
      unfold jobTail
      simp only [State.handed_jobs, State.handed_printer]
      cases x.body with
      | send b =>
        rw [funext Dest.bytes_eq]
        simp only [JobBody.kindCode, JobBody.fields, JobBody.asSend, JobBody.asPrint, JobBody.asReceive, JobBody.priority?, present, fieldIf,
          Option.bind_none, Option.isSome_none, Bool.false_and, Bool.false_eq_true, if_false, List.append_assoc, List.cons_append,
          List.nil_append]
        rfl
      | print b =>
        by_cases hnow : s.printer.phase = .printing ∧ s.printer.job = some j
        · simp only [JobBody.kindCode, JobBody.fields, JobBody.asSend, JobBody.asPrint, JobBody.asReceive, JobBody.priority?, present, fieldIf,
            Option.bind_none, Option.isSome_some, Bool.true_and, decide_true, hnow, and_self, if_true, List.append_assoc, List.cons_append,
            List.nil_append]
          rfl
        · simp only [JobBody.kindCode, JobBody.fields, JobBody.asSend, JobBody.asPrint, JobBody.asReceive, JobBody.priority?, present, fieldIf,
            Option.bind_none, Option.isSome_some, Bool.true_and, decide_false, hnow, Bool.false_eq_true, if_false, List.append_assoc, List.cons_append,
            List.nil_append]
          rfl
      | receive b =>
        have hresult : present (fun r : Reason => uint 1 r.code) b.result = match b.result with | some r => 1 :: uint 1 r.code | none => [0] := by
          cases b.result <;> rfl
        simp only [JobBody.kindCode, JobBody.fields, JobBody.asSend, JobBody.asPrint, JobBody.asReceive, JobBody.priority?, Option.bind_some, hresult]
        simp only [present, fieldIf, Option.isSome_none, Bool.false_and, Bool.false_eq_true, if_false, List.append_assoc, List.cons_append,
          List.nil_append]
        rfl

end Sys2Proof.Machine
end

section
/-! PROOFS. REPLACE-PAGE and RELEASE-DOCUMENT (O32), with what becomes of pages that are looked at in turn. -/

namespace Sys2Proof.Machine

/-! ### Pages looked at in turn (R17) -/

/-- A page that becomes FREE when it is looked at (R17). -/
def Store.leaves (st : Store) (p : Fin 256) : Bool :=
  decide (((fetch st.pages p).state = .sealed ∨ (fetch st.pages p).state = .void) ∧ (fetch st.pages p).mapped = false ∧
    st.claimCount p = 0)

theorem Store.settle_leaves {st : Store} {p : Fin 256} (h : st.leaves p = true) :
    st.settle p = { st with pages := Machine.store st.pages p .blank, freeList := st.freeList ++ (fetch st.pages p).chain } :=
  if_pos (of_decide_eq_true h)

theorem Store.settle_stays {st : Store} {p : Fin 256} (h : st.leaves p = false) : st.settle p = st :=
  if_neg (of_decide_eq_false h)

theorem Store.leaves_of_page {st u : Store} {p : Fin 256} (hp : fetch u.pages p = fetch st.pages p) (hc : u.claims = st.claims) :
    u.leaves p = st.leaves p := by
  unfold Store.leaves Store.claimCount
  rw [hp, hc]

theorem Store.settle_leaves_ne (st : Store) {p q : Fin 256} (h : p ≠ q) : (st.settle q).leaves p = st.leaves p :=
  Store.leaves_of_page (st.settle_page_ne h) (st.settle_frame q).2.2

/-- A page that was looked at is not freed again. -/
theorem Store.settle_leaves_same (st : Store) (p : Fin 256) : (st.settle p).leaves p = false := by
  cases h : st.leaves p with
  | true =>
    rw [Store.settle_leaves h]
    simp [Store.leaves, Page.blank]
  | false => rw [Store.settle_stays h, h]

theorem Store.settle_page_same (st : Store) (p : Fin 256) :
    fetch (st.settle p).pages p = if st.leaves p then Page.blank else fetch st.pages p := by
  cases h : st.leaves p with
  | true =>
    rw [Store.settle_leaves h]
    simp
  | false =>
    rw [Store.settle_stays h]
    simp

theorem Store.settleAll_page (st : Store) (ps : List (Fin 256)) (p : Fin 256) :
    fetch (st.settleAll ps).pages p = if p ∈ ps ∧ st.leaves p = true then Page.blank else fetch st.pages p := by
  induction ps generalizing st with
  | nil => simp [Store.settleAll]
  | cons q ps ih =>
    refine (ih (st.settle q)).trans ?_
    by_cases hp : p = q
    · subst hp
      rw [Store.settle_leaves_same, Store.settle_page_same]
      simp
    · rw [Store.settle_leaves_ne st hp, st.settle_page_ne hp]
      simp [hp]

theorem Store.settleAll_freeList_eq {st : Store} {ps : List (Fin 256)} (hd : ps.Nodup) :
    (st.settleAll ps).freeList = st.freeList ++ ps.flatMap (fun p => if st.leaves p then (fetch st.pages p).chain else []) := by
  induction ps generalizing st with
  | nil => simp [Store.settleAll]
  | cons q ps ih =>
    obtain ⟨hq, hd⟩ := List.nodup_cons.mp hd
    have hsame : ps.flatMap (fun p => if (st.settle q).leaves p then (fetch (st.settle q).pages p).chain else []) =
        ps.flatMap (fun p => if st.leaves p then (fetch st.pages p).chain else []) := by
      refine List.flatMap_congr fun p hp => ?_
      have hne : p ≠ q := fun e => hq (e ▸ hp)
      rw [Store.settle_leaves_ne st hne, st.settle_page_ne hne]
    refine (ih (st := st.settle q) hd).trans ?_
    rw [hsame, List.flatMap_cons, ← List.append_assoc]
    congr 1
    cases h : st.leaves q with
    | true => rw [Store.settle_leaves h]; rfl
    | false => rw [Store.settle_stays h]; simp

/-! ### A document freed (R11) -/

/-- A page whose place is gone. -/
def Page.unmapped (g : Page) : Page := { g with mapped := false, place := none }

theorem fetch_foldl_unmapped (ps : List (Fin 256)) (pages : Table Page 256) (p : Fin 256) :
    fetch (ps.foldl (fun t p => change t p (fun g => { g with mapped := false, place := none })) pages) p =
      if p ∈ ps then (fetch pages p).unmapped else fetch pages p := by
  induction ps generalizing pages with
  | nil => simp
  | cons q ps ih =>
    rw [List.foldl_cons, ih, fetch_change]
    by_cases hp : p = q
    · subst hp
      simp [Page.unmapped]
    · simp [hp]

/-- The store with a document's slots unmapped and its record free, before its pages are looked at (R11). -/
def Store.withoutDocument (st : Store) (d : Fin 64) (slots : List (Fin 256)) : Store :=
  { st with pages := slots.foldl (fun t p => change t p (fun g => { g with mapped := false, place := none })) st.pages,
            docs := Machine.store st.docs d none }

/-- A document that is released and has no job is freed: its pages are unmapped and looked at (R11, R23). -/
theorem Store.released_freed {st : Store} {d : Fin 64} {x : Document} (hd : fetch st.docs d = some x) (hj : x.jobCount = 0) :
    (st.changeDoc d (fun x => { x with released := true })).freeIfDone d = (st.withoutDocument d x.slots).settleAll x.slots := by
  have hx : fetch (st.changeDoc d (fun x => { x with released := true })).docs d = some { x with released := true } := by
    simp [Store.changeDoc, hd]
  unfold Store.freeIfDone
  rw [hx]
  dsimp only
  rw [if_pos ⟨rfl, hj⟩]
  unfold Store.freeDocument
  rw [hx]
  simp [Store.withoutDocument, Store.changeDoc, change]

theorem Store.released_kept {st : Store} {d : Fin 64} {x : Document} (hd : fetch st.docs d = some x) (hj : 0 < x.jobCount) :
    (st.changeDoc d (fun x => { x with released := true })).freeIfDone d =
      { st with docs := Machine.store st.docs d (some { x with released := true }) } := by
  have hx : fetch (st.changeDoc d (fun x => { x with released := true })).docs d = some { x with released := true } := by
    simp [Store.changeDoc, hd]
  unfold Store.freeIfDone
  rw [hx]
  dsimp only
  rw [if_neg (fun h => Nat.ne_of_gt hj h.2)]
  simp [Store.changeDoc, change, hd]

theorem Store.withoutDocument_page {st : Store} {d : Fin 64} {slots : List (Fin 256)} (p : Fin 256) :
    fetch (st.withoutDocument d slots).pages p = if p ∈ slots then (fetch st.pages p).unmapped else fetch st.pages p :=
  fetch_foldl_unmapped slots st.pages p

theorem Store.withoutDocument_leaves {st : Store} {d : Fin 64} {slots : List (Fin 256)} {p : Fin 256} (hp : p ∈ slots) :
    (st.withoutDocument d slots).leaves p =
      decide (((fetch st.pages p).state = .sealed ∨ (fetch st.pages p).state = .void) ∧ st.claimCount p = 0) := by
  have hc : (st.withoutDocument d slots).claimCount p = st.claimCount p := rfl
  unfold Store.leaves
  rw [Store.withoutDocument_page, if_pos hp, hc]
  simp [Page.unmapped]

/-! ### REPLACE-PAGE and RELEASE-DOCUMENT (R18, R23) -/

theorem withStore_store (f : Store → Store) (s : State) : (withStore f s).store = f s.store := by
  unfold withStore
  dsimp only
  split
  · simp
  · rfl

theorem replacing_eq_false {d : Fin 64} {s : State}
    (h : ∀ (c : ChannelNo) (e : Fin 64) (k : Nat) (p : Fin 256), (s.channel c).replacement = .pending e k ∨
      (s.channel c).replacement = .filling e k p → e ≠ d) : replacing d s = false := by
  unfold replacing
  rw [List.any_eq_false]
  intro c _
  have hc := h c
  cases hr : (s.channel c).replacement with
  | none => simp
  | pending e k => simpa using hc e k 0 (.inl hr)
  | filling e k p => simpa using hc e k p (.inr hr)

/-- What RELEASE-DOCUMENT leaves of the state is what the document's release leaves, with the reply given. -/
theorem exec_releaseDocument {s : State} {tag : Tag} (h : s.takesOrder tag) {d : Fin 64} {x : Document} (hd : s.doc d = some x)
    (ho : x.isOpen = false) (hp : x.closePending = false) (hr : replacing d s = false) :
    exec (.releaseDocument tag (uint 1 d.val)) s = .next (answerOrder ⟨tag, 22, uint 1 d.val⟩
      (done [] (if x.released then s.handed ⟨tag, 22, uint 1 d.val⟩ else releaseDoc d (s.handed ⟨tag, 22, uint 1 d.val⟩)))) := by
  refine congrArg Host.Outcome.next ((takeOrder_taken h 22 _).trans (congrArg _ ?_))
  rw [ownerOf_22, checked_some (readAll_of_run (readUint_one_uint (show d.val < 256 by omega)))]
  have hr' : replacing d (s.handed ⟨tag, 22, uint 1 d.val⟩) = false := hr
  unfold releaseDocument
  simp only [index?_val, State.handed_doc, hd, ho, hp, hr', Bool.false_eq_true, or_self, if_false]
  split <;> rfl

/-- Settles O32. -/
theorem replaceAndReleaseDocument : Obligations.ReplaceAndReleaseDocument := by
  intro s tag d x h hd
  refine ⟨fun c k p hk hkind hslot hrel hfill hrep hb => ?_, fun ho hp hr => ?_⟩
  · refine congrArg Host.Outcome.next (takeOrder_done h ownerOf_21 (readPair_bytes (show d.val < 256 by omega) (show k < 256 by omega)) ?_ rfl)
    have hbar : replaceBarred x d (s.channel c) (s.page p) = false := by
      unfold replaceBarred
      simp only [hrel, hfill, hrep, decide_false, Bool.or_self, Bool.false_or, ne_eq, not_true]
      rcases hb with hb | hb | hb <;> simp [hb, Binding.doc?]
    unfold replacePage
    simp only [index?_val, if_neg (Nat.not_lt.mpr hk), State.handed_doc, hd, hslot, Document.channel_scanned hkind, State.handed_channel,
      State.handed_page, hbar, Bool.false_eq_true, if_false]
    rfl
  · have hrun := exec_releaseDocument h hd ho hp (replacing_eq_false hr)
    refine ⟨fun hrel => ?_, fun hrel hj => ?_, fun hrel hj => ?_⟩
    · rw [hrun, if_pos hrel]
      exact congrArg Host.Outcome.next (answerOrder_handed h 22 _ _)
    · rw [hrun, hrel, if_neg Bool.false_ne_true]
      have hkept := Store.released_kept (st := s.store) hd hj
      have hdoc : releaseDoc d (s.handed ⟨tag, 22, uint 1 d.val⟩) =
          (s.setDoc d (some { x with released := true })).handed ⟨tag, 22, uint 1 d.val⟩ := by
        unfold releaseDoc
        rw [withStore_same _ _ (by rw [State.handed_store, hkept]), State.handed_store, hkept]
        rfl
      rw [hdoc]
      exact congrArg Host.Outcome.next (answerOrder_handed (s := s.setDoc d (some { x with released := true })) h 22 _ _)
    · rw [hrel, if_neg Bool.false_ne_true] at hrun
      generalize hu : releaseDoc d (s.handed ⟨tag, 22, uint 1 d.val⟩) = u at hrun
      have hstore : u.store = (s.store.withoutDocument d x.slots).settleAll x.slots := by
        rw [← hu, ← Store.released_freed hd hj]
        exact withStore_store _ _
      have hdocs : u.store.docs = store s.store.docs d none := by
        rw [hstore]
        exact (Store.settleAll_frame _ _).2.1
      have hpage (p : Fin 256) : u.page p = if p ∈ x.slots then
            if (s.store.withoutDocument d x.slots).leaves p = true then Page.blank else (s.page p).unmapped
          else s.page p := by
        unfold State.page
        rw [hstore, Store.settleAll_page, Store.withoutDocument_page]
        by_cases hm : p ∈ x.slots
        · simp only [hm, true_and, if_true]
        · simp only [hm, false_and, if_false]
      refine ⟨_, hrun, ?_, fun e he => ?_, fun p hm hs hc => ?_, fun p hm hc => ?_, fun p hm => ?_, fun hn => ?_, ?_, ?_, ?_, ?_, ?_⟩
      · show fetch u.store.docs d = none
        rw [hdocs, fetch_store_same]
      · show fetch u.store.docs e = s.doc e
        rw [hdocs, fetch_store_ne _ _ he]
        rfl
      · refine (hpage p).trans ?_
        rw [if_pos hm, if_pos]
        rw [Store.withoutDocument_leaves hm]
        exact decide_eq_true ⟨.inl hs, hc⟩
      · refine (hpage p).trans ?_
        rw [if_pos hm, if_neg]
        · rfl
        · rw [Store.withoutDocument_leaves hm]
          exact fun hl => Nat.ne_of_gt hc (of_decide_eq_true hl).2
      · exact (hpage p).trans (if_neg hm)
      · show u.store.freeList = _
        rw [hstore, Store.settleAll_freeList_eq hn]
        refine congrArg (s.store.freeList ++ ·) (List.flatMap_congr fun p hm => ?_)
        rw [Store.withoutDocument_leaves hm, Store.withoutDocument_page, if_pos hm]
        simp only [decide_eq_true_eq]
        rfl
      · show u.store.mem = s.store.mem
        rw [hstore, Store.settleAll_mem]
        rfl
      · show u.store.claims = s.store.claims
        rw [hstore]
        exact (Store.settleAll_frame _ _).2.2
      · show u.jobs = s.jobs
        rw [← hu]
        exact (releaseDoc_frame _ _).2.2.1
      · show u.lines = s.lines
        rw [← hu]
        simp
        rfl
      · show u.accounts = s.accounts
        rw [← hu]
        simp
        rfl

end Sys2Proof.Machine
end

section
/-! PROOFS. The orders that create and cancel jobs (O35 to O37). -/

namespace Sys2Proof.Machine

/-! ### A job created (R65, R68, R81) -/

/-- The claims that a holder takes on the slots of a document as it stands (R14). -/
def Document.claims (x : Document) (d : Fin 64) (h : Holder) : List Claim :=
  x.slots.zipIdx.map (fun e => ⟨h, d, e.2, e.1, false, false⟩)

theorem claimReady_foldl {j : Fin 32} {d : Fin 64} {x : Document} {es : List (Dest × Nat)} (hr : ∀ e ∈ es, e.1.state = .ready)
    {st : Store} (hd : fetch st.docs d = some x) :
    es.foldl (claimReady j d) st = { st with claims := st.claims ++ es.flatMap (fun e => x.claims d (.dest j e.2)) } := by
  induction es generalizing st with
  | nil => simp
  | cons e es ih =>
    have hclaim : claimReady j d st e = { st with claims := st.claims ++ x.claims d (.dest j e.2) } := by
      unfold claimReady Store.claimDocument
      rw [if_pos (hr e (by simp)), hd]
      rfl
    rw [List.foldl_cons, hclaim, ih (fun f hf => hr f (by simp [hf]))]
    · simp [List.append_assoc]
    · exact hd

theorem flatMap_zipIdx_snd {α β : Type} (l : List α) (f : Nat → List β) :
    l.zipIdx.flatMap (fun e => f e.2) = (List.range l.length).flatMap f := by
  have hsnd : l.zipIdx.map Prod.snd = List.range l.length := by rw [List.zipIdx_map_snd, List.range_eq_range']
  rw [← hsnd, List.flatMap_map]

theorem reportFailed_foldl {j : Fin 32} {es : List (Dest × Nat)} (hr : ∀ e ∈ es, e.1.state = .ready) (s : State) :
    es.foldl (reportFailed j) s = s := by
  induction es generalizing s with
  | nil => rfl
  | cons e es ih =>
    have h : reportFailed j s e = s := by
      unfold reportFailed
      rw [hr e (by simp)]
      rfl
    rw [List.foldl_cons, h, ih (fun f hf => hr f (by simp [hf]))]

/-- The state with a send job created of READY destinations, before the arbiter is told (R65, R68). -/
def State.withSend (s : State) (j : Fin 32) (d : Fin 64) (x : Document) (b : SendJob) : State :=
  { s with
    jobs := { s.jobs with slots := Machine.store s.jobs.slots j (some ⟨d, .send b, none⟩), order := s.jobs.order ++ [j] },
    store := { s.store with
      docs := Machine.store s.store.docs d (some { x with jobCount := x.jobCount + 1 }),
      claims := s.store.claims ++ (List.range b.dests.length).flatMap (fun k => x.claims d (.dest j k)) },
    routes := { s.routes with candidates := s.routes.candidates.filter (fun c => decide (c.1 ≠ j)) },
    freeCount := s.freeCount + b.dests.length }

theorem filter_ne_of_not_mem {α : Type} [DecidableEq α] {l : List α} {a : α} (h : a ∉ l) :
    l.filter (fun k => decide (k ≠ a)) = l := by
  rw [List.filter_eq_self]
  exact fun k hk => decide_eq_true fun e => h (e ▸ hk)

theorem changeDoc_some {st : Store} {d : Fin 64} {x : Document} (hd : fetch st.docs d = some x) (f : Document → Document) :
    st.changeDoc d f = { st with docs := Machine.store st.docs d (some (f x)) } := by
  unfold Store.changeDoc change
  rw [hd, Option.map_some]

theorem createSend_ready {s : State} {j : Fin 32} {d : Fin 64} {x : Document} {b : SendJob} (hd : s.doc d = some x)
    (hj : j ∉ s.jobs.order) (hr : ∀ y ∈ b.dests, y.state = .ready) (hne : b.dests ≠ []) :
    createSend j d b s = trigger (s.withSend j d x b) := by
  have hes : ∀ e ∈ b.dests.zipIdx, e.1.state = .ready := fun e he => hr e.1 (List.fst_mem_of_mem_zipIdx he)
  obtain ⟨y, ys, hys⟩ := List.exists_cons_of_ne_nil hne
  have hy : y.state = .ready := hr y (by simp [hys])
  have hany : b.dests.any (fun x => decide (x.state = .ready)) = true := by simp [hys, hy]
  have hall : b.dests.all (fun d => d.state.isFinal) = false := by simp [hys, hy, DestState.isFinal]
  generalize hu : s.withSend j d x b = u
  have hsend : u.sendJob j = some b := by
    rw [← hu]
    exact State.sendJob_some (doc := d) (w := none) (by simp [State.job, State.withSend])
  have hstore : b.dests.zipIdx.foldl (claimReady j d)
      (addJob d (createJob j ⟨d, .send b, none⟩ (dropCandidates j s))).store = u.store := by
    have hdoc : (addJob d (createJob j ⟨d, .send b, none⟩ (dropCandidates j s))).store =
        { s.store with docs := store s.store.docs d (some { x with jobCount := x.jobCount + 1 }) } := changeDoc_some hd _
    rw [hdoc, claimReady_foldl hes (x := { x with jobCount := x.jobCount + 1 }) (fetch_store_same _ _ _),
      flatMap_zipIdx_snd b.dests (fun k => Document.claims { x with jobCount := x.jobCount + 1 } d (.dest j k)), ← hu]
    rfl
  unfold createSend
  dsimp only
  rw [reportFailed_foldl hes, hany, if_pos rfl]
  have hcreated : ({ addJob d (createJob j ⟨d, .send b, none⟩ (dropCandidates j s)) with
      store := b.dests.zipIdx.foldl (claimReady j d) (addJob d (createJob j ⟨d, .send b, none⟩ (dropCandidates j s))).store,
      freeCount := (addJob d (createJob j ⟨d, .send b, none⟩ (dropCandidates j s))).freeCount + b.dests.length } : State) = u := by
    rw [hstore, ← hu]
    unfold createJob
    rw [filter_ne_of_not_mem (show j ∉ (dropCandidates j s).jobs.order from hj)]
    rfl
  rw [hcreated, finishIfFinal_unfinished hsend hall]

/-! ### SUBMIT-SEND (R66 to R68) -/

theorem keepFirst_nodup {ns : List Number} (h : ns.Nodup) : keepFirst ns = ns := by
  have key : ∀ (l acc : List Number), (acc ++ l).Nodup →
      l.foldl (fun acc n => if n ∈ acc then acc else acc ++ [n]) acc = acc ++ l := by
    intro l
    induction l with
    | nil => intro acc _; simp
    | cons n l ih =>
      intro acc hnd
      have hn : n ∉ acc := fun hn => (List.nodup_append.mp hnd).2.2 n hn n (by simp) rfl
      rw [List.foldl_cons, if_neg hn, ih _ (by simpa using hnd)]
      simp
  exact (key ns [] (by simpa using h)).trans (by simp)

theorem destinationList_plain {own : Number} {ns : List Number} (h : ns.Nodup) (ho : ∀ n ∈ ns, n ≠ own) :
    destinationList own ns [] = ns := by
  have hf : (ns ++ []).filter (fun n => decide (n ≠ own)) = ns := by
    rw [List.append_nil, List.filter_eq_self]
    exact fun n hn => decide_eq_true (ho n hn)
  unfold destinationList
  rw [hf, keepFirst_nodup h]

theorem newDests_routed {ns : List Number} {s : State} (h : ∀ n ∈ ns, ∃ i, matchNumber n s = .entry i) :
    ns.zipIdx.map (newDest s) = ns.map (fun n => (⟨n, .ready, 0, none, s.clock.elapsed, none, 0, none, false⟩ : Dest)) := by
  have hone : ∀ e ∈ ns.zipIdx, newDest s e = ⟨e.1, .ready, 0, none, s.clock.elapsed, none, 0, none, false⟩ := by
    intro e he
    obtain ⟨i, hi⟩ := h e.1 (List.fst_mem_of_mem_zipIdx he)
    unfold newDest
    rw [hi]
  rw [List.map_congr_left hone]
  exact (List.map_map (f := Prod.fst)
    (g := fun n : Number => (⟨n, .ready, 0, none, s.clock.elapsed, none, 0, none, false⟩ : Dest))).symm.trans
      (by rw [List.zipIdx_map_fst])

theorem freeJobSlot_eq {s : State} {j : Fin 32} (hj : s.job j = none) (hlow : ∀ i, i < j → s.job i ≠ none) :
    freeJobSlot s = some j := by
  refine find?_indices (Option.isNone_iff_eq_none.mpr hj) fun k hk => ?_
  rw [← Option.not_isSome, Option.isSome_iff_ne_none.mpr (hlow k hk)]
  rfl

/-- A restart policy as its byte (R66). -/
def RestartPolicy.byte (p : RestartPolicy) : Nat := match p with | .resume => 0 | .whole => 1

theorem RestartPolicy.of_byte (p : RestartPolicy) : (if p.byte = 0 then RestartPolicy.resume else .whole) = p := by
  cases p <;> rfl

theorem readSend_bytes {d account : Fin 64} {priority : Fin 4} {attempts : Byte} {delay : Nat} {policy : RestartPolicy}
    {ns : List Number} (hdelay : delay < 65536) (hlen : ns.length ≤ 16) (hns : ∀ n ∈ ns, n.length ≤ 24) (rest : List Byte) :
    readSend.run ((uint 1 d.val ++ uint 1 account.val ++ uint 1 priority.val ++ [attempts] ++ uint 2 delay ++ uint 1 policy.byte ++
        listOf symbols ns ++ [0]) ++ rest) =
      some (⟨d.val, account.val, priority.val, attempts.toNat, delay, policy.byte, ns.map (fun n => n.map Symbol.nibble), none⟩, rest) := by
  have hp : policy.byte < 2 := by cases policy <;> decide
  unfold readSend
  simp only [List.append_assoc, List.cons_append, List.nil_append]
  exact (Reader.run_next (readUint_one_uint (by omega) _)).trans <| (Reader.run_next (readUint_one_uint (by omega) _)).trans <|
    (Reader.run_next (readUint_one_uint (by omega) _)).trans <| (Reader.run_next (readUint_one _ _)).trans <|
    (Reader.run_next (readUint_uint 2 _ hdelay _)).trans <| (Reader.run_next (readEnum_uint hp (by decide) _)).trans <|
    (Reader.run_next (readList_listOf (v := fun n : Number => n.map Symbol.nibble) ns (by omega)
      (fun n hn => readNibbles_symbols n (by have := hns n hn; omega)) _)).trans <| (Reader.run_next (readOptional_none _ _)).trans rfl

theorem withSend_noPrinting {s : State} (h : s.noPrinting) (j : Fin 32) (d : Fin 64) (x : Document) (b : SendJob) :
    (trigger (s.withSend j d x b)).noPrinting := by
  obtain ⟨h1, h2, h3⟩ := h
  refine ⟨?_, ?_, fun i => ?_⟩
  · rw [trigger_printer]; exact h1
  · rw [trigger_printer]; exact h2
  · have hi := h3 i
    unfold State.printJob State.job at hi ⊢
    rw [trigger_jobs]
    by_cases he : i = j
    · subst he
      simp [State.withSend]
    · simpa [State.withSend, he] using hi

theorem withSend_handed (s : State) (o : Order) (j : Fin 32) (d : Fin 64) (x : Document) (b : SendJob) :
    (s.handed o).withSend j d x b = (s.withSend j d x b).handed o := rfl

/-- Settles O35: every number is kept, each destination is READY, and nothing waits to be printed. -/
theorem submitSendCreatesJob : Obligations.SubmitSendCreatesJob := by
  intro s tag d account x j priority attempts delay policy ns h hp hd hrel hopen hj hlow hord hdelay hne hlen hnd hns dests b claims
  have hbyte : (match policy with | .resume => 0 | .whole => 1) = policy.byte := by cases policy <;> rfl
  have hdests : b.dests ≠ [] := by simpa [b, dests] using hne
  have hready : ∀ y ∈ b.dests, y.state = .ready := by
    intro y hy
    obtain ⟨n, -, rfl⟩ := List.mem_map.mp hy
    rfl
  have hlenb : b.dests.length = ns.length := by simp [b, dests]
  have hstate : trigger (s.withSend j d x b) = trigger { s with
        jobs := { s.jobs with slots := store s.jobs.slots j (some ⟨d, .send b, none⟩), order := s.jobs.order ++ [j] },
        store := { s.store with docs := store s.store.docs d (some { x with jobCount := x.jobCount + 1 }),
                                claims := s.store.claims ++ claims },
        routes := { s.routes with candidates := s.routes.candidates.filter (fun c => decide (c.1 ≠ j)) },
        freeCount := s.freeCount + ns.length } := by
    unfold State.withSend
    rw [hlenb]
    rfl
  have hreply : uint 1 j.val ++ listOf (fun n => symbols n ++ uint 1 1) ns ++ uint 1 b.attempts ++ uint 2 b.delay = sendReply j b := by
    unfold sendReply listOf
    simp only [b, dests, List.length_map, List.flatMap_map]
    rfl
  have hnumbers : (ns.map (fun n => n.map Symbol.nibble)).mapM dialledNumber = some ns :=
    mapM_dialledNumber ns fun n hn => ⟨(hns n hn).1, (hns n hn).2.1⟩
  have hlist : destinationList s.cfg.ownNumber ns [] = ns := destinationList_plain hnd fun n hn => (hns n hn).2.2.1
  rw [← hstate, hreply]
  refine congrArg Host.Outcome.next (takeOrder_done h ownerOf_24 (a := ⟨d.val, account.val, priority.val, attempts.toNat, delay, policy.byte,
    ns.map (fun n => n.map Symbol.nibble), none⟩) (fun rest => ?_) ?_ (trigger_link _))
  · have hread := readSend_bytes (d := d) (account := account) (priority := priority) (attempts := attempts) (policy := policy) hdelay hlen
      (fun n hn => (hns n hn).2.1) rest
    cases policy <;> exact hread
  · generalize ho : (⟨tag, 24, _⟩ : Order) = o
    have hslot : freeJobSlot (s.handed o) = some j := freeJobSlot_eq hj hlow
    have hb : sendJobOf ⟨d.val, account.val, priority.val, attempts.toNat, delay, policy.byte, ns.map (fun n => n.map Symbol.nibble), none⟩
        account (ns.zipIdx.map (newDest (s.handed o))) = b := by
      unfold sendJobOf
      rw [newDests_routed (s := s.handed o) (fun n hn => (hns n hn).2.2.2), RestartPolicy.of_byte]
      rfl
    have hform : ¬(3 < priority.val ∨ 16 < (ns.map (fun n => n.map Symbol.nibble)).length) := by
      rw [List.length_map]
      omega
    have hfit : ¬(x.released = true ∨ (x.isOpen = false ∧ x.slots = [])) := by
      rw [hrel]
      rcases hopen with hopen | hopen <;> simp [hopen]
    unfold submitSend
    simp only [hnumbers, index?_val, groupOf, if_neg hform, State.handed_doc, hd, if_neg hfit, State.handed_cfg, hlist]
    unfold submitChecked
    rw [hslot]
    dsimp only
    rw [if_neg (Nat.not_lt.mpr hlen), if_neg hne, hb, createSend_ready (s := s.handed o) hd hord hready hdests, withSend_handed, trigger_handed,
      printerLook_noPrinting (s := (trigger (s.withSend j d x b)).handed o) (withSend_noPrinting hp j d x b)]
    rfl

/-! ### SUBMIT-PRINT (R81) -/

/-- What the next line of a page is depends on the pages and the memory alone (R39). -/
theorem Store.readLine_congr {st u : Store} (hp : u.pages = st.pages) (hm : u.mem = st.mem) (p : Fin 256) (fuel : Nat) (e : Decoder) :
    u.readLine p fuel e = st.readLine p fuel e := by
  have hbyte (off : Nat) : u.pageByte p off = st.pageByte p off := by unfold Store.pageByte; rw [hp, hm]
  induction fuel generalizing e with
  | zero => rfl
  | succ n ih =>
    unfold Store.readLine
    rw [hp, hbyte]
    simp only [ih]

theorem Store.nextLine_congr {st u : Store} (hp : u.pages = st.pages) (hm : u.mem = st.mem) (p : Fin 256) (e : Decoder) :
    u.nextLine p e = st.nextLine p e := by
  unfold Store.nextLine
  rw [hp]
  exact Store.readLine_congr hp hm p _ e

/-- The state with a print job created (R65, R81). -/
def State.withPrint (s : State) (j : Fin 32) (d : Fin 64) (x : Document) (b : PrintJob) : State :=
  { s with
    jobs := { s.jobs with slots := Machine.store s.jobs.slots j (some ⟨d, .print b, none⟩), order := s.jobs.order ++ [j] },
    store := { s.store with
      docs := Machine.store s.store.docs d (some { x with jobCount := x.jobCount + 1 }),
      claims := s.store.claims ++ x.claims d (.print j) } }

theorem createPrint_eq {s : State} {j : Fin 32} {d : Fin 64} {x : Document} (b : PrintJob) (hd : s.doc d = some x) (hj : j ∉ s.jobs.order) :
    createPrint j d b s = s.withPrint j d x b := by
  have hstore : (addJob d (createJob j ⟨d, .print b, none⟩ s)).store =
      { s.store with docs := store s.store.docs d (some { x with jobCount := x.jobCount + 1 }) } := changeDoc_some hd _
  unfold createPrint
  dsimp only
  rw [hstore]
  unfold Store.claimDocument
  dsimp only
  rw [fetch_store_same]
  unfold createJob
  rw [filter_ne_of_not_mem hj]
  rfl

/-- A print queue of one job: the only print job, once in the submission list. -/
theorem printQueue_single {s : State} {j : Fin 32} {d : Fin 64} {b : PrintJob} (hj : s.job j = some ⟨d, .print b, none⟩)
    (hp : b.priority ≤ 3) (hothers : ∀ i, i ≠ j → s.printJob i = none) (hone : s.jobs.order.filter (fun i => decide (i = j)) = [j]) :
    printQueue s = [j] := by
  have hat (pr : Nat) : printsAt s pr = fun i => decide (i = j) && decide (b.priority = pr) := by
    funext i
    by_cases hi : i = j
    · subst hi
      unfold printsAt
      rw [hj]
      simp
    · have hn := hothers i hi
      unfold State.printJob at hn
      unfold printsAt
      rw [decide_eq_false hi, Bool.false_and]
      split
      · rename_i heq
        rw [heq] at hn
        cases hn
      · rfl
  have hfilter (pr : Nat) : s.jobs.order.filter (printsAt s pr) = if b.priority = pr then [j] else [] := by
    rw [hat]
    by_cases h : b.priority = pr
    · simpa [h] using hone
    · simp [h]
  unfold printQueue
  simp only [hfilter, List.flatMap_cons, List.flatMap_nil]
  have : b.priority = 0 ∨ b.priority = 1 ∨ b.priority = 2 ∨ b.priority = 3 := by omega
  rcases this with h | h | h | h <;> simp [h]

/-- While a page is in print the head of the queue is not looked at (R162). -/
theorem lookAtHead_printing {s : State} (h : s.printer.phase = .printing) (fuel : Nat) : lookAtHead fuel s = s := by
  cases fuel with
  | zero => rfl
  | succ n =>
    unfold lookAtHead
    exact if_pos h

/-- The head of the queue waits for its page where the document has none there and is OPEN, or paper is OUT (R162). -/
theorem lookAtHead_waits {s : State} {j : Fin 32} {d : Fin 64} {b : PrintJob} {x : Document} (hphase : s.printer.phase ≠ .printing)
    (hq : (printQueue s).head? = some j) (hj : s.job j = some ⟨d, .print b, none⟩) (hd : s.doc d = some x)
    (hw : x.slots[b.slot]? = none ∧ x.isOpen = true ∨ (x.slots[b.slot]?).isSome = true ∧ s.printer.paperOut = true) (fuel : Nat) :
    lookAtHead (fuel + 1) s = waitPage j s := by
  unfold lookAtHead
  rw [if_neg hphase, hq]
  dsimp only
  rw [hj]
  dsimp only
  rw [hd]
  dsimp only
  rcases hw with ⟨hslot, hopen⟩ | ⟨hslot, hpaper⟩
  · rw [hslot]
    exact if_pos hopen
  · obtain ⟨p, hp⟩ := Option.isSome_iff_exists.mp hslot
    rw [hp]
    dsimp only
    rw [if_pos hpaper, ite_self]

/-- The head of the queue begins its page where it has one that is not FILLING and paper is READY (R162, R163). -/
theorem lookAtHead_begins {s : State} {j : Fin 32} {d : Fin 64} {b : PrintJob} {x : Document} {p : Fin 256}
    (hphase : s.printer.phase ≠ .printing) (hq : (printQueue s).head? = some j) (hj : s.job j = some ⟨d, .print b, none⟩)
    (hd : s.doc d = some x) (hslot : x.slots[b.slot]? = some p) (hf : (s.page p).state ≠ .filling) (hpaper : s.printer.paperOut = false)
    (fuel : Nat) : lookAtHead (fuel + 1) s = lookAtHead fuel (beginPrint j d b p s) := by
  conv_lhs => unfold lookAtHead
  rw [if_neg hphase, hq]
  dsimp only
  rw [hj]
  dsimp only
  rw [hd]
  dsimp only
  rw [hslot]
  dsimp only
  rw [if_neg (fun h => hf h.1), hpaper]
  rfl

theorem withPrint_job {s : State} (j : Fin 32) (d : Fin 64) (x : Document) (b : PrintJob) :
    (s.withPrint j d x b).job j = some ⟨d, .print b, none⟩ := by simp [State.job, State.withPrint]

theorem withPrint_printQueue {s : State} (h : s.noPrinting) {j : Fin 32} {d : Fin 64} {x : Document} {b : PrintJob}
    (hj : j ∉ s.jobs.order) (hb : b.priority ≤ 3) : printQueue (s.withPrint j d x b) = [j] := by
  refine printQueue_single (withPrint_job j d x b) hb (fun i hi => ?_) ?_
  · have hn := h.2.2 i
    unfold State.printJob State.job at hn ⊢
    simpa [State.withPrint, hi] using hn
  · have hnone : s.jobs.order.filter (fun i => decide (i = j)) = [] := by
      rw [List.filter_eq_nil_iff]
      exact fun i hi he => hj (of_decide_eq_true he ▸ hi)
    show (s.jobs.order ++ [j]).filter (fun i => decide (i = j)) = [j]
    rw [List.filter_append, hnone]
    simp

/-- The claims with those of a holder new to them on a document's slots, one slot of them in use (R13, R14). -/
theorem useClaim_new {claims : List Claim} {h : Holder} (hnew : ∀ k ∈ claims, k.holder ≠ h) (x : Document) (d : Fin 64) (slot : Nat) :
    (claims ++ x.claims d h).map (fun c => if c.standsAt h slot then { c with inUse := true } else c) =
      claims ++ x.slots.zipIdx.map (fun e => (⟨h, d, e.2, e.1, decide (e.2 = slot), false⟩ : Claim)) := by
  rw [List.map_append]
  congr 1
  · rw [List.map_congr_left (g := id), List.map_id]
    intro c hc
    unfold Claim.standsAt
    rw [decide_eq_false (hnew c hc)]
    rfl
  · unfold Document.claims
    rw [List.map_map]
    refine List.map_congr_left fun e _ => ?_
    by_cases he : e.2 = slot
    · simp [Claim.standsAt, he]
    · simp [Claim.standsAt, he]

/-- The Print Channel as a page begins, before its first line is decoded (R163). -/
def PrintChannel.opened (x : PrintChannel) (f : PrinterFrame) (j : Fin 32) (p : Fin 256) (width : Nat) : PrintChannel :=
  { x with phase := .printing, job := some j, page := some p, decoder := .start width, ready := none, substituted := 0, sent := 0,
           sup := .off, frames := x.frames ++ [f] }

theorem beginPrint_eq {s : State} {j : Fin 32} {d : Fin 64} {b : PrintJob} (hj : s.job j = some ⟨d, .print b, none⟩) (p : Fin 256) :
    beginPrint j d b p s = decodePrint (setPrinter
      (s.printer.opened (.pageStart j d b.slot b.copy (s.page p).version (s.page p).width (s.page p).resolution b.lost) j p (s.page p).width)
      ({ s with store := s.store.useClaim (.print j) b.slot }.setJob j (some ⟨d, .print { b with lost := false }, none⟩))) := by
  unfold beginPrint
  refine congrArg decodePrint ((changePrint_some ?_ _).trans rfl)
  exact hj

/-- The next line of the page in print becomes the line ready (R164). -/
theorem decodePrint_line {s : State} {p : Fin 256} {e : Decoder} {y : DecodedLine} (hp : s.printer.page = some p)
    (hline : s.store.nextLine p s.printer.decoder = (e, .line y)) : decodePrint s = setPrinter (s.printer.take e y).offer s := by
  unfold decodePrint
  rw [hp]
  dsimp only
  rw [hline]

/-- A line ready waits behind a frame in hand, under PRINT where there is no credit for it (R158, R164). -/
theorem PrintChannel.offer_waits {x : PrintChannel} (hr : x.ready.isSome = true) (hf : x.frames ≠ []) (hs : x.sup = .off) :
    x.offer = { x with sup := if x.credits = 0 ∧ x.paused = false then .enter .print else .off } := by
  obtain ⟨r, hr⟩ := Option.isSome_iff_exists.mp hr
  have hoffer : x.offer = if x.credits = 0 then if x.paused ∨ x.sup.cls = some .print then x else { x with sup := .enter .print } else x := by
    unfold PrintChannel.offer
    rw [hr, show x.frames.isEmpty = false by simpa using hf]
    rfl
  have hcls : x.sup.cls ≠ some .print := by rw [hs]; decide
  rw [hoffer]
  by_cases hw : x.credits = 0 ∧ x.paused = false
  · rw [if_pos hw, if_pos hw.1, if_neg]
    simp [hw.2, hcls]
  · rw [if_neg hw, ← hs]
    by_cases hc : x.credits = 0
    · have hpaused : x.paused = true := by simpa [hc] using hw
      rw [if_pos hc, if_pos (.inl hpaused)]
    · rw [if_neg hc]

/-- The Print Channel with the first line of a page ready (R163, R164). -/
def PrintChannel.begun (x : PrintChannel) (f : PrinterFrame) (j : Fin 32) (p : Fin 256) (e : Decoder) (y : DecodedLine) : PrintChannel :=
  { x with
    phase := .printing, job := some j, page := some p, decoder := e, ready := some (y.index, y.raster),
    substituted := if y.good then 0 else 1, sent := 0, frames := x.frames ++ [f],
    sup := if x.credits = 0 ∧ x.paused = false then .enter .print else .off }

/-- A page begins with its first line, which waits behind PAGE-START (R163, R164). -/
theorem beginPrint_line {s : State} {j : Fin 32} {d : Fin 64} {b : PrintJob} {p : Fin 256} {e : Decoder} {y : DecodedLine}
    (hj : s.job j = some ⟨d, .print b, none⟩) (hline : s.store.nextLine p (Decoder.start (s.page p).width) = (e, .line y)) :
    beginPrint j d b p s = setPrinter
      (s.printer.begun (.pageStart j d b.slot b.copy (s.page p).version (s.page p).width (s.page p).resolution b.lost) j p e y)
      ({ s with store := s.store.useClaim (.print j) b.slot }.setJob j (some ⟨d, .print { b with lost := false }, none⟩)) := by
  rw [beginPrint_eq hj]
  generalize PrinterFrame.pageStart j d b.slot b.copy (s.page p).version (s.page p).width (s.page p).resolution b.lost = f
  have hnext := (Store.nextLine_congr (st := s.store) (u := s.store.useClaim (.print j) b.slot) rfl rfl p _).trans hline
  refine (decodePrint_line (p := p) rfl hnext).trans ?_
  have hoffer := PrintChannel.offer_waits (x := (s.printer.opened f j p (s.page p).width).take e y) rfl
    (by simp [PrintChannel.take, PrintChannel.opened]) rfl
  have htake : ((s.printer.opened f j p (s.page p).width).take e y).offer = s.printer.begun f j p e y := by
    rw [hoffer]
    rfl
  exact congrArg (setPrinter · _) htake

section
variable {s : State} {j : Fin 32} {d : Fin 64} {x : Document} {b : PrintJob}

theorem printerLook_created (hp : s.noPrinting) (hd : s.doc d = some x) (hord : j ∉ s.jobs.order) :
    printerLook (createPrint j d b s) = lookAtHead (66559 + 1) (s.withPrint j d x b) := by
  have hphase : (s.withPrint j d x b).printer.phase ≠ .printing := by
    show s.printer.phase ≠ .printing
    rw [hp.1]
    decide
  rw [createPrint_eq b hd hord]
  unfold printerLook
  exact if_neg hphase

/-- A print job created alone waits for its first page, or for paper (R162). -/
theorem printerLook_created_waits (hp : s.noPrinting) (hd : s.doc d = some x) (hord : j ∉ s.jobs.order) (hb : b.priority ≤ 3)
    (hw : x.slots[b.slot]? = none ∧ x.isOpen = true ∨ (x.slots[b.slot]?).isSome = true ∧ s.printer.paperOut = true) :
    printerLook (createPrint j d b s) = waitPage j (s.withPrint j d x b) := by
  rw [printerLook_created hp hd hord]
  refine lookAtHead_waits (x := { x with jobCount := x.jobCount + 1 }) ?_ ?_ (withPrint_job j d x b) (fetch_store_same _ _ _) hw 66559
  · show s.printer.phase ≠ .printing
    rw [hp.1]
    decide
  · rw [withPrint_printQueue hp hord hb]
    rfl

/-- A print job created alone begins its first page with a line ready (R163). -/
theorem printerLook_created_begins (hp : s.noPrinting) (hd : s.doc d = some x) (hord : j ∉ s.jobs.order) (hb : b.priority ≤ 3)
    {p : Fin 256} {e : Decoder} {y : DecodedLine} (hslot : x.slots[b.slot]? = some p) (hf : (s.page p).state ≠ .filling)
    (hpaper : s.printer.paperOut = false) (hline : s.store.nextLine p (Decoder.start (s.page p).width) = (e, .line y)) :
    printerLook (createPrint j d b s) = setPrinter
      (s.printer.begun (.pageStart j d b.slot b.copy (s.page p).version (s.page p).width (s.page p).resolution b.lost) j p e y)
      ({ s.withPrint j d x b with store := (s.withPrint j d x b).store.useClaim (.print j) b.slot }.setJob j
        (some ⟨d, .print { b with lost := false }, none⟩)) := by
  rw [printerLook_created hp hd hord]
  have hjob := withPrint_job (s := s) j d x b
  have hnext := (Store.nextLine_congr (st := s.store) (u := (s.withPrint j d x b).store) rfl rfl p (Decoder.start (s.page p).width)).trans hline
  refine (lookAtHead_begins (x := { x with jobCount := x.jobCount + 1 }) ?_ ?_ hjob (fetch_store_same _ _ _) hslot hf hpaper 66559).trans ?_
  · show s.printer.phase ≠ .printing
    rw [hp.1]
    decide
  · rw [withPrint_printQueue hp hord hb]
    rfl
  · rw [beginPrint_line hjob hnext, lookAtHead_printing rfl]
    rfl

end

theorem readPrint_bytes {d : Fin 64} {copies : Byte} {priority : Fin 4} (rest : List Byte) :
    readPrint.run ((uint 1 d.val ++ [copies] ++ uint 1 priority.val) ++ rest) = some ((d.val, copies.toNat, priority.val), rest) := by
  unfold readPrint
  simp only [List.append_assoc, List.cons_append, List.nil_append, Reader.run_bind, Reader.run_pure, Option.bind_some,
    readUint_one_uint (show d.val < 256 by omega), readUint_one, readUint_one_uint (show priority.val < 256 by omega)]

/-- Settles O36. -/
theorem submitPrintCreatesJob : Obligations.SubmitPrintCreatesJob := by
  intro s tag d x j copies priority h hp hd hrel hj hlow hord hnew b run created
  have hprio : b.priority ≤ 3 := by
    have := priority.isLt
    show priority.val ≤ 3
    omega
  generalize ho : (⟨tag, 25, uint 1 d.val ++ [copies] ++ uint 1 priority.val⟩ : Order) = o
  have submitted {s' : State} (hfit : x.isOpen = true ∨ x.slots ≠ [])
      (hlook : printerLook (createPrint j d b (s.handed o)) = s'.handed o) (hl : s'.link = s.link) :
      run = .next (s'.replied tag 25 (.done (uint 1 j.val ++ uint 1 b.copies))) := by
    subst ho
    refine congrArg Host.Outcome.next (takeOrder_done h ownerOf_25 readPrint_bytes ?_ hl)
    have hslot : freeJobSlot (s.handed ⟨tag, 25, uint 1 d.val ++ [copies] ++ uint 1 priority.val⟩) = some j := freeJobSlot_eq hj hlow
    have hfit' : ¬(x.released = true ∨ (x.isOpen = false ∧ x.slots = [])) := by
      rw [hrel]
      rcases hfit with hfit | hfit <;> simp [hfit]
    unfold submitPrint
    simp only [index?_val, if_neg (show ¬3 < priority.val by omega), State.handed_doc, hd, if_neg hfit', hslot]
    exact congrArg (done _) hlook
  refine ⟨fun hw => ?_, fun p rest e y hslots hpaper hs hline => ?_⟩
  · refine submitted (s' := waitPage j (s.withPrint j d x b)) ?_ ?_ rfl
    · exact hw.imp And.right And.left
    · refine printerLook_created_waits (s := s.handed o) hp hd hord hprio ?_
      rcases hw with ⟨h1, h2⟩ | ⟨h1, h2⟩
      · exact .inl ⟨by rw [h1]; rfl, h2⟩
      · obtain ⟨p, rest, hslots⟩ := List.exists_cons_of_ne_nil h1
        exact .inr ⟨by rw [hslots]; rfl, h2⟩
  · refine submitted (.inr (by rw [hslots]; simp)) ?_ rfl
    refine (printerLook_created_begins (s := s.handed o) hp hd hord hprio (p := p) (by rw [hslots]; rfl) (by rw [State.handed_page, hs]; decide)
      hpaper hline).trans ?_
    have hclaims : ((s.handed o).withPrint j d x b).store.useClaim (.print j) b.slot =
        { s.store with
          docs := store s.store.docs d (some { x with jobCount := x.jobCount + 1 }),
          claims := s.store.claims ++ x.slots.zipIdx.map (fun e => (⟨.print j, d, e.2, e.1, decide (e.2 = 0), false⟩ : Claim)) } :=
      congrArg (fun cs => { s.store with docs := store s.store.docs d (some { x with jobCount := x.jobCount + 1 }), claims := cs })
        (useClaim_new hnew x d 0)
    have hslots : store (store s.jobs.slots j (some ⟨d, .print b, none⟩)) j (some ⟨d, .print b, none⟩) =
        store s.jobs.slots j (some ⟨d, .print b, none⟩) := store_store _ _ _ _
    rw [hclaims]
    exact (congrArg (fun slots => setPrinter _ ({ (s.handed o).withPrint j d x b with
      store := _, jobs := { s.jobs with slots := slots, order := s.jobs.order ++ [j] } })) hslots).trans rfl

end Sys2Proof.Machine
end

section
/-! PROOFS. CANCEL-JOB and RESTART (O37, O38), with what a change of the store and the finish of a send job come to. -/

namespace Sys2Proof.Machine

/-! ### A change of the store (R2) -/

theorem grant_eq (c : ChannelNo) (s : State) :
    ∃ scan credits, grant c s = { s with scan := scan, link := { s.link with credits := credits } } := by
  unfold grant
  dsimp only
  split
  · exact ⟨_, _, rfl⟩
  · exact ⟨s.scan, s.link.credits, rfl⟩

theorem endStall_eq (c : ChannelNo) (s : State) :
    ∃ scan credits, endStall c s = { s with scan := scan, link := { s.link with credits := credits } } := by
  unfold endStall
  dsimp only
  by_cases h : (s.channel c).stalled = true
  · rw [if_pos h]
    obtain ⟨scan, credits, hg⟩ := grant_eq c (s.setChannel c
      { s.channel c with stalled := false, sup := if (s.channel c).sheet = .active then .enter .scan else (s.channel c).sup })
    exact ⟨scan, credits, hg⟩
  · rw [if_neg h]
    exact ⟨s.scan, s.link.credits, rfl⟩

theorem endStalls_eq (s : State) :
    ∃ scan credits, endStalls s = { s with scan := scan, link := { s.link with credits := credits } } := by
  have key (l : List ChannelNo) (s : State) : ∃ scan credits,
      l.foldl (fun s c => endStall c s) s = { s with scan := scan, link := { s.link with credits := credits } } := by
    induction l generalizing s with
    | nil => exact ⟨s.scan, s.link.credits, rfl⟩
    | cons c l ih =>
      obtain ⟨scan, credits, h⟩ := endStall_eq c s
      obtain ⟨scan', credits', h'⟩ := ih (endStall c s)
      exact ⟨scan', credits', by rw [List.foldl_cons, h', h]⟩
  exact key allChannels s

/-- A change of the store reaches, beside the store, the channels and their CREDIT frames alone (R2, R58). -/
theorem withStore_eq (f : Store → Store) (s : State) :
    ∃ scan credits, withStore f s = { s with store := f s.store, scan := scan, link := { s.link with credits := credits } } := by
  unfold withStore
  dsimp only
  split
  · exact endStalls_eq { s with store := f s.store }
  · exact ⟨s.scan, s.link.credits, rfl⟩

theorem report_room {r : Report} {s : State} (h : s.link.reports.length < 64) :
    report r s = { s with link := { s.link with reports := s.link.reports ++ [⟨r, s.link.gap⟩], gap := false } } := by
  unfold report
  rw [Link.offer_room _ _ h]

/-! ### The finish of a send job (R65, R76, R85) -/

/-- The job count of a document that is not released falls (R11). -/
theorem dropJob_unreleased {s : State} {d : Fin 64} {doc : Document} (hd : s.doc d = some doc) (hr : doc.released = false) :
    dropJob d s = s.setDoc d (some { doc with jobCount := doc.jobCount - 1 }) := by
  have hx : (s.store.changeDoc d (fun x => { x with jobCount := x.jobCount - 1 })).freeIfDone d =
      { s.store with docs := store s.store.docs d (some { doc with jobCount := doc.jobCount - 1 }) } := by
    rw [changeDoc_some hd]
    unfold Store.freeIfDone
    dsimp only
    rw [fetch_store_same]
    dsimp only
    rw [if_neg (by simp [hr])]
  unfold dropJob
  rw [withStore_same _ _ (by rw [hx]), hx]
  rfl

/-- A send job finishes: its JOB-DONE is queued and its slot is free, where the queue has room and no print job is owed. -/
theorem finishJob_sent {s : State} {j : Fin 32} {d : Fin 64} {b : SendJob} {doc : Document} (hj : s.job j = some ⟨d, .send b, none⟩)
    (hd : s.doc d = some doc) (hr : doc.released = false) (hroom : s.link.reports.length < 64) (hn : s.noneOwed) :
    finishJob j s = { s.setDoc d (some { doc with jobCount := doc.jobCount - 1 }) with
      jobs := { s.jobs with slots := store s.jobs.slots j none, order := s.jobs.order.filter (fun k => decide (k ≠ j)) },
      link := { s.link with
        reports := s.link.reports ++ [⟨jobDoneReport j ⟨d, .send b, none⟩ s, s.link.gap⟩], gap := false } } := by
  rw [finishJob_send hj, dropJob_unreleased (s := s.setJob j _) hd hr]
  refine (offerDone_room (doc := d) (body := .send b) (r := jobDoneReport j ⟨d, .send b, none⟩ s) ?_ ?_ (by simp)).trans ?_
  · exact fetch_store_same _ _ _
  · exact hroom
  unfold freeJob
  rw [serveOwed_none]
  · rw [report_room]
    · simp only [State.setJob, State.setDoc, store_store]
    · exact hroom
  · refine State.noneOwed_congr hn fun i => ?_
    by_cases hi : i = j
    · subst hi
      exact .inr (fetch_store_same _ _ _)
    · left
      have h1 : fetch (store (store s.jobs.slots j (some ⟨d, .send b, some (jobDoneReport j ⟨d, .send b, none⟩ s)⟩)) j none) i = s.job i := by
        rw [fetch_store_ne _ _ hi, fetch_store_ne _ _ hi]
        rfl
      exact h1

/-! ### CANCEL-JOB (R79) -/

/-- The DEST-RESULT of a destination as it stands (R78). -/
theorem reportDest_some {s : State} {j : Fin 32} {doc : Fin 64} {b : SendJob} {w : Option Report} (hj : s.job j = some ⟨doc, .send b, w⟩)
    {d : Nat} {x : Dest} (hx : b.dests[d]? = some x) (atEnd : Option (LineNo × Nat)) :
    reportDest j d atEnd s = report (.destResult j d x.number x.state (x.reason.getD .cancelled) x.attempts b.attempts x.next x.oldVersion
      atEnd (if x.state = .queued then x.eligible else none)) s := by
  unfold reportDest
  rw [State.sendJob_some hj, State.dest_some hj, hx]

/-- A destination that was cancelled (R76). -/
def Dest.cancelled (x : Dest) : Dest := { x with state := .cancelled, reason := some .cancelled, line := none, eligible := none }

/-- A destination of a send job becomes CANCELLED and is reported (R76, R78). -/
theorem cancelDest_only {s : State} {j : Fin 32} {d : Fin 64} {b : SendJob} {x : Dest} (hj : s.job j = some ⟨d, .send b, none⟩)
    (hb : b.dests = [x]) (hroom : s.link.reports.length < 64) :
    ∃ scan credits, cancelDest j 0 .cancelled .cancelled s = { s with
      jobs := { s.jobs with slots := store s.jobs.slots j (some ⟨d, .send { b with
        dests := [x.cancelled] }, none⟩) },
      store := s.store.dropHolder (.dest j 0), scan := scan,
      link := { s.link with
        credits := credits,
        reports := s.link.reports ++
          [⟨.destResult j 0 x.number .cancelled .cancelled x.attempts b.attempts x.next x.oldVersion none none, s.link.gap⟩],
        gap := false } } := by
  have hmodify (f : Dest → Dest) : b.dests.modify 0 f = [f x] := by rw [hb]; rfl
  obtain ⟨scan, credits, hstore⟩ := withStore_eq (fun t => t.dropHolder (.dest j 0)) (s.setJob j (some ⟨d, .send { b with
        dests := [x.cancelled] }, none⟩))
  refine ⟨scan, credits, ?_⟩
  have hfinal : finalDest j 0 .cancelled .cancelled s =
      withStore (fun t => t.dropHolder (.dest j 0)) (s.setJob j (some ⟨d, .send { b with dests := [x.cancelled] }, none⟩)) := by
    unfold finalDest
    rw [changeDest_some hj, hmodify]
    rfl
  unfold cancelDest
  rw [hfinal, hstore]
  refine (reportDest_some (doc := d) (w := none) (b := { b with dests := [x.cancelled] }) (x := x.cancelled) ?_ ?_ none).trans ?_
  · exact fetch_store_same _ _ _
  · rfl
  rw [report_room]
  · rfl
  · exact hroom

/-- Settles O37. -/
theorem cancelJobEndsJob : Obligations.CancelJobEndsJob := by
  intro s tag j d b x doc h hp hn hroom hj hb hx hd hr
  generalize ho : (⟨tag, 26, uint 1 j.val⟩ : Order) = o
  have hrun : exec (.cancelJob tag (uint 1 j.val)) s = .next (answerOrder o (cancelJob j.val (s.handed o))) := by
    subst ho
    refine congrArg Host.Outcome.next ((takeOrder_taken h 26 _).trans (congrArg _ ?_))
    rw [ownerOf_26, checked_some (readAll_of_run (readUint_one_uint (show j.val < 256 by omega)))]
  obtain ⟨scan, credits, hcancel⟩ := cancelDest_only (s := s.handed o) hj hb (show s.link.reports.length < 64 by omega)
  generalize hu : cancelDest j 0 .cancelled .cancelled (s.handed o) = u at hcancel
  have hone : cancelOne j (s.handed o) 0 = u := by
    have hdest : (s.handed o).dest j 0 = some x := by
      rw [State.dest_some (s := s.handed o) hj, hb]
      rfl
    unfold cancelOne
    rw [hdest]
    dsimp only
    rw [if_neg (by rcases hx with hx | hx | hx <;> rw [hx] <;> decide), hu]
    rcases hx with hx | hx | hx <;> rw [hx]
  have hjobu : u.job j = some ⟨d, .send { b with
      dests := [x.cancelled] }, none⟩ := by
    rw [hcancel]
    exact fetch_store_same _ _ _
  have hdocu : u.doc d = some doc := by
    rw [hcancel]
    show fetch (s.store.dropHolder (.dest j 0)).docs d = some doc
    rw [(Store.dropHolder_frame _ _).2.1]
    exact hd
  have hroomu : u.link.reports.length < 64 := by
    rw [hcancel]
    show (s.link.reports ++ [_]).length < 64
    rw [List.length_append, List.length_singleton]
    omega
  have hother (i : Fin 32) (hi : i ≠ j) : u.job i = s.job i := by
    rw [hcancel]
    exact fetch_store_ne _ _ hi
  have hnu : u.noneOwed := by
    intro i doc' b' w hi
    by_cases he : i = j
    · rw [he, hjobu] at hi
      cases hi
    · exact hn i doc' b' w ((hother i he).symm.trans hi)
  have hfinish := finishJob_sent hjobu hdocu hr hroomu hnu
  generalize hv : finishJob j u = v at hfinish
  have hfinal : finishIfFinal j u = v := by
    rw [finishIfFinal_final (State.sendJob_some hjobu) rfl, hv]
  have hgone : v.job j = none := by
    rw [hfinish]
    exact fetch_store_same _ _ _
  have hkept (i : Fin 32) (hi : i ≠ j) : v.job i = s.job i := by
    rw [hfinish]
    exact (fetch_store_ne _ _ hi).trans (hother i hi)
  have hnp : v.noPrinting := by
    refine ⟨?_, ?_, fun i => ?_⟩
    · rw [hfinish, hcancel]
      exact hp.1
    · rw [hfinish, hcancel]
      exact hp.2.1
    · unfold State.printJob
      by_cases hi : i = j
      · rw [hi, hgone]
      · rw [hkept i hi]
        exact hp.2.2 i
  have hcancelled : cancelJob j.val (s.handed o) = done [] v := by
    unfold cancelJob
    simp only [index?_val, State.handed_job, hj, hb, List.length_singleton, List.range_one, List.foldl_cons, List.foldl_nil, hone, hfinal,
      printerLook_noPrinting hnp]
  rw [hcancelled] at hrun
  refine ⟨_, hrun, hgone, hkept, ?_, ?_, ?_, ?_, ?_, ?_, ?_, ?_, ?_, ?_, ?_, ?_⟩
  · show v.jobs.order = _
    rw [hfinish, hcancel]
    rfl
  · show v.jobs.groups = _
    rw [hfinish, hcancel]
    rfl
  · show v.link.reports = _
    rw [hfinish, hcancel]
    exact List.append_assoc _ _ _
  · show v.link.gap = false
    rw [hfinish]
  · show v.link.replies ++ _ = _
    rw [hfinish, hcancel, ← ho]
    rfl
  · show v.store.claims = _
    rw [hfinish, hcancel]
    exact (Store.dropHolder_frame _ _).2.2
  · show v.doc d = _
    rw [hfinish]
    exact fetch_store_same _ _ _
  · show v.lines = _
    rw [hfinish, hcancel]
    rfl
  · show v.routes = _
    rw [hfinish, hcancel]
    rfl
  · show v.accounts = _
    rw [hfinish, hcancel]
    rfl
  · show v.charges = _
    rw [hfinish, hcancel]
    rfl
  · show v.clock = _
    rw [hfinish, hcancel]
    rfl

/-! ### RESTART, line by line (R124a) -/

/-- A fold over different indices that changes the entry of each index alone, by what the fold keeps. -/
theorem foldl_each {ι α κ : Type} [DecidableEq ι] {g : State → ι → α} {k : State → κ} {f : State → ι → State} {F : κ → α → α}
    (hf : ∀ s i m, g (f s i) m = if m = i then F (k s) (g s i) else g s m) (hk : ∀ s i, k (f s i) = k s) {is : List ι} (hd : is.Nodup)
    (s : State) (m : ι) : g (is.foldl f s) m = if m ∈ is then F (k s) (g s m) else g s m := by
  induction is generalizing s with
  | nil => simp
  | cons i is ih =>
    obtain ⟨hi, hd⟩ := List.nodup_cons.mp hd
    rw [List.foldl_cons, ih hd, hf, hk]
    by_cases hm : m = i
    · subst hm
      simp [hi]
    · simp [hm]

/-- A line after RESTART (R124a). -/
def Line.restarted (guardTime : Nat) (x : Line) : Line :=
  if x.releasable then x.released .restart guardTime else if x.state = .ringing then x.ended else x

/-- A line's meter after RESTART: a metered call's meter stops (R187). -/
def Line.restartMeter (x : Line) (m : Meter) : Meter :=
  if x.releasable ∧ x.admission.isSome ∧ x.answered then { m with running := false } else m

theorem releaseContext_meter (l k : LineNo) (why : Reason) (n : Nat) (name : Name) (s : State) :
    (releaseContext l why n name s).meter k =
      if k = l ∧ (s.line l).admission.isSome = true ∧ (s.line l).answered = true then { s.meter l with running := false } else s.meter k := by
  cases ha : (s.line l).admission with
  | none =>
    have h := (releaseContext_of_none s l (why := why) (n := n) (name := name) ha).1
    rw [State.meter, h]
    simp [State.meter]
  | some a =>
    have h := (releaseContext_of_some s l (why := why) (n := n) (name := name) ha).1
    rw [State.meter, h]
    by_cases hans : (s.line l).answered = true
    · rw [if_pos hans, fetch_store]
      simp [hans, State.meter]
    · rw [if_neg hans]
      simp [hans, State.meter]

/-- What RESTART's release of a line carries: the release that waits in the slot, or the caller's own (R124a, log 27). -/
def restartRequest (s : State) (l : LineNo) : ReleaseRequest :=
  match (s.slot l).closing with
  | some r => r
  | none => callerRequest l .restart s

theorem restartLine_release (s : State) (l : LineNo) :
    ∃ n name, restartLine s l =
      if (s.line l).releasable then releaseContext l .restart n name (s.setProc l .idle)
      else if (s.line l).state = .ringing then (s.setProc l .idle).setLine l (s.line l).ended else s.setProc l .idle := by
  refine ⟨(restartRequest s l).delivered, (restartRequest s l).name, ?_⟩
  have hr : restartLine s l = (fun u : State => if (u.line l).state = .ringing then u.setLine l (u.line l).ended else u)
      (releaseAtRestart l (restartRequest s l).delivered (restartRequest s l).name (s.setProc l .idle)) := rfl
  by_cases h : (s.line l).releasable = true
  · have hu : releaseAtRestart l (restartRequest s l).delivered (restartRequest s l).name (s.setProc l .idle) = _ := if_pos h
    rw [hr, hu, if_pos h]
    refine if_neg ?_
    rw [releaseContext_line, if_pos rfl]
    simp [Line.released]
  · have hu : releaseAtRestart l (restartRequest s l).delivered (restartRequest s l).name (s.setProc l .idle) = _ := if_neg h
    rw [hr, hu, if_neg h]
    rfl

theorem restartLine_line (s : State) (l k : LineNo) :
    (restartLine s l).line k = if k = l then (s.line l).restarted s.cfg.guardTime else s.line k := by
  obtain ⟨n, name, h⟩ := restartLine_release s l
  rw [h]
  unfold Line.restarted
  by_cases hr : (s.line l).releasable = true
  · rw [if_pos hr, if_pos hr, releaseContext_line]
    rfl
  · rw [if_neg hr, if_neg hr]
    by_cases hs : (s.line l).state = .ringing
    · rw [if_pos hs, if_pos hs, State.setLine_line]
      rfl
    · rw [if_neg hs, if_neg hs]
      by_cases hk : k = l
      · rw [if_pos hk, hk]
        rfl
      · rw [if_neg hk]
        rfl

theorem restartLine_meter (s : State) (l k : LineNo) :
    (restartLine s l).meter k = if k = l then (s.line l).restartMeter (s.meter l) else s.meter k := by
  obtain ⟨n, name, h⟩ := restartLine_release s l
  rw [h]
  unfold Line.restartMeter
  by_cases hr : (s.line l).releasable = true
  · rw [if_pos hr, releaseContext_meter]
    by_cases hk : k = l
    · subst hk
      simp [hr]
    · simp [hk]
  · rw [if_neg hr]
    by_cases hk : k = l
    · subst hk
      simp only [hr, if_true, Bool.false_eq_true, false_and, if_false]
      split <;> rfl
    · rw [if_neg hk]
      split <;> rfl

theorem releaseContext_kept (l : LineNo) (why : Reason) (n : Nat) (name : Name) (s : State) :
    let t := releaseContext l why n name s
    t.scan = s.scan ∧ t.jobs = s.jobs ∧ t.procs = s.procs ∧ t.routes.entries = s.routes.entries ∧ t.link.credits = s.link.credits ∧
      t.link.replies = s.link.replies ∧ s.charges.filled <+: t.charges.filled := by
  cases ha : (s.line l).admission with
  | none => simp [releaseContext, ha]
  | some a =>
    cases hans : (s.line l).answered with
    | false => simp [releaseContext, ha, hans, settleCharge, chargeUnanswered, lowerCounts, ChargeQueue.unreserve]
    | true =>
      simp only [releaseContext, ha, hans, settleCharge, chargeAnswered, fillCharge, if_true]
      split <;> simp [lowerCounts, ChargeQueue.unreserve]

theorem restartLine_proc (s : State) (l k : LineNo) : (restartLine s l).proc k = if k = l then Proc.idle else s.proc k := by
  obtain ⟨n, name, h⟩ := restartLine_release s l
  have hp : (restartLine s l).procs = (s.setProc l .idle).procs := by
    rw [h]
    split
    · exact (releaseContext_kept ..).2.2.1
    · split <;> rfl
  rw [State.proc, hp]
  exact fetch_store ..

/-- What RESTART's lines leave alone for what it discards later (R124a). -/
theorem restartLine_kept (s : State) (l : LineNo) :
    let t := restartLine s l
    t.scan = s.scan ∧ t.jobs = s.jobs ∧ t.routes.entries = s.routes.entries ∧ t.link.credits = s.link.credits := by
  obtain ⟨n, name, h⟩ := restartLine_release s l
  dsimp only
  rw [h]
  split
  · obtain ⟨h1, h2, -, h4, h5, -⟩ := releaseContext_kept l .restart n name (s.setProc l .idle)
    exact ⟨h1, h2, h4, h5⟩
  · split <;> exact ⟨rfl, rfl, rfl, rfl⟩

theorem restartCredit_credit (s : State) (c k : ChannelNo) :
    (s.channel c).inProgress = true → fetch (restartCredit s c).link.credits k =
      if k = c then some ⟨(s.channel c).number, (s.channel c).expected, (s.channel c).expected, true⟩ else fetch s.link.credits k := by
  intro h
  unfold restartCredit
  dsimp only
  rw [if_pos h]
  exact fetch_store ..

theorem restartCredit_other (s : State) (c k : ChannelNo) (h : k ≠ c) :
    fetch (restartCredit s c).link.credits k = fetch s.link.credits k := by
  unfold restartCredit
  dsimp only
  split
  · exact fetch_store_ne _ _ h
  · split
    · exact fetch_store_ne _ _ h
    · rfl

/-- The CREDIT frame that RESTART leaves waiting for a station with a sheet in progress (R62). -/
theorem restartCredits_credit {s : State} {c : ChannelNo} (h : (s.channel c).sheet ≠ .idle) :
    fetch (allChannels.foldl restartCredit s).link.credits c =
      some ⟨(s.channel c).number, (s.channel c).expected, (s.channel c).expected, true⟩ := by
  have key (cs : List ChannelNo) (u : State) (hu : u.scan = s.scan) (hc : c ∈ cs ∨ fetch u.link.credits c =
      some ⟨(s.channel c).number, (s.channel c).expected, (s.channel c).expected, true⟩) :
      fetch (cs.foldl restartCredit u).link.credits c =
        some ⟨(s.channel c).number, (s.channel c).expected, (s.channel c).expected, true⟩ := by
    induction cs generalizing u with
    | nil => exact hc.resolve_left List.not_mem_nil
    | cons k cs ih =>
      refine ih _ (by simp [hu]) ?_
      by_cases hk : c = k
      · right
        have hch : u.channel k = s.channel c := by rw [State.channel, hu, ← hk]; rfl
        rw [restartCredit_credit u k c (by rw [hch]; simpa [Channel.inProgress] using h), if_pos hk, hch]
      · rw [restartCredit_other u k c hk]
        exact hc.imp_left fun hm => (List.mem_cons.mp hm).resolve_left hk
  exact key allChannels s rfl (.inl (mem_allChannels c))

theorem restartPrinter_printer (s : State) :
    let x := (restartPrinter s).printer
    x.phase = .idle ∧ x.job = none ∧ x.paused = false ∧ x.credits = s.printer.credits ∧ x.paperOut = s.printer.paperOut := by
  unfold restartPrinter
  dsimp only
  split <;> exact ⟨rfl, rfl, rfl, rfl, rfl⟩

theorem restartPrinter_finish {s : State} {j : Fin 32} {d : Fin 64} {b : PrintJob} {w : Option Report} (hp : s.printer.phase = .printing)
    (hj : s.printer.job = some j) (hb : s.job j = some ⟨d, .print b, w⟩) :
    (restartPrinter s).printer.frames =
      s.printer.frames ++ [.pageFinish j b.slot b.copy s.printer.sent s.printer.substituted .cancelled] := by
  have hprinting : s.printing = some (j, d, b) := by
    simp [State.printing, hj, hb]
  unfold restartPrinter
  dsimp only
  rw [hp, hprinting]
  rfl

/-- The parts of the state that RESTART sets as it stands (R26, R89, R105, R172). -/
theorem restartBlocks_lists (s : State) :
    let t := restartBlocks s
    t.jobs = { JobTable.initial with groups := s.jobs.groups } ∧ t.routes.entries = s.routes.entries ∧ t.routes.passing = false ∧
      t.routes.rerun = false ∧ t.routes.candidates = [] ∧ t.scan = .initial ∧
      t.printer = (restartPrinter (allLines.foldl restartLine s)).printer := by
  have hg := foldl_keep (fun u : State => (u.jobs, u.routes.entries)) restartLine
    (fun u l => by obtain ⟨-, h2, h3, -⟩ := restartLine_kept u l; exact congrArg₂ Prod.mk h2 h3) allLines s
  obtain ⟨hjobs, hentries⟩ := Prod.mk.inj hg
  refine ⟨?_, ?_, ?_, ?_, ?_, rfl, ?_⟩ <;> simp [restartBlocks, hjobs, hentries]

theorem restartBlocks_line (s : State) (l : LineNo) : (restartBlocks s).line l = (s.line l).restarted s.cfg.guardTime := by
  have h1 : (restartBlocks s).line l = (allLines.foldl restartLine s).line l := by simp [restartBlocks, State.line]
  rw [h1]
  refine (foldl_each (g := State.line) (k := State.cfg) (F := fun c x => x.restarted c.guardTime) (fun u l k => restartLine_line u l k)
    (fun _ _ => by simp) nodup_allLines s l).trans ?_
  rw [if_pos (mem_allLines l)]

theorem restartBlocks_proc (s : State) (l : LineNo) : (restartBlocks s).proc l = Proc.idle := by
  have h1 : (restartBlocks s).proc l = (allLines.foldl restartLine s).proc l := by simp [restartBlocks, State.proc]
  rw [h1]
  refine (foldl_each (g := State.proc) (k := fun _ => ()) (F := fun _ _ => Proc.idle) (fun u l k => restartLine_proc u l k)
    (fun _ _ => rfl) nodup_allLines s l).trans ?_
  rw [if_pos (mem_allLines l)]

theorem restartBlocks_meter (s : State) (l : LineNo) : (restartBlocks s).meter l = (s.line l).restartMeter (s.meter l) := by
  have h1 : (restartBlocks s).meter l = (allLines.foldl restartLine s).meter l := by simp [restartBlocks, State.meter]
  rw [h1]
  have h := foldl_each (g := fun u m => (u.line m, u.meter m)) (k := State.cfg)
    (F := fun c x => (x.1.restarted c.guardTime, x.1.restartMeter x.2)) (f := restartLine)
    (fun u l k => by rw [restartLine_line, restartLine_meter]; split <;> rfl) (fun _ _ => by simp) nodup_allLines s l
  rw [if_pos (mem_allLines l)] at h
  exact (Prod.mk.inj h).2

/-- What the releases of RESTART keep of the accounts, the charge records and the replies (R189, R202). -/
theorem restartBlocks_kept (s : State) :
    (∀ a, ((restartBlocks s).account a).total = (s.account a).total ∧ ((restartBlocks s).account a).limit = (s.account a).limit) ∧
      s.charges.filled <+: (restartBlocks s).charges.filled ∧ (restartBlocks s).link.replies = s.link.replies := by
  refine restartBlocks_keeps (P := fun u => (∀ a, (u.account a).total = (s.account a).total ∧ (u.account a).limit = (s.account a).limit) ∧
      s.charges.filled <+: u.charges.filled ∧ u.link.replies = s.link.replies) ?_ ?_ ?_ ⟨fun _ => ⟨rfl, rfl⟩, List.prefix_rfl, rfl⟩
  · rintro u v hc ⟨ha, hf, hr⟩
    simp only [State.callCore, Prod.mk.injEq] at hc
    obtain ⟨-, -, -, -, -, h1, h2, -, -, -, h3, -⟩ := hc
    exact ⟨fun a => by rw [State.account, h1]; exact ha a, by rw [h2]; exact hf, h3.trans hr⟩
  · rintro u l n name - ⟨ha, hf, hr⟩
    obtain ⟨-, -, -, -, -, hreplies, hfilled⟩ := releaseContext_kept l .restart n name u
    refine ⟨fun a => ?_, hf.trans hfilled, hreplies.trans hr⟩
    cases hadm : (u.line l).admission with
    | none =>
      rw [State.account, (releaseContext_of_none u l hadm).2.1]
      exact ha a
    | some m =>
      rw [State.account, (releaseContext_of_some u l hadm).2.1, fetch_store]
      by_cases he : a = m.account
      · rw [if_pos he, he]
        exact ha m.account
      · rw [if_neg he]
        exact ha a
  · rintro u l x - hu
    exact hu

theorem restartBlocks_credit {s : State} {c : ChannelNo} (h : (s.channel c).sheet ≠ .idle) :
    fetch (restartBlocks s).link.credits c = some ⟨(s.channel c).number, (s.channel c).expected, (s.channel c).expected, true⟩ := by
  have hscan : (restartPrinter (allLines.foldl restartLine s)).scan = s.scan := by
    rw [(restartPrinter_frame _).2.2.2.1]
    exact foldl_keep State.scan restartLine (fun u l => (restartLine_kept u l).1) allLines s
  have hch : (restartPrinter (allLines.foldl restartLine s)).channel c = s.channel c := by rw [State.channel, hscan]; rfl
  rw [← hch] at h ⊢
  unfold restartBlocks
  dsimp only
  generalize restartPrinter (allLines.foldl restartLine s) = u at h ⊢
  refine (restartCredits_credit ?_).trans rfl
  exact h

/-! ### RESTART, whole (R210) -/

theorem Line.restarted_settings (g : Nat) (x : Line) : (x.restarted g).settings = x.settings := by
  unfold Line.restarted Line.released Line.ended
  split
  · rfl
  · split <;> rfl

theorem restartReports_reports (s : State) :
    (restartReports s).link.reports.map QueuedReport.report =
      [.restarted .order s.store.blocks s.store.freeCount (retiredLines s) s.charges.filled.length] ++
        (if s.charges.filled = [] then [] else [.recordsWaiting s.charges.filled.length 0]) ∧
    (restartReports s).link.gap = false ∧ (restartReports s).link.replies = s.link.replies ∧
    (restartReports s).link.credits = s.link.credits := by
  have h1 : report (.restarted .order s.store.blocks s.store.freeCount (retiredLines s) s.charges.filled.length)
      { s with link := { s.link with reports := [], gap := false } } = { s with
      link := { s.link with
        reports := [⟨.restarted .order s.store.blocks s.store.freeCount (retiredLines s) s.charges.filled.length, false⟩], gap := false } } :=
    report_room (by simp)
  have hr : restartReports s = (fun u => if s.charges.filled.length = 0 then u else report (.recordsWaiting s.charges.filled.length 0) u)
      (report (.restarted .order s.store.blocks s.store.freeCount (retiredLines s) s.charges.filled.length)
        { s with link := { s.link with reports := [], gap := false } }) := rfl
  rw [hr, h1]
  by_cases hn : s.charges.filled = []
  · simp [hn]
  · have hl : s.charges.filled.length ≠ 0 := by simpa using hn
    simp only [if_neg hl, if_neg hn]
    rw [report_room (by simp)]
    simp

/-- Settles O38. -/
theorem restartClearsWork : Obligations.RestartClearsWork := by
  intro s tag h
  generalize ho : (⟨tag, 29, []⟩ : Order) = o
  have hrun : exec (.restart tag []) s = .next (answerOrder o (done [] (restartReports (restartBlocks (s.handed o))))) := by
    subst ho
    exact congrArg Host.Outcome.next (takeOrder_taken h 29 _)
  generalize hu : restartBlocks (s.handed o) = u at hrun
  have hstore : u.store = s.store.restarted := by rw [← hu]; exact restartBlocks_store _
  obtain ⟨hjobs, hentries, hpassing, hrerun, hcandidates, hscan, hprinter⟩ := restartBlocks_lists (s.handed o)
  obtain ⟨haccounts, hfilled, hreplies⟩ := restartBlocks_kept (s.handed o)
  obtain ⟨-, hcfg, hprofiles, -, hclock, -⟩ := restartBlocks_frame (s.handed o)
  obtain ⟨hphase, hnojob, hpaused, hcredits, hpaper⟩ := restartPrinter_printer (allLines.foldl restartLine (s.handed o))
  have hprinting := (foldl_restartLine_frame allLines (s.handed o)).2.2.2.2.1
  have hjob : (allLines.foldl restartLine (s.handed o)).jobs = s.jobs :=
    foldl_keep State.jobs restartLine (fun u l => (restartLine_kept u l).2.1) allLines _
  have hcredit (c : ChannelNo) := restartBlocks_credit (s := s.handed o) (c := c)
  have hline (l : LineNo) := restartBlocks_line (s.handed o) l
  have hproc (l : LineNo) := restartBlocks_proc (s.handed o) l
  have hmeter (l : LineNo) := restartBlocks_meter (s.handed o) l
  rw [hprinting] at hcredits hpaper
  rw [← hprinter] at hphase hnojob hpaused hcredits hpaper
  have hfinish (j : Fin 32) (d : Fin 64) (b : PrintJob) (w : Option Report) (hp : s.printer.phase = .printing)
      (hj : s.printer.job = some j) (hb : s.job j = some ⟨d, .print b, w⟩) : (restartBlocks (s.handed o)).printer.frames =
        s.printer.frames ++ [.pageFinish j b.slot b.copy s.printer.sent s.printer.substituted .cancelled] := by
    have h1 := restartPrinter_finish (s := allLines.foldl restartLine (s.handed o)) (j := j) (d := d) (b := b) (w := w)
      (by rw [hprinting]; exact hp) (by rw [hprinting]; exact hj) (by rw [State.job, hjob]; exact hb)
    rw [hprinter, h1, hprinting]
    rfl
  rw [hu] at hjobs hentries hpassing hrerun hcandidates hscan hfilled hreplies hcfg hprofiles hclock hphase hnojob hpaused hcredits hpaper
  simp only [hu] at haccounts hcredit hline hproc hmeter hfinish
  obtain ⟨-, h1, h2, h3, h4, h5, h6, h7, h8, -, -, h9, h10, h11, h12, h13, -⟩ := restartReports_frame u
  obtain ⟨hreports, hgap, hvreplies, hvcredits⟩ := restartReports_reports u
  generalize restartReports u = v at hrun h1 h2 h3 h4 h5 h6 h7 h8 h9 h10 h11 h12 h13 hreports hgap hvreplies hvcredits
  have hvline (l : LineNo) : v.line l = (s.line l).restarted s.cfg.guardTime := by
    rw [State.line, h6]
    exact hline l
  have hvmeter (l : LineNo) : v.meter l = (s.line l).restartMeter (s.meter l) := by
    rw [State.meter, h11]
    exact hmeter l
  have hblank : u.store.pages = Vector.replicate 256 .blank ∧ u.store.docs = Vector.replicate 64 none ∧ u.store.claims = [] ∧
      u.store.freeList = List.range s.store.blocks ∧ u.store.blocks = s.store.blocks := by
    rw [hstore]
    exact ⟨rfl, rfl, rfl, rfl, rfl⟩
  obtain ⟨hpages, hdocs, hclaims, hfree, hblocks⟩ := hblank
  refine ⟨_, hrun, fun l => ⟨fun hr => ?_, fun hr => ?_, fun hr hi => ?_, ?_, ?_, fun hr ha hans => ?_⟩, fun j => ?_, ?_, ?_, ?_, ?_, ?_, ?_, ?_,
    ?_, fun p => ?_, fun d => ?_, ?_, fun c => ?_, ?_, ?_, fun c hc => ?_, ?_, ?_, ?_, fun j d b w hp hj hb => ?_, ?_, ?_, ?_, ?_, ?_, ?_,
    fun a => ?_, ?_, ?_, ?_⟩
  · show (v.line l).state = _ ∧ (v.line l).lastReason = _ ∧ (v.line l).guard = _ ∧ (v.line l).admission = _ ∧ (v.line l).receive = _ ∧
      (v.line l).retiring = _
    rw [hvline, Line.restarted, if_pos hr]
    exact ⟨rfl, rfl, rfl, rfl, rfl, rfl⟩
  · show (v.line l).state = _
    rw [hvline, Line.restarted, if_neg (by simp [Line.releasable, hr]), if_pos hr]
    rfl
  · show v.line l = _
    rw [hvline, Line.restarted, if_neg (by simp [hr]), if_neg hi]
  · show (v.line l).settings = _
    rw [hvline, Line.restarted_settings]
  · show v.proc l = _
    rw [State.proc, h8]
    exact hproc l
  · show (v.meter l).running = false
    rw [hvmeter, Line.restartMeter, if_pos ⟨hr, ha, hans⟩]
  · show fetch v.jobs.slots j = none
    rw [h4, hjobs]
    exact fetch_replicate ..
  · show v.jobs.order = []
    rw [h4, hjobs]
    rfl
  · show v.jobs.groups = _
    rw [h4, hjobs]
    rfl
  · show v.routes.entries = _
    rw [h5, hentries]
    rfl
  · show v.routes.passing = _
    rw [h5, hpassing]
  · show v.routes.rerun = _
    rw [h5, hrerun]
  · show v.routes.candidates = _
    rw [h5, hcandidates]
  · show v.store.blocks = _
    rw [h2, hblocks]
  · show v.store.freeList = _
    rw [h2, hfree]
  · show fetch v.store.pages p = _
    rw [h2, hpages]
    exact fetch_replicate ..
  · show fetch v.store.docs d = _
    rw [h2, hdocs]
    exact fetch_replicate ..
  · show v.store.claims = _
    rw [h2, hclaims]
  · show fetch v.scan.channels c = _
    rw [h3, hscan]
    exact fetch_replicate ..
  · show v.scan.coder = _
    rw [h3, hscan]
    rfl
  · show v.scan.lastServed = _
    rw [h3, hscan]
    rfl
  · show fetch v.link.credits c = _
    rw [hvcredits]
    exact hcredit c hc
  · show v.printer.phase = _
    rw [h9, hphase]
  · show v.printer.job = _
    rw [h9, hnojob]
  · show v.printer.paused = _
    rw [h9, hpaused]
  · show v.printer.frames = _
    rw [h9, hfinish j d b w hp hj hb]
  · show v.printer.credits = _
    rw [h9, hcredits]
    rfl
  · show v.printer.paperOut = _
    rw [h9, hpaper]
    rfl
  · show v.clock = _
    rw [h10, hclock]
    rfl
  · show v.cfg = _
    rw [h1, hcfg]
    rfl
  · show v.profiles = _
    rw [h7, hprofiles]
    rfl
  · exact hgap
  · show (v.account a).total = _ ∧ (v.account a).limit = _
    rw [State.account, h12]
    exact haccounts a
  · show _ <+: v.charges.filled
    rw [h13]
    exact hfilled
  · have hlines : retiredLines (answerOrder o (done [] v)) = retiredLines u := by
      show allLines.filter (fun l => decide ((v.line l).state = .retired)) = _
      unfold State.line
      rw [h6]
      rfl
    have hcount : u.store.freeCount = s.store.blocks := by
      unfold Store.freeCount
      rw [hfree, List.length_range]
    show v.link.reports.map _ = [Report.restarted .order _ _ _ v.charges.filled.length] ++
      (if v.charges.filled = [] then [] else [Report.recordsWaiting v.charges.filled.length 0])
    rw [hlines, h13, hreports, hcount, hblocks]
  · show v.link.replies ++ _ = _
    rw [hvreplies, hreplies, ← ho]
    rfl

end Sys2Proof.Machine
end

section
/-! PROOFS. The sheets of a scan channel (O39, O40, O41): a START, an END, an ABORT and the SCAN timeout. -/

namespace Sys2Proof.Machine

/-! ### From the link to the channel (R203, R213) -/

theorem frameTaken_sheet (c : ChannelNo) (payload : List Byte) :
    frameTaken ⟨0, byteOf (c.val + 2), byteOf FrameKind.sheet.code, payload⟩ = .sheet c := by
  simp only [frameTaken, channelOf_station]
  rfl

/-- With nothing in the checker, a SHEET frame of a scanner station goes to that station's channel and nowhere else. -/
theorem goodFrame_sheet {s : State} (hs : s.link.bytes = []) (c : ChannelNo) (payload : List Byte) :
    goodFrame (byteOf (c.val + 2)) .sheet payload s = sheetFrame c payload s := by
  rw [goodFrame, checkerIdle_of_bytes_nil hs, dealFrame, frameTaken_sheet]

theorem exec_sheetStart_arrives {s : State} (hs : s.link.bytes = []) (c : ChannelNo) (n : Byte) {w r : Nat} (hw : w < 65536) (hr : r < 256) :
    exec (.sheetStart (byteOf (c.val + 2)) ([n] ++ uint 2 w ++ uint 1 r)) s = .next (arriveStart c ⟨n.toNat, w, r⟩ s) := by
  have hread : readAll readSheet (0 :: ([n] ++ uint 2 w ++ uint 1 r)) = some (.start ⟨n.toNat, w, r⟩) := by
    refine readAll_of_run fun rest => ?_
    simp only [List.append_assoc, List.cons_append, List.nil_append]
    exact (readSheet_run 0 _).trans <| (Reader.run_next (readUint_one n _)).trans <|
      (Reader.run_next (readUint_uint 2 w hw _)).trans <| (Reader.run_next (readUint_one_uint hr _)).trans rfl
  refine congrArg Host.Outcome.next ((goodFrame_sheet hs c _).trans ?_)
  rw [sheetFrame, hread]

theorem exec_sheetEnd_arrives {s : State} (hs : s.link.bytes = []) (c : ChannelNo) (n : Byte) {k : Nat} (hk : k < 65536) :
    exec (.sheetEnd (byteOf (c.val + 2)) ([n] ++ uint 2 k)) s = .next (arriveEnd c n.toNat k s) := by
  have hread : readAll readSheet (1 :: ([n] ++ uint 2 k)) = some (.stop n.toNat k) := by
    refine readAll_of_run fun rest => ?_
    simp only [List.cons_append, List.nil_append]
    exact (readSheet_run 1 _).trans <| (Reader.run_next (readUint_one n _)).trans <| (Reader.run_next (readUint_uint 2 k hk _)).trans rfl
  refine congrArg Host.Outcome.next ((goodFrame_sheet hs c _).trans ?_)
  rw [sheetFrame, hread]

theorem exec_sheetAbort_arrives {s : State} (hs : s.link.bytes = []) (c : ChannelNo) (n : Byte) :
    exec (.sheetAbort (byteOf (c.val + 2)) [n]) s = .next (arriveAbort c n.toNat s) := by
  have hread : readAll readSheet [2, n] = some (.abort n.toNat) := by
    refine readAll_of_run ?_
    simp [readSheet, readSheetAbort]
  refine congrArg Host.Outcome.next ((goodFrame_sheet hs c _).trans ?_)
  rw [sheetFrame, hread]

/-! ### A START (R49) -/

/-- The channel of a new sheet with its first credits and its SCAN wait (R49, R52). -/
def Channel.granted (x : Channel) (f : StartFrame) (q : Resolution) (p : Fin 256) : Channel :=
  { x.started f q p with limit := 4, sup := .enter .scan }

/-- The store with the page record of a new sheet taken (R5, R19). -/
def State.startStore (s : State) (f : StartFrame) (q : Resolution) (d : Fin 64) (slot : Option Nat) (p : Fin 256) : Store :=
  match slot with
  | some k => s.store.takeReplacement p f.width q d k
  | none => s.store.mapPage p f.width q d (docHolders d s)

theorem grant_started (c : ChannelNo) (x : Channel) (f : StartFrame) (q : Resolution) (p : Fin 256) (u : State) :
    let t := grant c (u.setChannel c (x.started f q p))
    t.setChannel c { t.channel c with sup := .enter .scan } = (sendCredit c ⟨f.sheet, 4, 0, false⟩ u).setChannel c (x.granted f q p) := by
  have hgrant : grant c (u.setChannel c (x.started f q p)) =
      sendCredit c ⟨f.sheet, 4, 0, false⟩ (u.setChannel c { x.started f q p with limit := 4 }) := by
    rw [grant_setChannel]
    rfl
  have hchannel : (sendCredit c ⟨f.sheet, 4, 0, false⟩ (u.setChannel c { x.started f q p with limit := 4 })).channel c =
      { x.started f q p with limit := 4 } := fetch_store_same ..
  dsimp only
  rw [hgrant, hchannel]
  simp only [sendCredit, State.setChannel, store_store, Channel.granted]

theorem startSheet_quiet {s : State} (hq : s.quiet) (c : ChannelNo) (f : StartFrame) (q : Resolution) (d : Fin 64) (slot : Option Nat)
    (p : Fin 256) : startSheet c f q d slot p s =
      (sendCredit c ⟨f.sheet, 4, 0, false⟩ { s with store := s.startStore f q d slot p }).setChannel c ((s.channel c).granted f q p) := by
  refine Eq.trans (b := documentNews d _) ?_ (documentNews_quiet (State.quiet_congr hq ?_ ?_ ?_ ?_) d)
  · exact congrArg (documentNews d) (grant_started c (s.channel c) f q p { s with store := s.startStore f q d slot p })
  all_goals rfl

theorem takeStart_bound {s : State} {c : ChannelNo} {f : StartFrame} {q : Resolution} {d : Fin 64} {slot : Option Nat} {p : Fin 256}
    (hw : isWidth f.width = true) (hr : Resolution.ofCode f.resolution = some q) (ht : (s.channel c).target = some (d, slot))
    (hp : s.store.nextPage p) (hfull : slot = none → docFull d s = false) : takeStart c f s = startSheet c f q d slot p s := by
  obtain ⟨hfree, hheld, hlow⟩ := hp
  have hpage : s.store.freePage = some p := by
    refine find?_indices (by simp [hfree, hheld]) fun k hk => ?_
    rcases hlow k hk with h | h <;> simp [h]
  unfold takeStart
  rw [hw, hr, ht, hpage]
  dsimp only
  refine if_neg ?_
  rintro ⟨hn, hf⟩
  rw [hfull hn] at hf
  cases hf

theorem ofCode_code (q : Resolution) : Resolution.ofCode q.code = some q := by cases q <;> rfl

theorem setChannel_same (s : State) (c : ChannelNo) : s.setChannel c (s.channel c) = s := by
  unfold State.setChannel State.channel
  rw [store_fetch]

/-- A refused START changes nothing but the reports and the CREDIT frame where no replacement is pending. -/
theorem refuseStart_noReplacement {s : State} {c : ChannelNo} (h : (s.channel c).replacement = .none) (f : StartFrame) (cause : ScanFault) :
    refuseStart c f cause s =
      sendCredit c ⟨f.sheet, 0, 0, true⟩ (report (.scanFault c f.sheet cause (s.channel c).binding.doc? none false) s) := by
  have hp : (s.channel c).pendingReplacement = none := by rw [Channel.pendingReplacement, h]
  unfold refuseStart startFault
  dsimp only
  rw [h, hp]
  refine congrArg (sendCredit c _) ?_
  exact setChannel_same _ _

/-- Settles O39. -/
theorem sheetStartTakesPage : Obligations.SheetStartTakesPage := by
  intro s c n w q hb hi run started
  have hcode : q.code < 256 := by cases q <;> decide
  have hrun (v : Nat) (hv : v < 65536) : run v = .next (takeStart c ⟨n.toNat, v, q.code⟩ s) := by
    refine (exec_sheetStart_arrives hb c n hv hcode).trans (congrArg _ ?_)
    unfold arriveStart
    dsimp only
    rw [hi]
  have hwidth (v : Nat) (hv : v = 1024 ∨ v = 1536 ∨ v = 2048) : v < 65536 ∧ isWidth v = true := ⟨by omega, by simp [isWidth, hv]⟩
  have hstarted (p : Fin 256) (st : Store) (new : Replacement) (x : Channel)
      (hx : ((s.channel c).granted ⟨n.toNat, w, q.code⟩ q p) = x) (hnew : x.replacement = new) :
      started ((sendCredit c ⟨n.toNat, 4, 0, false⟩ { s with store := st }).setChannel c x) p new := by
    refine ⟨?_, fun e he => ?_, rfl, rfl, rfl, rfl, rfl, rfl⟩
    · rw [State.setChannel_channel_same, ← hnew, ← hx]
      rfl
    · rw [State.setChannel_channel_ne _ _ _ _ he]
      rfl
  refine ⟨?_, ?_, ?_, ?_⟩
  · intro d x p hw hq hbind hrep hd hroom hp
    obtain ⟨hv, hisw⟩ := hwidth w hw
    have ht : (s.channel c).target = some (d, none) := by
      rw [Channel.target, Channel.pendingReplacement, hrep, hbind]
    have hfull : docFull d s = false := by simp [docFull, hd, hroom]
    rw [hrun w hv, takeStart_bound hisw (ofCode_code q) ht hp (fun _ => hfull), startSheet_quiet hq c _ q d none p]
    refine ⟨_, rfl, hstarted p _ .none _ rfl ?_, ?_⟩
    · simp [Channel.granted, Channel.started, hrep]
    · exact Store.mapPage_some hd p w q _
  · intro d k x old p hw hq hbind hrep hd hk hp
    obtain ⟨hv, hisw⟩ := hwidth w hw
    have ht : (s.channel c).target = some (d, some k) := by
      rw [Channel.target, Channel.pendingReplacement, hrep]
      cases hbi : (s.channel c).binding with
      | unbound => exact absurd hbi hbind
      | bound e => rfl
      | replaceOnly e => rfl
    rw [hrun w hv, takeStart_bound hisw (ofCode_code q) ht hp (fun h => nomatch h), startSheet_quiet hq c _ q d (some k) p]
    refine ⟨_, rfl, hstarted p _ (.filling d k p) _ rfl ?_, ?_⟩
    · simp [Channel.granted, Channel.started, hrep]
    · have hslot : s.store.slotPage d k = some old := by
        unfold Store.slotPage
        rw [show fetch s.store.docs d = some x from hd]
        exact hk
      show s.store.takeReplacement p w q d k = _
      unfold Store.takeReplacement
      rw [hslot]
      rfl
  · intro hw hbind hrep
    obtain ⟨hv, hisw⟩ := hwidth w hw
    rw [hrun w hv]
    unfold takeStart
    rw [hisw, ofCode_code, Channel.target, Channel.pendingReplacement, hrep, hbind]
    exact congrArg _ ((refuseStart_noReplacement hrep _ _).trans (by rw [hbind]; rfl))
  · intro hv h1 h2 h3 hrep
    rw [hrun w hv]
    unfold takeStart
    rw [show isWidth w = false by simp [isWidth, h1, h2, h3]]
    exact congrArg _ (refuseStart_noReplacement hrep _ _)

/-! ### An END and the SCAN timeout (R55, R59) -/

theorem linesToHave_expected (n : Nat) : linesToHave n n - n = if n = 0 then 1 else 0 := by
  unfold linesToHave
  by_cases h : n = 0
  · simp [h]
  · rw [if_neg (by simp [h]), if_neg h]
    omega

/-- Settles O40. -/
theorem sheetEndStopsLines : Obligations.SheetEndStopsLines := by
  intro s c x
  refine ⟨fun n count hb hcount => ?_, fun hcls hsus => ?_⟩
  · intro run lines
    have hrun : run = .next (arriveEnd c n.toNat count s) := exec_sheetEnd_arrives hb c n hcount
    refine ⟨fun ha hn => ?_, fun h => ?_⟩
    · rw [hrun, arriveEnd, if_pos ⟨ha, hn⟩, Channel.stopped, Bool.or_false]
      rfl
    · rw [hrun, arriveEnd, if_neg (by rcases h with h | h <;> simp [x, h])]
  · have hstopped : x.stopped x.expected true = { x with
        sheet := .ending, endEntry := some (if x.expected = 0 then 1 else 0), limit := x.expected, sup := ⟨none, 0, false⟩,
        truncate := true } := by
      unfold Channel.stopped
      rw [linesToHave_expected, Bool.or_true, Bool.true_or]
      rfl
    refine congrArg Host.Outcome.next ?_
    unfold scanTimeout
    rw [if_pos ⟨hcls, hsus⟩]
    unfold scanSilent sheetFault sheetPlace
    dsimp only
    rw [State.setChannel_channel_same, hstopped]
    rfl

/-! ### An ABORT (R8, R56) -/

/-- What the coder works on and the channel it served last. -/
def State.coderPart (s : State) : CoderState × ChannelNo := (s.scan.coder, s.scan.lastServed)

theorem grant_coderPart (c : ChannelNo) (s : State) : (grant c s).coderPart = s.coderPart := by
  rcases grant_cases c s with ⟨-, h⟩ | ⟨-, h⟩
  · rw [h]
  · rw [h]
    rfl

theorem endStall_coderPart (c : ChannelNo) (s : State) : (endStall c s).coderPart = s.coderPart := by
  unfold endStall
  dsimp only
  split
  · exact grant_coderPart c _
  · rfl

/-- A change of the store leaves the coder as it was. -/
theorem withStore_coderPart (f : Store → Store) (s : State) : (withStore f s).coderPart = s.coderPart := by
  unfold withStore
  dsimp only
  split
  · exact foldl_keep State.coderPart (fun u c => endStall c u) (fun u c => endStall_coderPart c u) allChannels _
  · rfl

/-- A store without a page that was being filled (R8, R17). -/
def Store.withoutPage (st : Store) (p : Fin 256) (d : Fin 64) (x : Document) (rest : List (Fin 256)) : Store :=
  { st with
    freeList := st.freeList ++ (fetch st.pages p).chain, docs := store st.docs d (some { x with slots := rest }),
    pages := store st.pages p .blank, claims := st.claims.filter (fun e => decide (e.page ≠ p)) }

theorem erase_last {p : Fin 256} {rest : List (Fin 256)} (h : p ∉ rest) : (rest ++ [p]).erase p = rest := by
  rw [List.erase_append_right _ h]
  simp

/-- A mapped FILLING page with no claim in use is discarded whole. -/
theorem Store.discard_unused {st : Store} {p : Fin 256} {d : Fin 64} {k : Nat} {x : Document} {rest : List (Fin 256)}
    (hm : (fetch st.pages p).mapped = true) (hp : (fetch st.pages p).place = some (d, k)) (hd : fetch st.docs d = some x)
    (hx : x.slots = rest ++ [p]) (hr : p ∉ rest) (hu : ∀ e ∈ st.claims, e.page = p → e.inUse = false) :
    st.discard p = st.withoutPage p d x rest := by
  have hclaims : (st.claims.filter (fun c => !decide (c.page = p) || c.inUse)).map
      (fun c => if c.page = p then { c with withdrawn := true } else c) = st.claims.filter (fun e => decide (e.page ≠ p)) := by
    have hf : st.claims.filter (fun c => !decide (c.page = p) || c.inUse) = st.claims.filter (fun e => decide (e.page ≠ p)) := by
      refine List.filter_congr fun e he => ?_
      by_cases hep : e.page = p
      · simp [hep, hu e he hep]
      · simp [hep]
    rw [hf]
    refine (List.map_congr_left fun e he => if_neg ?_).trans (List.map_id _)
    simpa using (List.mem_filter.mp he).2
  have hcount : (st.claims.filter (fun e => decide (e.page ≠ p))).countP (fun c => decide (c.page = p)) = 0 := by
    rw [List.countP_eq_zero]
    intro e he
    simpa using (List.mem_filter.mp he).2
  have hslots : change st.docs d (Option.map (fun g => { g with slots := g.slots.erase p })) =
      store st.docs d (some { x with slots := rest }) := by
    unfold change
    rw [hd, Option.map_some, hx, erase_last hr]
  unfold Store.discard
  dsimp only
  rw [hm, hp, hclaims]
  dsimp only
  rw [hslots]
  unfold Store.settle
  dsimp only
  rw [fetch_store_same, if_pos ⟨.inr rfl, rfl, hcount⟩, store_store, List.append_nil]
  rfl

/-- With no close pending and no START held, nothing follows the end of a sheet (R56, R60). -/
theorem closeIfPending_none {s : State} {c : ChannelNo} (h : ∀ d, (s.channel c).binding = .bound d → closeWaits d s = false) :
    closeIfPending c s = s := by
  unfold closeIfPending
  cases hb : (s.channel c).binding with
  | bound d => simp [h d hb]
  | unbound => rfl
  | replaceOnly d => rfl

theorem takeHeld_none {s : State} {c : ChannelNo} (h : (s.channel c).heldStart = none) : takeHeld c s = s := by
  rw [takeHeld, h]

theorem printWithdrawn_noPrinting {s : State} (h : s.noPrinting) (p : Fin 256) : printWithdrawn p s = s := by
  rw [printWithdrawn, if_neg (by simp [h.1])]

/-- The coder without its work on a line of a channel (R33). -/
def CoderState.dropped (c : ChannelNo) : CoderState → CoderState
  | .busy e i => if e = c then .idle else .busy e i
  | .idle => .idle

theorem dropCoderWork_eq (c : ChannelNo) (s : State) :
    dropCoderWork c s = { s with scan := { s.scan with coder := s.scan.coder.dropped c } } := by
  have hsame {x : CoderState} (h : x = s.scan.coder) : s = { s with scan := { s.scan with coder := x } } := by rw [h]
  unfold dropCoderWork CoderState.dropped
  cases hx : s.scan.coder with
  | idle => exact hsame hx.symm
  | busy e i =>
    dsimp only
    by_cases he : e = c
    · rw [if_pos he, if_pos he]
    · rw [if_neg he, if_neg he]
      exact hsame hx.symm

/-- Settles O41. -/
theorem sheetAbortDiscardsPage : Obligations.SheetAbortDiscardsPage := by
  intro s c n d x k hb hq y p hs hn hheld hrep hbind hd hpend hfill hmap hplace hused rest hslots hrest
  have hrun : exec (.sheetAbort (byteOf (c.val + 2)) [n]) s = .next (abortSheet c s) := by
    rw [exec_sheetAbort_arrives hb, arriveAbort, if_pos ⟨by simpa [Channel.inProgress] using hs, hn⟩]
  have hreplacing : y.replacing = false := by rw [Channel.replacing, hrep]
  have habort : y.aborted = { y with
      staging := [], endEntry := none, limit := y.expected, stalled := false, sup := ⟨none, 0, false⟩, coder := ⟨none, 0, 0⟩,
      sheet := .idle } := by
    unfold Channel.aborted
    rw [hreplacing]
    rfl
  have hcoder := dropCoderWork_eq c s
  generalize hdrop : dropCoderWork c s = r at hcoder
  have hfault : sheetFault c .aborted r = report (.scanFault c y.number .aborted (some d) (some (k, p)) false) r := by
    unfold sheetFault sheetPlace
    have hch : r.channel c = y := by rw [hcoder]; rfl
    have hpg : (r.page y.page).place = some (d, k) := by rw [hcoder]; exact hplace
    dsimp only
    rw [hch, hbind, hreplacing, hpg]
    rfl
  generalize hu : (report (.scanFault c y.number .aborted (some d) (some (k, p)) false) r).setChannel c y.aborted = u
  have huchannel : u.channel c = y.aborted := by rw [← hu, State.setChannel_channel_same]
  have hukept : u.store = s.store ∧ u.jobs = s.jobs ∧ u.lines = s.lines ∧ u.procs = s.procs ∧ u.printer = s.printer := by
    rw [← hu, hcoder]
    exact ⟨rfl, rfl, rfl, rfl, rfl⟩
  obtain ⟨hustore, hujobs, hulines, huprocs, huprinter⟩ := hukept
  generalize hv : withStore (fun st => st.discard p) u = v
  have hvstore : v.store = s.store.withoutPage p d x rest := by
    rw [← hv, withStore_store, hustore]
    exact Store.discard_unused hmap hplace hd hslots hrest hused
  have hvchannel : v.channel c = y.aborted := by
    rw [← hv, withStore_channel _ _ _ (by rw [huchannel]; rfl), huchannel]
  have hvkept : v.jobs = s.jobs ∧ v.lines = s.lines ∧ v.procs = s.procs ∧ v.printer = s.printer := by
    rw [← hv, ← hujobs, ← hulines, ← huprocs, ← huprinter]
    simp
  obtain ⟨hvjobs, hvlines, hvprocs, hvprinter⟩ := hvkept
  have hvquiet : v.quiet := State.quiet_congr hq hvprinter (by rw [hvjobs]) hvlines hvprocs
  have hvdoc : v.doc d = some { x with slots := rest } := by
    rw [State.doc, hvstore]
    exact fetch_store_same ..
  have hclose : closeIfPending c v = v := by
    refine closeIfPending_none fun e he => ?_
    rw [hvchannel, habort] at he
    obtain rfl : d = e := Binding.bound.inj (hbind.symm.trans he)
    rw [closeWaits, hvdoc]
    exact hpend
  have habortSheet : abortSheet c s = v := by
    unfold abortSheet
    dsimp only
    rw [hdrop, hfault, show (s.channel c).binding.doc? = some d by rw [show (s.channel c).binding = .bound d from hbind]; rfl]
    rw [hu, hv, printWithdrawn_noPrinting hvquiet.1, hclose, callersPageGone_quiet hvquiet]
    dsimp only
    rw [documentNews_quiet hvquiet, takeHeld_none]
    rw [hvchannel, habort]
    exact hheld
  refine ⟨v, hrun.trans (congrArg _ habortSheet), hvchannel.trans habort, ?_, fun q hqp => ?_, ?_, ?_, ?_, hvdoc, fun e he => ?_, ?_, ?_,
    hvjobs, hvlines, hvprocs, hvprinter⟩
  · rw [State.page, hvstore]
    exact fetch_store_same ..
  · rw [State.page, hvstore]
    exact fetch_store_ne _ _ hqp
  · rw [hvstore]
    rfl
  · rw [hvstore]
    rfl
  · have hkept : v.scan.coder = u.scan.coder := by
      rw [← hv]
      exact (Prod.mk.inj (withStore_coderPart (fun st => st.discard p) u)).1
    rw [hkept, ← hu]
    show r.scan.coder = _
    rw [hcoder]
    rfl
  · rw [State.doc, hvstore]
    exact fetch_store_ne _ _ he
  · rw [hvstore]
    rfl
  · have hreports : v.link.reports = u.link.reports := by
      obtain ⟨scan, credits, h⟩ := withStore_eq (fun st => st.discard p) u
      rw [← hv, h]
    rw [hreports, ← hu]
    show (r.link.offer _).reports = _
    rw [hcoder]

end Sys2Proof.Machine
end

section
/-! PROOFS. The coder's turn (O43, O44): the bytes that an append leaves in the page memory, then what the turn does to the channel. -/

namespace Sys2Proof.Machine

/-! ### Blocks in one place (R1) -/

theorem Store.blocksKept.nodup {st : Store} (h : st.blocksKept) : (st.freeList ++ st.pages.toList.flatMap Page.chain).Nodup :=
  h.1.nodup_iff.mpr List.nodup_range

theorem fetch_mem_toList {α : Type} {n : Nat} (t : Table α n) (i : Fin n) : fetch t i ∈ t.toList := by
  simp [fetch]

theorem Store.blocksKept.chain_nodup {st : Store} (h : st.blocksKept) (p : Fin 256) : (fetch st.pages p).chain.Nodup :=
  (List.nodup_flatMap.mp (List.nodup_append.mp h.nodup).2.1).1 _ (fetch_mem_toList ..)

theorem Store.blocksKept.free_notMem {st : Store} (h : st.blocksKept) {b : Nat} (hb : b ∈ st.freeList) (p : Fin 256) :
    b ∉ (fetch st.pages p).chain := fun hp =>
  (List.nodup_append.mp h.nodup).2.2 b hb b (List.mem_flatMap.mpr ⟨_, fetch_mem_toList .., hp⟩) rfl

/-- The chains of two page records have no block in common. -/
theorem Store.blocksKept.chain_disjoint {st : Store} (h : st.blocksKept) {p q : Fin 256} (hpq : p ≠ q) {b : Nat}
    (hb : b ∈ (fetch st.pages p).chain) : b ∉ (fetch st.pages q).chain := by
  have hd := List.pairwise_iff_getElem.mp (List.nodup_flatMap.mp (List.nodup_append.mp h.nodup).2.1).2
  have key {i j : Fin 256} (hij : i < j) : List.Disjoint (fetch st.pages i).chain (fetch st.pages j).chain := by
    have := hd i.val j.val (by simp) (by simp) hij
    simpa [fetch] using this
  rcases Nat.lt_or_gt_of_ne (Fin.val_ne_of_ne hpq) with hlt | hlt
  · exact fun hq => key hlt hb hq
  · exact fun hq => key hlt hq hb

/-! ### The bytes of a page after an append (R3, R6) -/

/-- The block of an address of a page is one of its chain. -/
theorem pageAddress_block {chain : List Nat} {off : Nat} (h : off < chain.length * 2048) : pageAddress chain off / 2048 ∈ chain := by
  have ho : off / 2048 < chain.length := by omega
  rw [pageAddress, List.getD_eq_getElem _ _ ho, show (chain[off / 2048] * 2048 + off % 2048) / 2048 = chain[off / 2048] by omega]
  exact List.getElem_mem ho

theorem pageAddress_append (chain more : List Nat) {off : Nat} (h : off < chain.length * 2048) :
    pageAddress (chain ++ more) off = pageAddress chain off := by
  have ho : off / 2048 < chain.length := by omega
  rw [pageAddress, pageAddress, List.getD_append _ _ _ _ ho]

theorem codedBytes_append {m : Memory} (hw : m.wf = true) {chain more : List Nat} (hn : (chain ++ more).Nodup) {len : Nat}
    {bytes : List Byte} (hlen : len ≤ chain.length * 2048) (hroom : len + bytes.length ≤ (chain ++ more).length * 2048) :
    (List.range (len + bytes.length)).map
        (fun k => (Memory.writePage (chain ++ more) m len bytes).read (pageAddress (chain ++ more) k)) =
      (List.range len).map (fun k => m.read (pageAddress chain k)) ++ bytes := by
  rw [List.range_add, List.map_append, List.map_map]
  congr 1
  · refine List.map_congr_left fun k hk => ?_
    have hk := List.mem_range.mp hk
    rw [Memory.read_writePage_ne _ hw, pageAddress_append _ _ (by omega)]
    intro i hi he
    have := pageAddress_inj hn (by omega) (by omega) he
    omega
  · refine List.ext_getElem (by simp) fun i h1 h2 => ?_
    rw [List.getElem_map, List.getElem_range]
    refine Memory.read_writePage _ hw _ _ i h2 fun p q _ hpq hq he => ?_
    have := pageAddress_inj hn (by omega) (by omega) he
    omega

theorem codedBytes_other {m : Memory} (hw : m.wf = true) {chain other : List Nat} (hd : ∀ b ∈ chain, b ∉ other) {len n : Nat}
    {bytes : List Byte} (hroom : len + bytes.length ≤ chain.length * 2048) (hn : n ≤ other.length * 2048) :
    (List.range n).map (fun k => (Memory.writePage chain m len bytes).read (pageAddress other k)) =
      (List.range n).map (fun k => m.read (pageAddress other k)) := by
  refine List.map_congr_left fun k hk => ?_
  have hk := List.mem_range.mp hk
  refine Memory.read_writePage_ne _ hw _ _ _ fun i hi he => ?_
  have hb := pageAddress_block (chain := chain) (off := len + i) (by omega)
  rw [he] at hb
  exact hd _ hb (pageAddress_block (by omega))

/-- A store whose page memory is canonical, with each block in one place and each page within its chain. -/
def Store.sound (st : Store) : Prop :=
  st.mem.wf = true ∧ st.blocksKept ∧ ∀ q, (fetch st.pages q).length ≤ (fetch st.pages q).chain.length * 2048

/-- A store after bytes were appended to a page under its chain or its chain with one more block (R6). -/
def Store.extended (st : Store) (p : Fin 256) (more free : List Nat) (bytes : List Byte) (kind : AppendKind) : Store :=
  { st with
    mem := Memory.writePage ((fetch st.pages p).chain ++ more) st.mem (fetch st.pages p).length bytes, freeList := free,
    pages := store st.pages p ((fetch st.pages p).appended ((fetch st.pages p).chain ++ more) bytes.length kind) }

/-- The blocks an append takes: none where its bytes fit the chain, else the head of the free list. -/
def Store.takes (st : Store) (p : Fin 256) (n : Nat) (more free : List Nat) : Prop :=
  ((fetch st.pages p).length + n ≤ (fetch st.pages p).chain.length * 2048 ∧ more = [] ∧ free = st.freeList) ∨
    (¬(fetch st.pages p).length + n ≤ (fetch st.pages p).chain.length * 2048 ∧ ∃ b, more = [b] ∧ st.freeList = b :: free)

theorem Store.extended_page (st : Store) (p : Fin 256) (more free : List Nat) (bytes : List Byte) (kind : AppendKind) :
    fetch (st.extended p more free bytes kind).pages p =
      (fetch st.pages p).appended ((fetch st.pages p).chain ++ more) bytes.length kind := fetch_store_same ..

theorem Store.extended_page_ne (st : Store) {p q : Fin 256} (more free : List Nat) (bytes : List Byte) (kind : AppendKind) (h : q ≠ p) :
    fetch (st.extended p more free bytes kind).pages q = fetch st.pages q := fetch_store_ne _ _ h

theorem Store.append_extended {st : Store} {reserve : Nat} {p : Fin 256} {bytes : List Byte} {more free : List Nat}
    (hf : (fetch st.pages p).state = .filling) (ht : st.takes p bytes.length more free)
    (hg : more ≠ [] → reserve < st.freeList.length) (kind : AppendKind) :
    st.append reserve .scan p bytes kind = some (st.extended p more free bytes kind) := by
  rcases ht with ⟨hfits, rfl, rfl⟩ | ⟨hfits, b, rfl, hfree⟩
  · rw [Store.append_fits hf hfits, Store.extended, List.append_nil]
  · have hgrant : st.grantsBlock reserve .scan = true := by
      exact decide_eq_true (hg (by simp))
    unfold Store.append
    dsimp only
    rw [if_neg (by simp [hf]), if_neg hfits, if_pos hgrant, hfree]
    rfl

theorem Store.sound.extended_coded {st : Store} (h : st.sound) {p : Fin 256} {bytes : List Byte} {more free : List Nat}
    (ht : st.takes p bytes.length more free) (hb : bytes.length ≤ 2048) (kind : AppendKind) :
    (st.extended p more free bytes kind).coded p = st.coded p ++ bytes ∧
      ∀ q, q ≠ p → (st.extended p more free bytes kind).coded q = st.coded q := by
  obtain ⟨hw, hk, hl⟩ := h
  have hlen := hl p
  have hnodup : ((fetch st.pages p).chain ++ more).Nodup := by
    rcases ht with ⟨-, rfl, -⟩ | ⟨-, b, rfl, hfree⟩
    · rw [List.append_nil]
      exact hk.chain_nodup p
    · have hb : b ∉ (fetch st.pages p).chain := hk.free_notMem (by rw [hfree]; exact List.mem_cons_self) p
      rw [List.nodup_append_comm]
      exact List.nodup_cons.mpr ⟨hb, hk.chain_nodup p⟩
  have hroom : (fetch st.pages p).length + bytes.length ≤ ((fetch st.pages p).chain ++ more).length * 2048 := by
    rcases ht with ⟨hfits, rfl, -⟩ | ⟨-, b, rfl, -⟩
    · simpa using hfits
    · simp only [List.length_append, List.length_singleton]
      omega
  refine ⟨?_, fun q hq => ?_⟩
  · unfold Store.coded Store.pageByte Store.extended
    dsimp only
    rw [fetch_store_same]
    exact codedBytes_append hw hnodup hlen hroom
  · unfold Store.coded Store.pageByte Store.extended
    dsimp only
    rw [fetch_store_ne _ _ hq]
    refine codedBytes_other hw (fun b hb => ?_) hroom (hl q)
    rcases ht with ⟨-, rfl, -⟩ | ⟨-, c, rfl, hfree⟩
    · rw [List.append_nil] at hb
      exact hk.chain_disjoint hq.symm hb
    · rcases List.mem_append.mp hb with hb | hb
      · exact hk.chain_disjoint hq.symm hb
      · rw [List.mem_singleton.mp hb]
        exact hk.free_notMem (by rw [hfree]; exact List.mem_cons_self) q

/-- A store with the same page memory, and the same length and chain at a page, has the same bytes there. -/
theorem Store.coded_congr {st u : Store} {p : Fin 256} (hm : u.mem = st.mem) (hl : (fetch u.pages p).length = (fetch st.pages p).length)
    (hc : (fetch u.pages p).chain = (fetch st.pages p).chain) : u.coded p = st.coded p := by
  unfold Store.coded Store.pageByte
  rw [hm, hl, hc]

/-! ### A line of a waiting channel (R33, R54, R57) -/

/-- The turn of a channel, its append granted or refused. -/
theorem coderTurn_served {s : State} {c : ChannelNo} (hc : nextChannel s = some c) :
    coderTurn s = printerLook (serveChannel c s) := by
  rw [coderTurn, hc]

/-- The state in which the channel hears the outcome of its append. -/
def State.served (s : State) (c : ChannelNo) (st : Store) : State :=
  { s with scan := { s.scan with lastServed := c, coder := .idle }, store := st }

theorem serveChannel_eq (c : ChannelNo) (s : State) :
    serveChannel c s = (s.store.append s.cfg.reserve .scan (s.channel c).page (s.channel c).pieceBytes (s.channel c).pieceKind).elim
      (stall c (s.served c s.store)) (fun st => pieceGranted c (s.served c st)) := by
  have hmatch (o : Option Store) : (match o with
      | some st => pieceGranted c (s.served c st)
      | none => stall c (s.served c s.store)) = o.elim (stall c (s.served c s.store)) (fun st => pieceGranted c (s.served c st)) := by
    cases o <;> rfl
  exact hmatch _

/-- The piece of a channel with a staged line adds a line, and counts as a substitute where a line is missing before it (R54). -/
theorem Channel.pieceKind_staged {x : Channel} {e : Staged} {rest : List Staged} (h : x.staging = e :: rest) (n : Nat) :
    x.pieceKind ≠ .mark ∧ (if x.pieceKind = .substitute then n + 1 else n) = n + (if 0 < e.missing then 1 else 0) := by
  unfold Channel.pieceKind Channel.piece
  rw [h]
  by_cases hm : 0 < e.missing
  · simp [hm]
  · simp [hm]

theorem Channel.coded_staged {x : Channel} {e : Staged} {rest : List Staged} (h : x.staging = e :: rest) (interval : Nat) :
    (x.coded interval).staging = (if 0 < e.missing then { e with missing := e.missing - 1 } :: rest else rest) ∧
      (x.coded interval).coder = x.coder.advance interval x.pieceRaster := by
  unfold Channel.coded
  dsimp only
  rw [h]
  by_cases hm : 0 < e.missing
  · simp [hm]
  · simp [hm]

/-- A look at the grant condition changes of the channels, the CREDIT frames aside, the limit of one (R52). -/
theorem grant_setChannel_channel (c : ChannelNo) (s : State) (x : Channel) :
    ∃ limit, (grant c (s.setChannel c x)).channel c = { x with limit := limit } := by
  rw [grant_setChannel]
  by_cases h : x.mayGrant = true
  · simp only [if_pos h]
    exact ⟨_, fetch_store_same ..⟩
  · simp only [if_neg h]
    exact ⟨_, fetch_store_same ..⟩

theorem pieceGranted_line {s : State} (hq : s.quiet) {c : ChannelNo} (h : (s.channel c).piece ≠ .mark) :
    pieceGranted c s = grant c (s.setChannel c ((s.channel c).coded s.cfg.anchorInterval)) := by
  have hquiet : (grant c (s.setChannel c ((s.channel c).coded s.cfg.anchorInterval))).quiet :=
    State.quiet_congr hq (by simp) (by simp) (by simp) (by simp)
  unfold pieceGranted
  dsimp only
  split
  · contradiction
  · split
    · exact documentNews_quiet hquiet _
    · rfl

/-- A refused append stalls the channel and is reported (R58). -/
theorem stall_low {s : State} {c : ChannelNo} (h : s.store.freeList.length ≤ s.cfg.reserve) :
    stall c s = report (.storeLow c s.store.freeList.length s.cfg.reserve) (s.setChannel c { s.channel c with
      stalled := true, sup := if (s.channel c).sheet = .active then { (s.channel c).sup with suspended := true } else (s.channel c).sup }) := by
  unfold stall
  exact if_neg (Nat.not_lt.mpr h)

/-- The turn of a channel whose block is refused. -/
theorem coderTurn_refused {s : State} (hq : s.quiet) {c : ChannelNo} (hc : nextChannel s = some c)
    (hfits : ¬(s.page (s.channel c).page).length + (s.channel c).pieceBytes.length ≤ (s.page (s.channel c).page).chain.length * 2048)
    (hlow : s.store.freeList.length ≤ s.cfg.reserve) :
    coderTurn s = report (.storeLow c s.store.freeList.length s.cfg.reserve)
      (({ s with scan := { s.scan with lastServed := c, coder := .idle } }).setChannel c { s.channel c with
        stalled := true, sup := if (s.channel c).sheet = SheetState.active then { (s.channel c).sup with suspended := true } else (s.channel c).sup }) := by
  have hg : s.store.grantsBlock s.cfg.reserve .scan = false := decide_eq_false (Nat.not_lt.mpr hlow)
  rw [coderTurn_served hc, serveChannel_eq, Store.append_refused (Nat.lt_of_not_le hfits) hg]
  refine (congrArg printerLook (stall_low (s := s.served c s.store) hlow)).trans ?_
  exact printerLook_noPrinting (State.noPrinting_congr hq.1 rfl rfl)

/-- The turn of a channel whose line is appended. -/
theorem coderTurn_line {s : State} (hq : s.quiet) {c : ChannelNo} (hc : nextChannel s = some c) (hp : (s.channel c).piece ≠ .mark) {st : Store}
    (h : s.store.append s.cfg.reserve .scan (s.channel c).page (s.channel c).pieceBytes (s.channel c).pieceKind = some st) :
    coderTurn s = grant c ((s.served c st).setChannel c ((s.channel c).coded s.cfg.anchorInterval)) := by
  have hquiet : (s.served c st).quiet := State.quiet_congr hq rfl rfl rfl rfl
  rw [coderTurn_served hc, serveChannel_eq, h]
  refine (congrArg printerLook (pieceGranted_line hquiet hp)).trans ?_
  exact printerLook_noPrinting (State.noPrinting_congr hquiet.1 (by simp) (by simp))

theorem Store.takes_exists (st : Store) (p : Fin 256) (n reserve : Nat)
    (h : (fetch st.pages p).length + n ≤ (fetch st.pages p).chain.length * 2048 ∨ reserve < st.freeList.length) :
    ∃ more free, st.takes p n more free ∧ (more ≠ [] → reserve < st.freeList.length) := by
  by_cases hfits : (fetch st.pages p).length + n ≤ (fetch st.pages p).chain.length * 2048
  · exact ⟨[], st.freeList, .inl ⟨hfits, rfl, rfl⟩, fun h => absurd rfl h⟩
  · have hlow := h.resolve_left hfits
    cases hl : st.freeList with
    | nil =>
      rw [hl] at hlow
      cases hlow
    | cons b free => exact ⟨[b], free, .inr ⟨hfits, b, rfl, hl⟩, fun _ => hl ▸ hlow⟩

/-- Settles O43. -/
theorem coderTurnServesChannel : Obligations.CoderTurnServesChannel := by
  intro s
  refine ⟨fun hw => ?_, ?_⟩
  · have hnone : nextChannel s = none := by
      refine List.find?_eq_none.mpr fun c _ => ?_
      rw [hw c]
      exact Bool.false_ne_true
    refine congrArg Host.Outcome.next ?_
    rw [coderTurn, hnone]
  · intro c e rest hq x g hc hstaging hfill raster bytes fits
    have hpiece : x.piece ≠ .mark := by
      unfold Channel.piece
      rw [hstaging]
      dsimp only
      split <;> simp
    have hraster : x.pieceRaster = raster := by
      unfold Channel.pieceRaster Channel.piece
      rw [hstaging]
      dsimp only
      by_cases hm : 0 < e.missing
      · simp only [if_pos hm, raster]
      · simp only [if_neg hm, raster]
    have hbytes : x.pieceBytes = bytes := by
      unfold Channel.pieceBytes
      rw [hraster]
      split
      · contradiction
      · rfl
    refine ⟨fun hroom hlen hwf hk hpages => ?_, fun hfits hlow => ?_⟩
    · obtain ⟨more, free, htakes, hgrants⟩ := s.store.takes_exists x.page bytes.length s.cfg.reserve hroom
      have happend : s.store.append s.cfg.reserve .scan x.page x.pieceBytes x.pieceKind =
          some (s.store.extended x.page more free bytes x.pieceKind) := by
        rw [hbytes]
        exact Store.append_extended hfill htakes hgrants x.pieceKind
      obtain ⟨hcoded, hother⟩ := Store.sound.extended_coded (st := s.store) ⟨hwf, hk, hpages⟩ htakes hlen x.pieceKind
      have hpage := Store.extended_page s.store x.page more free bytes x.pieceKind
      have hpageNe := fun q => Store.extended_page_ne s.store (p := x.page) (q := q) more free bytes x.pieceKind
      have hkinds := Channel.pieceKind_staged hstaging g.substituted
      have hrun := coderTurn_line hq hc hpiece happend
      have hframe : (s.store.extended x.page more free bytes x.pieceKind).claims = s.store.claims ∧
          (s.store.extended x.page more free bytes x.pieceKind).docs = s.store.docs := ⟨rfl, rfl⟩
      generalize s.store.extended x.page more free bytes x.pieceKind = st at hrun hcoded hother hpage hpageNe hframe
      obtain ⟨limit, hchannel⟩ := grant_setChannel_channel c (s.served c st) (x.coded s.cfg.anchorInterval)
      obtain ⟨scan, credits, hgrant⟩ := grant_eq c ((s.served c st).setChannel c (x.coded s.cfg.anchorInterval))
      have hcoder := Prod.mk.inj (grant_coderPart c ((s.served c st).setChannel c (x.coded s.cfg.anchorInterval)))
      rw [show (s.channel c) = x from rfl] at hrun
      generalize grant c ((s.served c st).setChannel c (x.coded s.cfg.anchorInterval)) = t at hrun hchannel hgrant hcoder
      have hstore : t.store = st := by
        rw [hgrant]
        rfl
      refine ⟨t, congrArg _ hrun, hcoder.2, hcoder.1, ?_, ?_, ?_, ?_, ?_, fun q hne => ?_, ?_, fun q hne => ?_, ?_, ?_, ?_, ?_⟩
      · rw [hchannel]
        exact (Channel.coded_staged hstaging _).1
      · rw [hchannel]
        refine (Channel.coded_staged hstaging _).2.trans ?_
        rw [CoderContext.advance, hraster]
        rfl
      · rw [State.page, hstore, hpage]
        exact if_neg hkinds.1
      · rw [State.page, hstore, hpage]
        rfl
      · rw [State.page, hstore, hpage]
        exact hkinds.2
      · rw [State.page, hstore, hpageNe q hne]
        rfl
      · rw [hstore, hcoded]
      · rw [hstore, hother q hne]
      · rw [hstore, hframe.1]
      · rw [hstore, hframe.2]
      · rw [hgrant]
        rfl
      · rw [hgrant]
        rfl
    · refine congrArg Host.Outcome.next (coderTurn_refused hq hc ?_ hlow)
      rw [show (s.channel c).pieceBytes = bytes from hbytes]
      exact hfits

/-! ### The end of a sheet (R7, R19, R60) -/

theorem withStore_unstalled {f : Store → Store} {s : State}
    (h : (f s.store).freeList = s.store.freeList ∨ ∀ e, (s.channel e).stalled = false) : withStore f s = { s with store := f s.store } := by
  rcases h with h | h
  · exact withStore_same f s h
  · have hstalls : endStalls { s with store := f s.store } = { s with store := f s.store } :=
      foldl_fixed _ _ _ fun e => endStall_idle e _ (h e)
    unfold withStore
    dsimp only
    rw [hstalls, ite_self]

/-- The store after the seal of a page, a replaced slot remapped (R7, R19). -/
def Store.sealedWith (st : Store) (p : Fin 256) (truncated replacing : Bool) (d : Fin 64) (k : Nat) : Store :=
  (if replacing then (st.sealPage p truncated false).remap p d k else st.sealPage p truncated false).settle p

/-- With no reader, no START held and no close pending, nothing follows the end of a sheet (R56, R60). -/
theorem afterSheet_quiet {s : State} (hq : s.quiet) {c : ChannelNo} (d : Fin 64) (hh : (s.channel c).heldStart = none)
    (hclose : ∀ e, (s.channel c).binding = .bound e → closeWaits e s = false) : afterSheet c (documentNews d s) = s := by
  rw [documentNews_quiet hq, afterSheet, closeIfPending_none hclose, takeHeld_none hh]

/-- The seal of a channel's page, where no reader and no START waits for it. -/
theorem sealSheet_quiet {s : State} (hq : s.quiet) {c : ChannelNo} {d : Fin 64} {k : Nat}
    (hp : (s.page (s.channel c).page).place = some (d, k)) (hh : (s.channel c).heldStart = none) {v : Store}
    (hv : s.store.sealedWith (s.channel c).page (s.channel c).truncate (s.channel c).replacing d k = v)
    (hfree : v.freeList = s.store.freeList ∨ ∀ e, (s.channel e).stalled = false)
    (hclose : ∀ e x, (s.channel c).sealed.binding = .bound e → fetch v.docs e = some x → x.closePending = false) :
    sealSheet c s = ({ s with
      store := v
      link := s.link.offer (sealedReport c (s.channel c) d k (if (s.channel c).replacing then s.store.slotPage d k else none)
        { s with store := s.store.sealPage (s.channel c).page (s.channel c).truncate false }) } : State).setChannel c (s.channel c).sealed := by
  generalize hr : sealedReport c (s.channel c) d k (if (s.channel c).replacing then s.store.slotPage d k else none)
        { s with store := s.store.sealPage (s.channel c).page (s.channel c).truncate false } = r
  have hstore := withStore_unstalled (f := fun st => (if (s.channel c).replacing then st.remap (s.channel c).page d k else st).settle (s.channel c).page)
    (s := report r { s with store := s.store.sealPage (s.channel c).page (s.channel c).truncate false })
  subst hv
  unfold sealSheet
  dsimp only
  rw [hp]
  dsimp only
  rw [hr, hstore hfree]
  refine (afterSheet_quiet (State.quiet_congr hq ?_ ?_ ?_ ?_) d ?_ ?_).trans rfl
  · rfl
  · rfl
  · rfl
  · rfl
  · rw [State.setChannel_channel_same]
    exact hh
  · intro e he
    rw [State.setChannel_channel_same] at he
    unfold closeWaits
    split
    next x hx => exact hclose e x he hx
    next => rfl

/-- A page sealed at its slot (R7). -/
def Page.sealedAs (g : Page) (truncate : Bool) : Page :=
  { g with state := .sealed, mapped := true, truncated := g.truncated || truncate }

theorem Store.sealPage_page (st : Store) (p : Fin 256) (truncate : Bool) (hm : (fetch st.pages p).mapped = true) :
    st.sealPage p truncate false = { st with pages := store st.pages p ((fetch st.pages p).sealedAs truncate) } := by
  unfold Store.sealPage change Page.sealedAs
  simp only [Bool.or_false, hm]

/-- A mapped page is sealed and stays. -/
theorem Store.sealedWith_mapped {st : Store} {p : Fin 256} (hm : (fetch st.pages p).mapped = true) (truncate : Bool) (d : Fin 64) (k : Nat) :
    st.sealedWith p truncate false d k = { st with pages := store st.pages p ((fetch st.pages p).sealedAs truncate) } := by
  unfold Store.sealedWith
  rw [if_neg Bool.false_ne_true, Store.sealPage_page st p truncate hm]
  exact Store.settle_stays (by simp [Store.leaves, Page.sealedAs])

/-- An old page that lost its slot to a replacement (R19). -/
def Page.replaced (g : Page) : Page := { g with state := .void, mapped := false, place := none }

/-- The store with a replacement sealed in its slot, before the old page is looked at (R19). -/
def Store.withReplacement (st : Store) (p old : Fin 256) (truncate : Bool) (d : Fin 64) (x : Document) (k : Nat) : Store :=
  { st with
    pages := store (store st.pages old (fetch st.pages old).replaced) p ((fetch st.pages p).sealedAs truncate),
    docs := store st.docs d (some { x with slots := x.slots.set k p }),
    claims := st.claims.map (fun e => if e.page = old ∧ e.inUse = false then { e with page := p } else e) }

theorem Store.sealedWith_replacing {st : Store} {p old : Fin 256} {d : Fin 64} {x : Document} {k : Nat} (hd : fetch st.docs d = some x)
    (hk : x.slots[k]? = some old) (hne : old ≠ p) (hm : (fetch st.pages p).mapped = false) (truncate : Bool) :
    st.sealedWith p truncate true d k = (st.withReplacement p old truncate d x k).settle old := by
  have hslot : (st.sealPage p truncate false).slotPage d k = some old := by
    unfold Store.slotPage
    rw [show fetch (st.sealPage p truncate false).docs d = some x from hd]
    exact hk
  have hmapped : (fetch (st.sealPage p truncate false).pages p).mapped = false := by
    unfold Store.sealPage
    rw [fetch_change_same]
    exact hm
  have hpages : change (change (st.sealPage p truncate false).pages old (fun g => { g with state := .void, mapped := false, place := none }))
      p (fun g => { g with mapped := true }) = (st.withReplacement p old truncate d x k).pages := by
    refine table_ext fun q => ?_
    unfold Store.sealPage Store.withReplacement
    by_cases hq : q = p
    · subst hq
      simp [Page.sealedAs, Ne.symm hne]
    · by_cases ho : q = old
      · subst ho
        simp [Page.replaced, hq]
      · simp [hq, ho]
  have hremap : (st.sealPage p truncate false).remap p d k = (st.withReplacement p old truncate d x k).settle old := by
    unfold Store.remap
    rw [show fetch (st.sealPage p truncate false).docs d = some x from hd, hslot, hmapped]
    dsimp only
    rw [hpages]
    rfl
  unfold Store.sealedWith
  rw [if_pos rfl, hremap]
  refine Store.settle_stays ?_
  rw [Store.settle_leaves_ne _ hne.symm]
  simp [Store.leaves, Store.withReplacement, Page.sealedAs]

theorem Store.withReplacement_leaves {st : Store} {p old : Fin 256} (hne : old ≠ p) (truncate : Bool) (d : Fin 64) (x : Document) (k : Nat) :
    (st.withReplacement p old truncate d x k).leaves old = !st.claims.any (fun e => decide (e.page = old ∧ e.inUse = true)) := by
  have hcount : (st.withReplacement p old truncate d x k).claimCount old = 0 ↔ ∀ e ∈ st.claims, ¬(e.page = old ∧ e.inUse = true) := by
    unfold Store.claimCount Store.withReplacement
    dsimp only
    rw [List.countP_map, List.countP_eq_zero]
    refine forall₂_congr fun e _ => ?_
    by_cases he : e.page = old
    · by_cases hu : e.inUse = true
      · simp [he, hu]
      · simp [he, hu, hne.symm]
    · simp [he]
  have hpage : fetch (st.withReplacement p old truncate d x k).pages old = (fetch st.pages old).replaced := by
    unfold Store.withReplacement
    rw [fetch_store_ne _ _ hne, fetch_store_same]
  unfold Store.leaves
  rw [hpage, Bool.eq_iff_iff]
  simp [hcount, Page.replaced]

theorem coderTurn_mark {s : State} {c : ChannelNo} (hc : nextChannel s = some c) (hp : (s.channel c).piece = .mark) {st : Store}
    (h : s.store.append s.cfg.reserve .scan (s.channel c).page [0xC3] .mark = some st) :
    coderTurn s = printerLook (sealSheet c (s.served c st)) := by
  have hbytes : (s.channel c).pieceBytes = [0xC3] := by
    rw [Channel.pieceBytes, hp]
    rfl
  have hkind : (s.channel c).pieceKind = .mark := by rw [Channel.pieceKind, hp]
  rw [coderTurn_served hc, serveChannel_eq, hbytes, hkind, h]
  refine congrArg printerLook ?_
  show pieceGranted c (s.served c st) = _
  unfold pieceGranted
  rw [show (s.served c st).channel c = s.channel c from rfl]
  dsimp only
  rw [hp]

/-- The whole turn at the end of a sheet, from the store that the seal leaves. -/
theorem coderTurn_sealed {s : State} (hq : s.quiet) {c : ChannelNo} {d : Fin 64} {k : Nat} (hc : nextChannel s = some c)
    (hp : (s.channel c).piece = .mark) (hh : (s.channel c).heldStart = none)
    (hplace : (s.page (s.channel c).page).place = some (d, k)) {more free : List Nat}
    (happend : s.store.append s.cfg.reserve .scan (s.channel c).page [0xC3] .mark =
      some (s.store.extended (s.channel c).page more free [0xC3] .mark)) {v : Store}
    (hv : (s.store.extended (s.channel c).page more free [0xC3] .mark).sealedWith (s.channel c).page (s.channel c).truncate
      (s.channel c).replacing d k = v)
    (hfree : v.freeList = free ∨ ∀ e, (s.channel e).stalled = false)
    (hclose : ∀ e x, (s.channel c).sealed.binding = .bound e → fetch v.docs e = some x → x.closePending = false)
    {old : Option (Fin 256)} (hold : (if (s.channel c).replacing then s.store.slotPage d k else none) = old) :
    let y := s.channel c
    let g := s.page y.page
    coderTurn s = ({ s.served c v with
      link := s.link.offer (.pageSealed c y.number d k y.page g.version g.width g.resolution g.lines g.substituted (g.length + 1)
        (g.truncated || y.truncate) old) } : State).setChannel c y.sealed := by
  have hquiet : (s.served c (s.store.extended (s.channel c).page more free [0xC3] .mark)).quiet := State.quiet_congr hq rfl rfl rfl rfl
  have hpage := Store.extended_page s.store (s.channel c).page more free [0xC3] .mark
  have hslot : (s.store.extended (s.channel c).page more free [0xC3] .mark).slotPage d k = s.store.slotPage d k := rfl
  have hlist : (s.store.extended (s.channel c).page more free [0xC3] .mark).freeList = free := rfl
  rw [← hslot] at hold
  rw [← hlist] at hfree
  dsimp only
  rw [coderTurn_mark hc hp happend]
  generalize s.store.extended (s.channel c).page more free [0xC3] .mark = st at *
  have hseal := sealSheet_quiet (s := s.served c st) hquiet (c := c) (d := d) (k := k)
    (by rw [State.page]; exact (congrArg Page.place hpage).trans hplace) hh hv hfree hclose
  have hreport : sealedReport c (s.channel c) d k old { s.served c st with
      store := st.sealPage (s.channel c).page (s.channel c).truncate false } =
      .pageSealed c (s.channel c).number d k (s.channel c).page (s.page (s.channel c).page).version (s.page (s.channel c).page).width
        (s.page (s.channel c).page).resolution (s.page (s.channel c).page).lines (s.page (s.channel c).page).substituted
        ((s.page (s.channel c).page).length + 1) ((s.page (s.channel c).page).truncated || (s.channel c).truncate) old := by
    unfold sealedReport Store.sealPage State.page
    simp only [fetch_change_same, hpage]
    rfl
  have hresult : sealSheet c (s.served c st) = ({ s.served c v with
      link := s.link.offer (sealedReport c (s.channel c) d k old { s.served c st with
        store := st.sealPage (s.channel c).page (s.channel c).truncate false }) } : State).setChannel c (s.channel c).sealed := by
    rw [← hold]
    exact hseal
  rw [hresult, hreport]
  exact printerLook_noPrinting (State.noPrinting_congr hq.1 rfl rfl)

theorem Channel.sealed_eq {y : Channel} (hs : y.staging = []) {new : Replacement} (hr : (if y.replacing then .none else y.replacement) = new)
    {b : Binding} (hb : (if y.replacing then y.binding.afterReplacement else y.binding) = b) :
    y.sealed = { y with
      sheet := .idle, truncate := false, endEntry := none, coder := ⟨none, 0, 0⟩, replacement := new, binding := b } := by
  unfold Channel.sealed
  rw [hr, hb, ← hs]
  rfl

/-- Settles O44. -/
theorem coderTurnSealsPage : Obligations.CoderTurnSealsPage := by
  intro s c d k x hq y g hc hstaging hend hh hd hpend hslots hfill hplace fits kept stored
  have hpiece : y.piece = .mark := by
    unfold Channel.piece
    rw [hstaging, hend]
  have hbytes : y.pieceBytes = [0xC3] := by
    rw [Channel.pieceBytes, hpiece]
    rfl
  refine ⟨fun chain free hchain => ?_, fun hfits hlow => ?_⟩
  · obtain ⟨more, hmore, htakes, hgrants⟩ : ∃ more, chain = g.chain ++ more ∧ s.store.takes y.page 1 more free ∧
        (more ≠ [] → s.cfg.reserve < s.store.freeList.length) := by
      rcases hchain with ⟨hf, hch, hfr⟩ | ⟨hf, hres, b, hfr, hch⟩
      · exact ⟨[], by rw [hch, List.append_nil], .inl ⟨hf, rfl, hfr⟩, fun h => absurd rfl h⟩
      · exact ⟨[b], hch, .inr ⟨hf, b, rfl, hfr⟩, fun _ => hres⟩
    subst hmore
    have happend := Store.append_extended (st := s.store) (reserve := s.cfg.reserve) (bytes := [0xC3]) hfill htakes hgrants .mark
    have hcoded (h : kept) := Store.sound.extended_coded (st := s.store) (bytes := [0xC3]) ⟨h.1, h.2.1, h.2.2⟩ htakes (by decide) .mark
    have hpage : fetch (s.store.extended y.page more free [0xC3] .mark).pages y.page = g.appended (g.chain ++ more) 1 .mark :=
      Store.extended_page ..
    have hpageNe (q : Fin 256) (hne : q ≠ y.page) : fetch (s.store.extended y.page more free [0xC3] .mark).pages q = s.page q :=
      Store.extended_page_ne _ _ _ _ _ hne
    have hturn := fun v => coderTurn_sealed (v := v) hq hc hpiece hh hplace happend
    have hext : (s.store.extended y.page more free [0xC3] .mark).docs = s.store.docs ∧
        (s.store.extended y.page more free [0xC3] .mark).claims = s.store.claims ∧
        (s.store.extended y.page more free [0xC3] .mark).freeList = free := ⟨rfl, rfl, rfl⟩
    generalize s.store.extended y.page more free [0xC3] .mark = st at *
    obtain ⟨hdocs, hclaims, hlist⟩ := hext
    have hstored (v : Store) (old : Option (Fin 256)) (b : Binding)
        (hv : fetch v.pages y.page = (g.appended (g.chain ++ more) 1 .mark).sealedAs y.truncate) (hmem : v.mem = st.mem)
        (hr : (if y.replacing then .none else y.replacement) = .none)
        (hb : (if y.replacing then y.binding.afterReplacement else y.binding) = b) :
        stored (({ s.served c v with
          link := s.link.offer (.pageSealed c y.number d k y.page g.version g.width g.resolution g.lines g.substituted (g.length + 1)
            (g.truncated || y.truncate) old) } : State).setChannel c y.sealed) (g.chain ++ more) old b := by
      refine ⟨hv, fun hk => ?_, rfl, ?_, rfl, rfl, rfl, rfl, rfl, rfl⟩
      · rw [← (hcoded hk).1]
        exact Store.coded_congr hmem (by rw [hpage]; exact (congrArg Page.length hv :)) (by rw [hpage]; exact (congrArg Page.chain hv :))
      · rw [State.setChannel_channel_same]
        exact Channel.sealed_eq hstaging hr hb
    refine ⟨fun hrep hbind hm => ?_, fun old hrep hbind hm hk hne hsealed hstalled => ?_⟩
    · have hreplacing : y.replacing = false := by rw [Channel.replacing, hrep]
      have hstmapped : (fetch st.pages y.page).mapped = true := by
        rw [hpage]
        exact hm
      have hv := Store.sealedWith_mapped hstmapped y.truncate d k
      rw [← hreplacing] at hv
      have hbinding : y.sealed.binding = .bound d := by
        unfold Channel.sealed
        rw [hreplacing, hbind]
        rfl
      have hrun := hturn _ hv (.inl hlist) (fun e z he hz => by
        obtain rfl : d = e := Binding.bound.inj (hbinding.symm.trans he)
        obtain rfl : x = z := Option.some.inj (hd.symm.trans ((congrArg (fetch · d) hdocs).symm.trans hz))
        exact hpend) (old := none) (if_neg (by rw [show (s.channel c).replacing = false from hreplacing]; exact Bool.false_ne_true))
      refine ⟨_, congrArg Host.Outcome.next hrun, hstored _ none (.bound d) ?_ rfl ?_ ?_, fun q hq => ?_, fun hk q hq => ?_, hdocs, hclaims, hlist⟩
      · dsimp only
        rw [fetch_store_same, hpage]
      · rw [hreplacing]
        exact hrep
      · rw [hreplacing]
        exact hbind
      · exact (fetch_store_ne _ _ hq).trans (hpageNe q hq)
      · rw [← (hcoded hk).2 q hq]
        exact Store.coded_congr rfl (congrArg Page.length (fetch_store_ne _ _ hq)) (congrArg Page.chain (fetch_store_ne _ _ hq))
    · have hreplacing : y.replacing = true := by rw [Channel.replacing, hrep]
      have hstmapped : (fetch st.pages y.page).mapped = false := by
        rw [hpage]
        exact hm
      have hdst : fetch st.docs d = some x := by
        rw [hdocs]
        exact hd
      have hv := Store.sealedWith_replacing hdst hk hne hstmapped y.truncate
      rw [← hreplacing] at hv
      have hleaves := Store.withReplacement_leaves (st := st) hne y.truncate d x k
      rw [hclaims] at hleaves
      have hslot : s.store.slotPage d k = some old := by
        unfold Store.slotPage
        rw [show fetch s.store.docs d = some x from hd]
        exact hk
      have hnew : fetch (st.withReplacement y.page old y.truncate d x k).pages y.page =
          (g.appended (g.chain ++ more) 1 .mark).sealedAs y.truncate := by
        rw [← hpage]
        exact fetch_store_same ..
      have hold : fetch (st.withReplacement y.page old y.truncate d x k).pages old = (s.page old).replaced := by
        rw [← hpageNe old hne]
        exact (fetch_store_ne _ _ hne).trans (fetch_store_same ..)
      have hrest (q : Fin 256) (hq : q ≠ y.page) (hqo : q ≠ old) :
          fetch (st.withReplacement y.page old y.truncate d x k).pages q = s.page q := by
        rw [← hpageNe q hq]
        exact (fetch_store_ne _ _ hq).trans (fetch_store_ne _ _ hqo)
      have hlists : (st.withReplacement y.page old y.truncate d x k).docs = store st.docs d (some { x with slots := x.slots.set k y.page }) ∧
          (st.withReplacement y.page old y.truncate d x k).claims =
            st.claims.map (fun e => if e.page = old ∧ e.inUse = false then { e with page := y.page } else e) ∧
          (st.withReplacement y.page old y.truncate d x k).freeList = free ∧
          (st.withReplacement y.page old y.truncate d x k).mem = st.mem := ⟨rfl, rfl, hlist, rfl⟩
      generalize st.withReplacement y.page old y.truncate d x k = w at *
      obtain ⟨hwdocs, hwclaims, hwfree, hwmem⟩ := hlists
      have hframe := w.settle_frame old
      have hbound (e : Fin 64) (he : y.sealed.binding = .bound e) : y.binding = .bound e := by
        unfold Channel.sealed at he
        rw [hreplacing] at he
        rcases hbind with hb | hb
        · rw [hb] at he ⊢
          exact he
        · rw [hb] at he
          cases he
      have hrun := hturn (w.settle old) hv (.inr hstalled) (fun e z he hz => by
        obtain rfl : d = e := by
          rcases hbind with hb | hb
          · exact Binding.bound.inj (hb.symm.trans (hbound e he))
          · exact Binding.noConfusion (hb.symm.trans (hbound e he))
        rw [hframe.2.1, hwdocs, fetch_store_same] at hz
        cases hz
        exact hpend) (old := some old) (by rw [show (s.channel c).replacing = true from hreplacing, if_pos rfl]; exact hslot)
      have hoff := fun q (h : q ≠ old) => w.settle_page_ne (p := old) (q := q) h
      refine ⟨_, congrArg Host.Outcome.next hrun, hstored _ (some old) _ ((hoff _ hne.symm).trans hnew) (w.settle_mem old |>.trans hwmem) ?_ ?_, ?_,
        fun q hq hqo => (hoff q hqo).trans (hrest q hq hqo), fun hkept q hq hused => ?_, ?_, fun e he => ?_, ?_, ?_⟩
      · rw [hreplacing]
        rfl
      · rw [hreplacing]
        rcases hbind with hb | hb
        · simp [hb, Binding.afterReplacement]
        · simp [hb, Binding.afterReplacement]
      · refine (w.settle_page_same old).trans ?_
        rw [hleaves, hold]
        cases s.store.claims.any (fun e => decide (e.page = old ∧ e.inUse = true)) with
        | false => rfl
        | true => rfl
      · rw [← (hcoded hkept).2 q hq]
        have hkeeps : (fetch (w.settle old).pages q).length = (fetch st.pages q).length ∧
            (fetch (w.settle old).pages q).chain = (fetch st.pages q).chain := by
          rw [hpageNe q hq]
          by_cases hqo : q = old
          · have hany : s.store.claims.any (fun e => decide (e.page = old ∧ e.inUse = true)) = true := hused.resolve_left (absurd hqo)
            rw [Store.settle_stays (by rw [hleaves, hany]; rfl), hqo, hold]
            exact ⟨rfl, rfl⟩
          · rw [hoff q hqo, hrest q hq hqo]
            exact ⟨rfl, rfl⟩
        exact Store.coded_congr ((w.settle_mem old).trans hwmem) hkeeps.1 hkeeps.2
      · refine (congrArg (fetch · d) hframe.2.1).trans ?_
        rw [hwdocs]
        exact fetch_store_same ..
      · refine (congrArg (fetch · e) hframe.2.1).trans ?_
        rw [hwdocs, hdocs]
        exact fetch_store_ne _ _ he
      · refine hframe.2.2.trans ?_
        rw [hwclaims, hclaims]
      · show (w.settle old).freeList = _
        cases hany : s.store.claims.any (fun e => decide (e.page = old ∧ e.inUse = true)) with
        | false =>
          rw [Store.settle_leaves (by rw [hleaves, hany]; rfl), hold]
          dsimp only
          rw [hwfree]
          rfl
        | true =>
          rw [Store.settle_stays (by rw [hleaves, hany]; rfl), hwfree]
          exact (List.append_nil _).symm
  · refine congrArg Host.Outcome.next (coderTurn_refused hq hc ?_ hlow)
    rw [show (s.channel c).pieceBytes = [0xC3] from hbytes]
    exact hfits

end Sys2Proof.Machine
end

section
/-! PROOFS. The lines (O47, O48, O49, O50): dialling, the loss of a line, rings and the answer. -/

namespace Sys2Proof.Machine

/-! ### The events of a line's end and of the loop (R113, R116, R118, R120) -/

/-- A message said joins what the module is to take and is the last message (R129). -/
theorem say_setProc (l : LineNo) (m : Message) (s : State) (x : Proc) (y : Slot) :
    say l m ((s.setProc l x).setSlot l y) =
      (s.setProc l { x with lastMessage := some m }).setSlot l { y with out := y.out ++ m.bytes.map .byte ++ [.endMessage] } := by
  simp [say, State.setSlot, State.setProc, State.proc, State.slot]

theorem blankingEnd_answering {s : State} {l : LineNo} (h : (s.line l).state = .answering) :
    blankingEnd l s = say l (ownAbility s) (((s.setLine l { s.line l with state := .connected, blanking := 0 }).setProc l
      { Proc.idle with phase := .waitChoice, role := .called, sup := .enter .message }).setSlot l
      { s.slot l with command := .receive, rate := 0 }) := by
  unfold blankingEnd
  dsimp only
  rw [if_pos h]
  rfl

/-- Settles O49. -/
theorem lineEventsEnd : Obligations.LineEventsEnd := by
  intro s l x ended free
  have hfree : free = .next (endUseOfLine l s) := rfl
  refine ⟨fun h => ?_, fun h => ?_, fun h => ?_, fun h => ?_, fun h => ?_, fun b => ?_⟩
  · rw [hfree]
    exact congrArg Host.Outcome.next (if_pos h)
  · exact congrArg Host.Outcome.next (if_neg h)
  · rw [hfree]
    exact congrArg Host.Outcome.next (if_pos h)
  · exact congrArg Host.Outcome.next (if_neg h)
  · refine congrArg Host.Outcome.next ((blankingEnd_answering h).trans ?_)
    rw [say_setProc]
    rfl
  · refine congrArg Host.Outcome.next ?_
    exact if_congr (and_congr Iff.rfl decide_eq_true_iff) rfl rfl

/-! ### Dialling (R108, R111, R112) -/

/-- A phase with a duration, begun on a line (R111). -/
theorem dialOn_phase {l : LineNo} {a : Admission} {s : State} {ph : DialPhase} (y : Line)
    (h : (s.profile a.profile).duration ph ≠ 0) : dialOn l a (.phase y ph) s = s.setLine l (y.enterPhase (s.profile a.profile) ph) := by
  have hfuel : dialFuel a = 2 * (a.access.length + a.number.length) + 3 + 1 := rfl
  unfold dialOn
  rw [hfuel, runDial_phase a _ _ y ph (.inl h)]

/-- A phase but MAKE-ON leaves the blanking window as it is. -/
theorem Line.enterPhase_eq {ph : DialPhase} (y : Line) (p : Profile) (h : ph ≠ .makeOn) :
    y.enterPhase p ph = { y with cadence := ⟨ph, p.duration ph % 256, p.duration ph / 256, 0, p.unit * 8⟩ } := by
  unfold Line.enterPhase
  rw [if_neg h]
  rfl

/-- The page index at which a call begins (R130). -/
def State.firstPage (s : State) (a : Admission) : Nat :=
  match s.dest a.job a.dest with
  | some d => d.next
  | none => 0

theorem dialOn_complete (l : LineNo) (a : Admission) (s : State) :
    dialOn l a .complete s = beginCaller l (s.firstPage a) (s.setLine l (s.line l).dialled) := by
  unfold dialOn
  rw [runDial_complete]
  rfl

theorem phaseEnd_dialling {s : State} {l : LineNo} {a : Admission} (ha : (s.line l).admission = some a)
    (hs : (s.line l).state = .seized ∨ (s.line l).state = .dialing) (hp : (s.line l).cadence.phase ≠ .none) :
    phaseEnd l s = dialOn l a (afterPhase a (s.profile a.profile) (s.line l)) s := by
  unfold phaseEnd
  dsimp only
  rw [ha]
  exact if_pos ⟨hs, hp⟩

theorem cursorStep_access {a : Admission} {p : Profile} {x : Line} {z : Symbol} (hx : x.part = .access)
    (hz : a.access[x.position]? = some z) : cursorStep a p x = symbolStep x p z := by
  unfold cursorStep
  rw [hx]
  dsimp only
  rw [hz]

theorem cursorStep_accessEnd {a : Admission} {p : Profile} {x : Line} (hx : x.part = .access)
    (hz : a.access[x.position]? = none) (hne : a.access ≠ []) : cursorStep a p x = .phase x .accessPause := by
  unfold cursorStep
  rw [hx]
  dsimp only
  rw [hz]
  exact if_neg hne

theorem numberStep_symbol {a : Admission} {p : Profile} {x : Line} {z : Symbol} (hz : a.number[x.position]? = some z) :
    numberStep a p x = symbolStep x p z := by
  rw [numberStep, hz]

theorem numberStep_end {a : Admission} {p : Profile} {x : Line} (hz : a.number[x.position]? = none) : numberStep a p x = .complete := by
  rw [numberStep, hz]

theorem cursorStep_number {a : Admission} {p : Profile} {x : Line} (hx : x.part = .number) : cursorStep a p x = numberStep a p x := by
  rw [cursorStep, hx]

theorem cursorStep_noAccess {a : Admission} {p : Profile} {x : Line} (hx : x.part = .access) (h : a.access = []) :
    cursorStep a p x = numberStep a p { x with part := .number, position := 0 } := by
  unfold cursorStep
  rw [hx]
  dsimp only
  rw [h]
  rfl

/-- The engine begins as caller when the last symbol has gone (R130). -/
theorem beginCaller_eq (l : LineNo) (n : Nat) (s : State) :
    beginCaller l n s = (s.setProc l { Proc.idle with phase := .waitAbility, slot := n, sup := .enter .answer }).setSlot l
      { s.slot l with command := .receive, rate := 0 } := rfl

/-- Settles O47. -/
theorem dialPhasesFollow : Obligations.DialPhasesFollow := by
  intro s l a ha x p start run begins
  have hphase (y : Line) {ph : DialPhase} (hm : ph ≠ .makeOn) (hd : p.duration ph ≠ 0)
      (hrun : run = .next (dialOn l a (.phase y ph) s)) : run = .next (s.setLine l (start y ph (p.duration ph))) := by
    rw [hrun, dialOn_phase y hd, Line.enterPhase_eq y _ hm]
  have hbegins (y : Line) (z : Symbol) (hrun : run = .next (dialOn l a (symbolStep y p z) s)) : begins y z := by
    cases z with
    | digit d =>
      refine ⟨fun hm ht => hphase y (ph := .toneOn) (by decide) ht ?_, fun hm ht => ?_⟩
      · rw [hrun, symbolStep, if_neg (by rw [hm]; decide)]
      · refine hphase { y with breaks := if d = 0 then 10 else d.val } (ph := .breakOn) (by decide) ht ?_
        rw [hrun, symbolStep, if_pos hm]
        rfl
    | star => exact fun ht => hphase y (ph := .toneOn) (by decide) ht hrun
    | hash => exact fun ht => hphase y (ph := .toneOn) (by decide) ht hrun
    | pause => exact fun ht => hphase y (ph := .comma) (by decide) ht hrun
  have hend {ph : DialPhase} (hs : x.state = .seized ∨ x.state = .dialing) (hp : x.cadence.phase = ph) (hne : ph ≠ .none) :
      run = .next (dialOn l a (afterPhase a p x) s) :=
    congrArg Host.Outcome.next (phaseEnd_dialling ha hs (by rw [show (s.line l).cadence.phase = ph from hp]; exact hne))
  have hcursor (hs : x.state = .dialing) (hp : x.cadence.phase = .toneOff ∨ x.cadence.phase = .interdigit ∨ x.cadence.phase = .comma) :
      run = .next (dialOn l a (cursorStep a p { x with position := x.position + 1 }) s) := by
    rcases hp with hp | hp | hp <;>
      rw [hend (.inr hs) hp (by decide), afterPhase, hp]
  refine ⟨fun z rest hs hp => ⟨fun hz => hbegins _ z ?_, fun hz hn => hbegins _ z ?_⟩, fun hs hp ht => ?_, fun hs hp hb ht => ?_,
    fun hs hp hb ht => ?_, fun hs hp ht => ?_, fun z rest hs hp hz => hbegins _ z ?_, fun hs hp => ⟨fun z hx hz => hbegins _ z ?_,
    fun hx hz ht => ?_, fun z hx hz => hbegins _ z ?_, fun hx hz => ?_⟩⟩
  · rw [hend (.inl hs) hp (by decide), afterPhase, hp]
    dsimp only
    rw [cursorStep_access rfl (by rw [hz]; rfl)]
  · rw [hend (.inl hs) hp (by decide), afterPhase, hp]
    dsimp only
    rw [cursorStep_noAccess rfl hz, numberStep_symbol (by rw [hn]; rfl)]
  · rw [hend (.inr hs) hp (by decide), afterPhase, hp]
    dsimp only
    rw [dialOn_phase (s := s) (a := a) (ph := .makeOn) x ht]
    rfl
  · refine hphase _ (by decide) ht ?_
    rw [hend (.inr hs) hp (by decide), afterPhase, hp]
    dsimp only
    rw [if_neg (by omega)]
  · refine hphase _ (by decide) ht ?_
    rw [hend (.inr hs) hp (by decide), afterPhase, hp]
    dsimp only
    rw [if_pos (by omega)]
  · refine hphase _ (by decide) ht ?_
    rw [hend (.inr hs) hp (by decide), afterPhase, hp]
  · rw [hend (.inr hs) hp (by decide), afterPhase, hp]
    dsimp only
    rw [cursorStep_number rfl, numberStep_symbol (by rw [hz]; rfl)]
  · rw [hcursor hs hp, cursorStep_access (x := { x with position := x.position + 1 }) hx hz]
  · refine hphase _ (by decide) ht ?_
    rw [hcursor hs hp, cursorStep_accessEnd (x := { x with position := x.position + 1 }) hx (List.getElem?_eq_none (by rw [← hz])) (by intro h; rw [h] at hz; cases hz)]
  · rw [hcursor hs hp, cursorStep_number (x := { x with position := x.position + 1 }) hx, numberStep_symbol hz]
  · rw [hcursor hs hp, cursorStep_number (x := { x with position := x.position + 1 }) hx, numberStep_end (List.getElem?_eq_none (by rw [← hz])), dialOn_complete]
    rfl

/-! ### A line lost or busy before the answer (R74, R114, R115, R119) -/

/-- The Print Channel still has nothing to do where no print job was added. -/
theorem State.noPrinting_of {s t : State} (h : s.noPrinting) (hp : t.printer = s.printer)
    (hj : ∀ i, t.printJob i = s.printJob i ∨ t.printJob i = none) : t.noPrinting := by
  obtain ⟨h1, h2, h3⟩ := h
  exact ⟨hp ▸ h1, hp ▸ h2, fun i => (hj i).elim (fun e => e.trans (h3 i)) id⟩

theorem State.printJob_congr {s t : State} {i : Fin 32} (h : t.job i = s.job i) : t.printJob i = s.printJob i := by
  unfold State.printJob
  rw [h]

theorem changeDest_printJob (j : Fin 32) (d : Nat) (f : Dest → Dest) (s : State) (i : Fin 32) :
    (changeDest j d f s).printJob i = s.printJob i := by
  by_cases hi : i = j
  · subst hi
    unfold changeDest changeSend
    split
    next doc b w h =>
      have hnew : (s.setJob i (some ⟨doc, .send { b with dests := b.dests.modify d f }, w⟩)).job i =
          some ⟨doc, .send { b with dests := b.dests.modify d f }, w⟩ := fetch_store_same ..
      unfold State.printJob
      rw [hnew, h]
    next => rfl
  · exact State.printJob_congr (changeDest_job_ne hi d f)

/-- A destination that waits for its next attempt (R74). -/
def Dest.requeued (x : Dest) (b : SendJob) (why : Reason) (now : BitVec 32) : Dest :=
  { x with
    state := .queued, line := none, reason := some why, eligible := some (now + BitVec.ofNat 32 b.delay),
    next := if b.policy = .whole then 0 else x.next }

/-- The end of an attempt for a retry: the destination is QUEUED and reported (R74, R78). -/
theorem attemptEnd_requeues {s : State} {j : Fin 32} {d : Nat} {l : LineNo} {doc : Fin 64} {b : SendJob} {x : Dest}
    (hj : s.job j = some ⟨doc, .send b, none⟩) (hx : b.dests[d]? = some x) (hs : x.state = .onLine) (hl : x.line = some l) {why : Reason}
    (hw : why.retryable = true) (ha : x.attempts < b.attempts) (n : Nat) :
    let y := x.requeued b why s.clock.elapsed
    attemptEnd j d l why n s = report
      (.destResult j d x.number .queued why x.attempts b.attempts y.next x.oldVersion (some (l, n)) y.eligible)
      (changeDest j d (fun x => x.requeued b why s.clock.elapsed) s) := by
  have hdest := State.dest_some hj d
  rw [hx] at hdest
  have hchanged := changeDest_some hj d (fun x => x.requeued b why s.clock.elapsed)
  have hget : (b.dests.modify d (fun x => x.requeued b why s.clock.elapsed))[d]? = some (x.requeued b why s.clock.elapsed) := by
    simp [hx]
  refine (attemptEnd_retry (State.sendJob_some hj) hdest hs hl hw ha n).trans ?_
  show reportDest j d (some (l, n)) (changeDest j d (fun x => x.requeued b why s.clock.elapsed) s) = _
  rw [hchanged]
  refine (reportDest_some (doc := doc) (w := none) (b := { b with dests := b.dests.modify d (fun x => x.requeued b why s.clock.elapsed) })
    ?_ hget _).trans rfl
  exact fetch_store_same ..

/-- The state behind the release of an unanswered call, before the Job Table is handed the attempt's end (R119). -/
def State.unanswered (s : State) (l : LineNo) (a : Admission) (why : Reason) : State :=
  lowerCounts a (chargeUnanswered l ((s.setLine l ((s.line l).released why s.cfg.guardTime)).setSlot l (s.slot l).resting))

/-- The release of an unanswered call whose destination goes back to the queue. -/
theorem releaseLine_requeues {s : State} {l : LineNo} {a : Admission} {doc : Fin 64} {b : SendJob} {x : Dest}
    (hr : (s.line l).releasable = true) (ha : (s.line l).admission = some a) (hans : (s.line l).answered = false)
    (hj : s.job a.job = some ⟨doc, .send b, none⟩) (hx : b.dests[a.dest]? = some x) (hs : x.state = .onLine) (hl : x.line = some l)
    {why : Reason} (hw : why.retryable = true) (hatt : x.attempts < b.attempts) (n : Nat) (name : Name) :
    let y := x.requeued b why s.clock.elapsed
    releaseLine l why n name s = trigger (report
      (.destResult a.job a.dest x.number .queued why x.attempts b.attempts y.next x.oldVersion (some (l, n)) y.eligible)
      (changeDest a.job a.dest (fun x => x.requeued b why s.clock.elapsed) (s.unanswered l a why))) := by
  dsimp only
  rw [releaseLine_outgoing hr ha, hans]
  refine congrArg trigger ?_
  exact attemptEnd_requeues (s := s.unanswered l a why) hj hx hs hl hw hatt n

theorem trigger_passing (s : State) : (trigger s).routes.passing = true ∧ (trigger s).routes.active = s.routes.active := by
  unfold trigger
  split
  next h => exact ⟨h, rfl⟩
  next => exact ⟨rfl, rfl⟩

/-- Settles O48. -/
theorem lineLostOrBusyEndsAttempt : Obligations.LineLostOrBusyEndsAttempt := by
  intro s l a doc b x hp hstate ha hans hj hx hs hl hatt ended
  have hreleasable : (s.line l).releasable = true := by
    rcases hstate with h | h <;> simp [Line.releasable, h]
  have key (i : Instr) (why : Reason) (hw : why.retryable = true) (hrun : exec i s = .next (releaseUnasked l why s)) : ended i why := by
    have hconn : ¬(s.line l).state = .connected := by
      rcases hstate with h | h <;> rw [h] <;> decide
    have hrelease := releaseLine_requeues hreleasable ha hans hj hx hs hl hw hatt 0 []
    have hdest : (changeDest a.job a.dest (fun x => x.requeued b why s.clock.elapsed) (s.unanswered l a why)).dest a.job a.dest =
        some (x.requeued b why s.clock.elapsed) := by
      rw [changeDest_dest, if_pos ⟨rfl, rfl⟩, State.dest_some (s := s.unanswered l a why) hj, hx]
      rfl
    have hprint := changeDest_printJob a.job a.dest (fun x => x.requeued b why s.clock.elapsed) (s.unanswered l a why)
    have hframe := changeDest_frame a.job a.dest (fun x => x.requeued b why s.clock.elapsed) (s.unanswered l a why)
    generalize changeDest a.job a.dest (fun x => x.requeued b why s.clock.elapsed) (s.unanswered l a why) = u at hrelease hdest hprint hframe
    obtain ⟨-, -, hstore, -, hroutes, hlines, -, hprocs, hslots, -, hprinter, -, hmeters, haccounts, hcharges, hlink, -⟩ := hframe
    have hnp : u.noPrinting := State.noPrinting_of hp hprinter fun i => .inl (hprint i)
    have hunasked : releaseUnasked l why s = trigger (report
        (.destResult a.job a.dest x.number .queued why x.attempts b.attempts (x.requeued b why s.clock.elapsed).next x.oldVersion
          (some (l, 0)) (x.requeued b why s.clock.elapsed).eligible) u) := by
      unfold releaseUnasked release
      dsimp only
      rw [if_neg hconn, hrelease]
      exact printerLook_noPrinting (State.noPrinting_congr hnp (by simp [report]) (by simp [report]))
    obtain ⟨hpassing, hactive⟩ := trigger_passing (report
        (.destResult a.job a.dest x.number .queued why x.attempts b.attempts (x.requeued b why s.clock.elapsed).next x.oldVersion
          (some (l, 0)) (x.requeued b why s.clock.elapsed).eligible) u)
    refine ⟨_, hrun.trans (congrArg _ hunasked), ?_, fun m hm => ?_, ?_, ?_, ?_, hpassing, ⟨?_, ?_⟩, ?_, ?_, ?_, ?_, ?_⟩
    · rw [trigger_line, report_line, State.line, hlines]
      exact fetch_store_same ..
    · rw [trigger_line, report_line, State.line, hlines]
      exact fetch_store_ne _ _ hm
    · rw [trigger_charges, report_charges, hcharges]
      rfl
    · rw [State.account, trigger_accounts, report_accounts, haccounts]
      exact fetch_store_same ..
    · rw [hactive, report_routes, hroutes]
      exact fetch_store_same ..
    · refine Eq.trans ?_ hdest
      exact State.dest_congr (by rw [trigger_jobs, report_jobs]) _ _
    · rw [trigger_link, report_link, hlink]
      rfl
    · rw [State.slot, trigger_slots, report_slots, hslots]
      exact congrArg Slot.out (fetch_store_same ..)
    · rw [State.slot, trigger_slots, report_slots, hslots]
      exact congrArg Slot.command (fetch_store_same ..)
    · rw [trigger_store, report_store, hstore]
      rfl
    · rw [trigger_meters, report_meters, hmeters]
      rfl
    · rw [trigger_procs, report_procs, hprocs]
      rfl
  exact ⟨key _ .lineLost rfl (congrArg _ (if_pos (by rcases hstate with h | h <;> simp [Line.canBeLost, h]))),
    key _ .busy rfl (congrArg _ (if_pos (by rcases hstate with h | h <;> simp [Line.takesBusy, h])))⟩

/-! ### Rings and the answer (R12, R116 to R118) -/

theorem Line.ringFrame_idle {x : Line} (h : x.state = .idle) :
    x.ringFrame = { x with state := .ringing, rings := 0, refused := false, onCount := 1, gapCount := 0 } := by
  rw [Line.ringFrame, h]

theorem Line.ringFrame_ringing {x : Line} (h : x.state = .ringing) : x.ringFrame = { x with onCount := x.onCount + 1, gapCount := 0 } := by
  unfold Line.ringFrame
  split
  · simp_all
  · rfl
  · contradiction

/-- A counted ring: the interval was long enough (R116). -/
def Line.rung (x : Line) : Line := { x with onCount := 0, gapCount := 1, rings := min 255 (x.rings + 1) }

theorem ringEnd_rung {s : State} {l : LineNo} {frames : Nat} (hs : (s.line l).state = .ringing) (hon : 0 < (s.line l).onCount)
    (hlong : s.cfg.ringOnMinimum * 8 ≤ (s.line l).onCount + frames) :
    ringEnd l frames s = considerAnswer l ((s.setSlot l { s.slot l with ringPresent := false }).setLine l (s.line l).rung) := by
  unfold ringEnd
  exact (if_pos ⟨hs, hon⟩).trans (if_pos hlong)

theorem considerAnswer_early {s : State} {l : LineNo} (h : (s.line l).settings.answerAfter = 0 ∨ (s.line l).rings < (s.line l).settings.answerAfter) :
    considerAnswer l s = s := by
  unfold considerAnswer
  exact if_neg (by omega)

theorem considerAnswer_refused {s : State} {l : LineNo} (h0 : 0 < (s.line l).settings.answerAfter)
    (h1 : (s.line l).settings.answerAfter ≤ (s.line l).rings) {why : RingCause} (hc : answerCheck l s = .inl why) :
    considerAnswer l s = if (s.line l).refused = true then s
      else report (.ringRefused l (s.line l).rings why) (s.setLine l { s.line l with refused := true }) := by
  unfold considerAnswer
  dsimp only
  rw [if_pos ⟨h0, h1⟩, hc]

theorem considerAnswer_answers {s : State} {l : LineNo} (h0 : 0 < (s.line l).settings.answerAfter)
    (h1 : (s.line l).settings.answerAfter ≤ (s.line l).rings) {j : Fin 32} {d : Fin 64} {p : Fin 256}
    (hc : answerCheck l s = .inr (j, d, p)) : considerAnswer l s = answerLine l j d p s := by
  unfold considerAnswer
  dsimp only
  rw [if_pos ⟨h0, h1⟩, hc]

theorem freeJobSlot_eq_none_iff {s : State} : freeJobSlot s = none ↔ ∀ j, s.job j ≠ none := by
  simp [freeJobSlot, List.find?_eq_none]

theorem freeDoc_eq_none_iff {st : Store} : st.freeDoc = none ↔ ∀ d, fetch st.docs d ≠ none := by
  simp [Store.freeDoc, List.find?_eq_none]

theorem freePage_eq_none_iff {st : Store} : st.freePage = none ↔ ∀ p, (fetch st.pages p).state = .free → st.isHeld p = true := by
  simp [Store.freePage, List.find?_eq_none]

theorem freeDoc_eq {st : Store} {d : Fin 64} (h : fetch st.docs d = none) (hlow : ∀ e, e < d → fetch st.docs e ≠ none) : st.freeDoc = some d :=
  find?_indices (by rw [h]; rfl) fun e he => by
    obtain ⟨x, hx⟩ := Option.ne_none_iff_exists'.mp (hlow e he)
    rw [hx]
    rfl

theorem freePage_eq {st : Store} {p : Fin 256} (h : st.nextPage p) : st.freePage = some p := by
  obtain ⟨hfree, hheld, hlow⟩ := h
  refine find?_indices (by simp [hfree, hheld]) fun k hk => ?_
  rcases hlow k hk with h | h
  · simp [h]
  · simp [h]

/-- What an answer takes: a RECEIVE job and a RECEIVED document with the page record held for its first page (R12, R82). -/
def State.received (s : State) (l : LineNo) (j : Fin 32) (d : Fin 64) (p : Fin 256) : State :=
  { s with
    jobs := { s.jobs with slots := Machine.store s.jobs.slots j (some ⟨d, .receive ⟨l, false, none⟩, none⟩), order := s.jobs.order ++ [j] },
    store := { s.store with docs := Machine.store s.store.docs d (some ⟨.received l, true, false, [], [], some p, false, 1⟩) } }

theorem createReception_noCopies {s : State} {l : LineNo} (hc : (s.line l).settings.copies = 0) {j : Fin 32} (hj : j ∉ s.jobs.order)
    (d : Fin 64) (p : Fin 256) : createReception l j d p s = s.received l j d p := by
  have hdoc : (createJob j ⟨d, .receive ⟨l, false, none⟩, none⟩ (s.setDoc d (some (receivedDocument l p)))).doc d =
      some (receivedDocument l p) := fetch_store_same ..
  unfold createReception
  dsimp only
  rw [if_pos hc, addJob, changeDoc_some hdoc]
  unfold createJob State.setDoc State.received
  dsimp only
  rw [store_store, filter_ne_of_not_mem hj]
  rfl

/-- A line that answered, in its answer blanking (R118). -/
def Line.answers (x : Line) (j : Fin 32) (d : Fin 64) (blanking : Nat) : Line :=
  { x with
    state := .answering, direction := some .incoming, receive := some (j, d), answered := false, onCount := 0, gapCount := 0,
    rings := 0, refused := false, absence := 0, blanking := blanking }

theorem received_printJob {s : State} (l : LineNo) {j : Fin 32} (hj : s.job j = none) (d : Fin 64) (p : Fin 256) (i : Fin 32) :
    (s.received l j d p).printJob i = s.printJob i := by
  by_cases hi : i = j
  · subst hi
    have hnew : (s.received l i d p).job i = some ⟨d, .receive ⟨l, false, none⟩, none⟩ := fetch_store_same ..
    unfold State.printJob
    rw [hnew, hj]
  · exact State.printJob_congr (fetch_store_ne _ _ hi)

theorem answerLine_blanked {s : State} {l : LineNo} (hp : s.noPrinting) (hc : (s.line l).settings.copies = 0) {j : Fin 32}
    (hj : s.job j = none) (ho : j ∉ s.jobs.order) (d : Fin 64) (p : Fin 256) (hb : (s.profile 0).blanking ≠ 0) :
    answerLine l j d p s = report (.callIn l (s.line l).rings j d)
      ((s.received l j d p).setLine l ((s.line l).answers j d ((s.profile 0).blanking * 8))) := by
  have hblank : ¬(s.profile 0).blanking * 8 = 0 := by omega
  have hnp : (s.received l j d p).noPrinting := State.noPrinting_of hp rfl fun i => .inl (received_printJob l hj d p i)
  have hprof : (s.received l j d p).profile 0 = s.profile 0 := rfl
  unfold answerLine
  dsimp only
  rw [createReception_noCopies hc ho, hprof, if_neg hblank, if_neg hblank]
  exact printerLook_noPrinting (State.noPrinting_congr hnp rfl rfl)

/-- The first condition of R117 that fails. -/
def State.answerFails (s : State) (l : LineNo) : RingCause → Prop
  | .retiring => (s.line l).retiring = true
  | .store => (s.line l).retiring = false ∧ s.store.freeList.length ≤ s.cfg.reserve
  | .noJob => (s.line l).retiring = false ∧ s.cfg.reserve < s.store.freeList.length ∧ freeJobSlot s = none
  | .noDocument => (s.line l).retiring = false ∧ s.cfg.reserve < s.store.freeList.length ∧ freeJobSlot s ≠ none ∧ s.store.freeDoc = none
  | .noPage => (s.line l).retiring = false ∧ s.cfg.reserve < s.store.freeList.length ∧ freeJobSlot s ≠ none ∧ s.store.freeDoc ≠ none ∧
      s.store.freePage = none

theorem answerCheck_fails {s : State} {l : LineNo} {why : RingCause} (h : s.answerFails l why) : answerCheck l s = .inl why := by
  unfold answerCheck Store.freeCount
  cases why with
  | retiring => exact if_pos h
  | store =>
    obtain ⟨h1, h2⟩ := h
    rw [if_neg (by simp [h1]), if_pos h2]
  | noJob =>
    obtain ⟨h1, h2, h3⟩ := h
    rw [if_neg (by simp [h1]), if_neg (Nat.not_le.mpr h2), h3]
  | noDocument =>
    obtain ⟨h1, h2, h3, h4⟩ := h
    obtain ⟨j, hj⟩ := Option.ne_none_iff_exists'.mp h3
    rw [if_neg (by simp [h1]), if_neg (Nat.not_le.mpr h2), hj, h4]
  | noPage =>
    obtain ⟨h1, h2, h3, h4, h5⟩ := h
    obtain ⟨j, hj⟩ := Option.ne_none_iff_exists'.mp h3
    obtain ⟨d, hd⟩ := Option.ne_none_iff_exists'.mp h4
    rw [if_neg (by simp [h1]), if_neg (Nat.not_le.mpr h2), hj, hd, h5]

theorem answerCheck_passes {s : State} {l : LineNo} (h1 : (s.line l).retiring = false) (h2 : s.cfg.reserve < s.store.freeList.length)
    {j : Fin 32} {d : Fin 64} {p : Fin 256} (hj : freeJobSlot s = some j) (hd : s.store.freeDoc = some d) (hp : s.store.freePage = some p) :
    answerCheck l s = .inr (j, d, p) := by
  unfold answerCheck Store.freeCount
  rw [if_neg (by simp [h1]), if_neg (Nat.not_le.mpr h2), hj, hd, hp]

/-- Settles O50. -/
theorem ringsAndAnswer : Obligations.RingsAndAnswer := by
  intro s l frames x up down rung isRing first more fails
  have hring (y : Line) (h : x.ringFrame = y) : exec (.ringPresent l) s = .next (up.setLine l y) ∧
      exec (.ringIntervalStart l) s = .next (up.setLine l y) := by
    subst h
    exact ⟨rfl, rfl⟩
  have hrung (h : isRing) : exec (.ringEnd l frames) s = .next (considerAnswer l (down.setLine l rung)) :=
    congrArg _ (ringEnd_rung h.1 h.2.1 h.2.2)
  have hline : (down.setLine l rung).line l = rung := State.setLine_line_same ..
  refine ⟨fun h => hring first ?_, fun h => hring more ?_, fun hs hon hshort => ?_, fun h hearly => ?_, fun why h h0 h1 hf => ?_,
    fun j d p h h0 h1 hret hcopies hres hnp hj hjlow hd hdlow hp ho hb => ?_⟩
  · exact Line.ringFrame_idle h
  · exact Line.ringFrame_ringing h
  · refine congrArg Host.Outcome.next ?_
    unfold ringEnd
    exact (if_pos ⟨hs, hon⟩).trans (if_neg (Nat.not_le.mpr hshort))
  · rw [hrung h, considerAnswer_early]
    rw [hline]
    exact hearly
  · have hcheck : answerCheck l (down.setLine l rung) = .inl why := by
      refine answerCheck_fails ?_
      have hline' : ((down.setLine l rung).line l).retiring = x.retiring := by
        rw [hline]
      have hjob (h : ∃ j, s.job j = none) : freeJobSlot (down.setLine l rung) ≠ none := fun hn => by
        obtain ⟨j, hj⟩ := h
        exact freeJobSlot_eq_none_iff.mp hn j hj
      have hdoc (h : ∃ d, s.doc d = none) : (down.setLine l rung).store.freeDoc ≠ none := fun hn => by
        obtain ⟨d, hd⟩ := h
        exact freeDoc_eq_none_iff.mp hn d hd
      cases why with
      | retiring => exact hline'.trans hf
      | store => exact ⟨hline'.trans hf.1, hf.2⟩
      | noJob =>
        obtain ⟨h1, h2, h3⟩ := hf
        exact ⟨hline'.trans h1, h2, freeJobSlot_eq_none_iff.mpr h3⟩
      | noDocument =>
        obtain ⟨h1, h2, h3, h4⟩ := hf
        exact ⟨hline'.trans h1, h2, hjob h3, freeDoc_eq_none_iff.mpr h4⟩
      | noPage =>
        obtain ⟨h1, h2, h3, h4, h5⟩ := hf
        exact ⟨hline'.trans h1, h2, hjob h3, hdoc h4, freePage_eq_none_iff.mpr h5⟩
    rw [hrung h, considerAnswer_refused (by rw [hline]; exact h0) (by rw [hline]; exact h1) hcheck, hline]
    refine congrArg Host.Outcome.next (if_congr Iff.rfl rfl ?_)
    simp only [State.setLine, store_store]
  · have hcheck : answerCheck l (down.setLine l rung) = .inr (j, d, p) := by
      refine answerCheck_passes (s := down.setLine l rung) ?_ hres (freeJobSlot_eq (s := down.setLine l rung) hj hjlow)
        (freeDoc_eq hd hdlow) (freePage_eq hp)
      rw [hline]
      exact hret
    rw [hrung h, considerAnswer_answers (by rw [hline]; exact h0) (by rw [hline]; exact h1) hcheck,
      answerLine_blanked (s := down.setLine l rung) (State.noPrinting_congr hnp rfl rfl) (by rw [hline]; exact hcopies) hj ho d p hb, hline]
    refine congrArg (fun u => Host.Outcome.next (report (.callIn l rung.rings j d) u)) ?_
    unfold State.received State.setLine
    dsimp only
    rw [store_store]
    rfl

end Sys2Proof.Machine
end

section
/-! PROOFS. The admission arbiter (O46): the order of the candidates (R99), then a pass with one of them. -/

namespace Sys2Proof.Machine

/-! ### The order of the candidates (R99) -/

/-- A candidate stands earlier by job slot and index. -/
def Candidate.earlier (a b : Candidate) : Prop := a.job < b.job ∨ (a.job = b.job ∧ a.dest < b.dest)

/-- A candidate comes first in a pass (R99). -/
def Candidate.precedes (a b : Candidate) : Prop :=
  b.priority < a.priority ∨ (a.priority = b.priority ∧ (b.age < a.age ∨ (a.age = b.age ∧ a.earlier b)))

theorem Candidate.precedes_trans {a b c : Candidate} (h1 : a.precedes b) (h2 : b.precedes c) : a.precedes c := by
  unfold Candidate.precedes Candidate.earlier at *
  omega

theorem Candidate.precedes_of_before {a b : Candidate} (h : a.before b = true) (he : a.earlier b) : a.precedes b := by
  have hb := of_decide_eq_true h
  unfold Candidate.precedes
  rcases hb with hp | ⟨hp, ha⟩
  · exact .inl hp
  · exact .inr ⟨hp, (Nat.lt_or_eq_of_le ha).imp_right fun e => ⟨e.symm, he⟩⟩

theorem Candidate.precedes_of_not_before {a b : Candidate} (h : ¬a.before b = true) : b.precedes a := by
  have hb : ¬(b.priority < a.priority ∨ (a.priority = b.priority ∧ b.age ≤ a.age)) := fun hp => h (decide_eq_true hp)
  unfold Candidate.precedes
  omega

theorem insertCandidate_perm (a : Candidate) (l : List Candidate) : (insertCandidate a l).Perm (a :: l) := by
  induction l with
  | nil => exact .refl _
  | cons b l ih =>
    rw [insertCandidate]
    split
    · exact .refl _
    · exact (ih.cons b).trans (.swap a b l)

/-- A candidate put among later ones that stand in order. -/
theorem insertCandidate_sorted {a : Candidate} {l : List Candidate} (hl : l.Pairwise Candidate.precedes) (ha : ∀ b ∈ l, a.earlier b) :
    (insertCandidate a l).Pairwise Candidate.precedes := by
  induction l with
  | nil => exact List.pairwise_singleton _ _
  | cons b l ih =>
    obtain ⟨hb, hl⟩ := List.pairwise_cons.mp hl
    rw [insertCandidate]
    split
    next h =>
      have hab := Candidate.precedes_of_before h (ha b List.mem_cons_self)
      refine List.pairwise_cons.mpr ⟨fun c hc => ?_, List.pairwise_cons.mpr ⟨hb, hl⟩⟩
      rcases List.mem_cons.mp hc with rfl | hc
      · exact hab
      · exact Candidate.precedes_trans hab (hb c hc)
    next h =>
      refine List.pairwise_cons.mpr ⟨fun c hc => ?_, ih hl fun c hc => ha c (List.mem_cons_of_mem b hc)⟩
      rcases List.mem_cons.mp ((insertCandidate_perm a l).mem_iff.mp hc) with rfl | hc
      · exact Candidate.precedes_of_not_before h
      · exact hb c hc

theorem foldr_insertCandidate {l : List Candidate} (hl : l.Pairwise Candidate.earlier) :
    (l.foldr insertCandidate []).Perm l ∧ (l.foldr insertCandidate []).Pairwise Candidate.precedes := by
  induction l with
  | nil => exact ⟨.refl _, .nil⟩
  | cons a l ih =>
    obtain ⟨ha, hl⟩ := List.pairwise_cons.mp hl
    obtain ⟨hp, hs⟩ := ih hl
    exact ⟨(insertCandidate_perm a _).trans (hp.cons a), insertCandidate_sorted hs fun b hb => ha b (hp.mem_iff.mp hb)⟩

/-- What a candidate says of its destination. -/
def Candidate.of (s : State) (c : Candidate) (b : SendJob) (x : Dest) : Prop :=
  (∃ doc, s.job c.job = some ⟨doc, .send b, none⟩) ∧ b.dests[c.dest]? = some x ∧ x.state = .ready ∧ c.priority = b.priority ∧
    c.age = (s.clock.elapsed - x.ready).toNat

theorem mem_readyCandidates {s : State} {c : Candidate} : c ∈ readyCandidates s ↔ ∃ b x, c.of s b x := by
  simp only [readyCandidates, List.mem_flatMap]
  constructor
  · rintro ⟨j, -, hc⟩
    split at hc
    next doc b hj =>
      obtain ⟨⟨x, e⟩, hx, rfl⟩ := List.mem_map.mp hc
      obtain ⟨hx, hr⟩ := List.mem_filter.mp hx
      exact ⟨b, x, ⟨doc, hj⟩, List.mem_zipIdx_iff_getElem?.mp hx, of_decide_eq_true hr, rfl, rfl⟩
    next => cases hc
  · rintro ⟨b, x, ⟨doc, hj⟩, hx, hr, hp, ha⟩
    refine ⟨c.job, List.mem_finRange _, ?_⟩
    simp only [hj]
    refine List.mem_map.mpr ⟨(x, c.dest), List.mem_filter.mpr ⟨List.mem_zipIdx_iff_getElem?.mpr hx, decide_eq_true hr⟩, ?_⟩
    rw [← hp, ← ha]

theorem pairwise_zipIdx_snd {α : Type} (l : List α) : l.zipIdx.Pairwise (fun a b => a.2 < b.2) := by
  have h : (l.zipIdx.map Prod.snd).Pairwise (· < ·) := by
    rw [List.zipIdx_map_snd]
    exact List.pairwise_lt_range'
  exact List.pairwise_map.mp h

/-- The candidates of one job. -/
def jobCandidates (s : State) (j : Fin 32) : List Candidate :=
  match s.job j with
  | some ⟨_, .send b, none⟩ =>
    (b.dests.zipIdx.filter (fun e => decide (e.1.state = .ready))).map
      (fun e => ⟨j, e.2, b.priority, (s.clock.elapsed - e.1.ready).toNat⟩)
  | _ => []

theorem jobCandidates_earlier (s : State) (j : Fin 32) :
    (jobCandidates s j).Pairwise Candidate.earlier ∧ ∀ c ∈ jobCandidates s j, c.job = j := by
  unfold jobCandidates
  split
  · refine ⟨List.pairwise_map.mpr (List.Pairwise.imp (fun h => .inr ⟨rfl, h⟩) ((pairwise_zipIdx_snd _).filter _)), fun c hc => ?_⟩
    obtain ⟨e, -, rfl⟩ := List.mem_map.mp hc
    rfl
  · exact ⟨.nil, fun c hc => nomatch hc⟩

theorem readyCandidates_earlier (s : State) : (readyCandidates s).Pairwise Candidate.earlier := by
  have hflat : readyCandidates s = (indices 32).flatMap (jobCandidates s) := rfl
  rw [hflat]
  refine List.pairwise_flatMap.mpr ⟨fun j _ => (jobCandidates_earlier s j).1, ?_⟩
  refine (List.pairwise_lt_finRange 32).imp fun {i j} hij a ha b hb => .inl ?_
  rw [(jobCandidates_earlier s i).2 a ha, (jobCandidates_earlier s j).2 b hb]
  exact hij

theorem candidates_mem {s : State} {c : Fin 32 × Nat} : c ∈ candidates s ↔ ∃ e ∈ readyCandidates s, (e.job, e.dest) = c := by
  unfold candidates
  rw [List.mem_map]
  exact exists_congr fun e => and_congr_left fun _ => (foldr_insertCandidate (readyCandidates_earlier s)).1.mem_iff

/-! ### The choice of a line (R96, R97) -/

/-- The value of a digit. -/
def Symbol.value? : Symbol → Option Nat
  | .digit d => some d.val
  | _ => none

theorem lastDigit_eq (n : Number) : lastDigit n = (n.reverse.findSome? Symbol.value?).getD 0 := by
  have h (o : Option Nat) : (match o with | some d => d | none => 0) = o.getD 0 := by cases o <;> rfl
  exact h _

theorem findSome?_value?_none {n : Number} (h : ∀ z, Symbol.digit z ∉ n) : n.reverse.findSome? Symbol.value? = none := by
  rw [List.findSome?_eq_none_iff]
  intro z hz
  cases z with
  | digit d => exact absurd (List.mem_reverse.mp hz) (h d)
  | star => rfl
  | hash => rfl
  | pause => rfl

theorem lastDigit_of_digit {pre post : Number} {y : Fin 10} (h : ∀ z, Symbol.digit z ∉ post) : lastDigit (pre ++ .digit y :: post) = y.val := by
  rw [lastDigit_eq, List.reverse_append, List.reverse_cons, List.findSome?_append, List.findSome?_append, findSome?_value?_none h]
  rfl

theorem lastDigit_of_none {n : Number} (h : ∀ z, Symbol.digit z ∉ n) : lastDigit n = 0 := by
  rw [lastDigit_eq, findSome?_value?_none h]
  rfl

/-- The first IDLE line in search order is chosen. -/
theorem chosenLine_some {r : Route} {n : Number} {s : State} {before after : List LineNo} {l : LineNo}
    (h : r.searchOrder n = before ++ l :: after) (hl : (s.line l).state = .idle) (hb : ∀ m ∈ before, (s.line m).state ≠ .idle) :
    chosenLine r n s = some l := by
  have hbefore : before.find? (fun m => decide ((s.line m).state = .idle)) = none :=
    List.find?_eq_none.mpr fun m hm => by simpa using hb m hm
  rw [chosenLine, h, List.find?_append, hbefore, List.find?_cons_of_pos (by simpa using hl)]
  rfl

theorem searchOrder_mem {r : Route} {n : Number} {l : LineNo} (h : l ∈ r.searchOrder n) : l ∈ r.lines := by
  unfold Route.searchOrder at h
  split at h
  · exact h
  · exact (List.mem_append.mp h).elim List.mem_of_mem_drop List.mem_of_mem_take

theorem chosenLine_none {r : Route} {s : State} (n : Number) (h : ∀ l ∈ r.lines, (s.line l).state ≠ .idle) : chosenLine r n s = none :=
  List.find?_eq_none.mpr fun l hl => by simpa using h l (searchOrder_mem hl)

/-! ### A pass with one candidate (R98 to R102) -/

/-- The state at the end of a pass (R98). -/
def State.passEnded (t : State) (rerun : Bool) : State :=
  if rerun then trigger { t with routes := { t.routes with passing := false, rerun := false } }
  else { t with routes := { t.routes with passing := false, candidates := [] } }

theorem endPass_eq (t : State) : endPass t = t.passEnded t.routes.rerun := by
  unfold endPass State.passEnded
  split <;> rfl

theorem admissionPass_one {s t : State} {c : Fin 32 × Nat} (hp : s.routes.passing = true) (hc : s.routes.candidates = [c])
    (ht : takeCandidate s c = t) (hn : t.noPrinting) (hr : t.routes.rerun = s.routes.rerun) :
    admissionPass s = t.passEnded s.routes.rerun := by
  unfold admissionPass
  rw [if_pos hp, hc, List.foldl_cons, List.foldl_nil, ht, printerLook_noPrinting hn, endPass_eq, hr]

theorem modify_eq_set {α : Type} {l : List α} {n : Nat} {x : α} (h : l[n]? = some x) (f : α → α) : l.modify n f = l.set n (f x) := by
  rw [List.modify_eq_set_getElem?, h]
  rfl

/-- A destination of a send job changed (R69). -/
theorem changeDest_set {s : State} {j : Fin 32} {d : Nat} {doc : Fin 64} {b : SendJob} {x : Dest} (hj : s.job j = some ⟨doc, .send b, none⟩)
    (hx : b.dests[d]? = some x) (f : Dest → Dest) :
    changeDest j d f s = s.setJob j (some ⟨doc, .send { b with dests := b.dests.set d (f x) }, none⟩) := by
  rw [changeDest_some hj, modify_eq_set hx]

theorem Link.offer_reports_congr {k m : Link} (hr : m.reports = k.reports) (hg : m.gap = k.gap) (r : Report) :
    (m.offer r).reports = (k.offer r).reports := by
  unfold Link.offer
  rw [hr, hg]
  split
  · rfl
  · rfl

/-- A destination that its re-match fails (R72, R76, R78), of a job that another destination keeps unfinished. -/
theorem failDest_unfinished {s : State} {j : Fin 32} {d : Nat} {doc : Fin 64} {b : SendJob} {x : Dest}
    (hj : s.job j = some ⟨doc, .send b, none⟩) (hx : b.dests[d]? = some x) (hu : ∃ y ∈ b.dests.eraseIdx d, y.state.isFinal = false)
    (why : Reason) :
    ∃ scan credits, failDest j d why s = report
      (.destResult j d x.number .failed why x.attempts b.attempts x.next x.oldVersion none none)
      { s.setJob j (some ⟨doc, .send { b with
          dests := b.dests.set d { x with state := .failed, reason := some why, line := none, eligible := none } }, none⟩) with
        store := s.store.dropHolder (.dest j d), scan := scan, link := { s.link with credits := credits } } := by
  have hset := changeDest_set hj hx (fun x => { x with state := .failed, reason := some why, line := none, eligible := none })
  generalize hy : ({ x with state := .failed, reason := some why, line := none, eligible := none } : Dest) = y at hset ⊢
  obtain ⟨scan, credits, hstore⟩ := withStore_eq (fun t => t.dropHolder (.dest j d))
    (s.setJob j (some ⟨doc, .send { b with dests := b.dests.set d y }, none⟩))
  refine ⟨scan, credits, ?_⟩
  have hget : (b.dests.set d y)[d]? = some y := by
    obtain ⟨hd, -⟩ := List.getElem?_eq_some_iff.mp hx
    rw [List.getElem?_set_self hd]
  have hall : (b.dests.set d y).all (fun z => z.state.isFinal) = false := by
    obtain ⟨z, hz, hfin⟩ := hu
    obtain ⟨i, hi, hiz⟩ := List.mem_eraseIdx_iff_getElem?.mp hz
    refine List.all_eq_false.mpr ⟨z, List.mem_of_getElem? (i := i) ?_, by simp [hfin]⟩
    rw [List.getElem?_set_ne hi.symm]
    exact hiz
  have hfinal : finalDest j d .failed why s = _ := (congrArg (withStore (fun t => t.dropHolder (.dest j d))) (hy ▸ hset)).trans hstore
  have hreport := reportDest_some (s := finalDest j d .failed why s) (j := j) (doc := doc) (w := none)
    (b := { b with dests := b.dests.set d y }) (x := y) (by rw [hfinal]; exact fetch_store_same ..) hget none
  have hcancel : cancelDest j d .failed why s = report
      (.destResult j d x.number .failed why x.attempts b.attempts x.next x.oldVersion none none) (finalDest j d .failed why s) := by
    refine hreport.trans ?_
    rw [← hy]
    rfl
  unfold failDest
  rw [hcancel, hfinal]
  refine finishIfFinal_unfinished (b := { b with dests := b.dests.set d y }) ?_ hall
  exact State.sendJob_some (doc := doc) (w := none) (fetch_store_same ..)

theorem setJob_printJob {s : State} {j : Fin 32} {doc : Fin 64} {b c : SendJob} {w v : Option Report}
    (hj : s.job j = some ⟨doc, .send b, w⟩) (i : Fin 32) : (s.setJob j (some ⟨doc, .send c, v⟩)).printJob i = s.printJob i := by
  by_cases hi : i = j
  · subst hi
    have hnew : (s.setJob i (some ⟨doc, .send c, v⟩)).job i = some ⟨doc, .send c, v⟩ := fetch_store_same ..
    unfold State.printJob
    rw [hnew, hj]
  · exact State.printJob_congr (fetch_store_ne _ _ hi)

/-- The state after a placement (R101, R102, R108), where SEIZE-PAUSE has a duration. -/
theorem place_eq {s : State} {j : Fin 32} {d : Nat} {doc : Fin 64} {b : SendJob} {x : Dest} (hj : s.job j = some ⟨doc, .send b, none⟩)
    (hx : b.dests[d]? = some x) (i : Fin 48) (l : LineNo)
    (hp : (s.profile (fetch s.routes.entries i).profile).seizePause ≠ 0) :
    let r := fetch s.routes.entries i
    let p := s.profile r.profile
    place j d x b i l s = ({ s.setJob j (some ⟨doc, .send { b with
        dests := b.dests.set d { x with state := .onLine, attempts := x.attempts + 1, line := some l } }, none⟩) with
      accounts := store s.accounts b.account { s.account b.account with active := (s.account b.account).active + 1 },
      charges := s.charges.reserve l j d,
      routes := { s.routes with active := change s.routes.active i (fun n => n + 1) } } : State).setLine l
        (((s.line l).seized ⟨j, d, x.number, b.account, i, r.zone, r.profile, r.access⟩ p).enterPhase p .seizePause) := by
  have hset (u : State) (hu : u.jobs = s.jobs) := changeDest_set (s := u) (j := j) (doc := doc) (b := b) (by rw [State.job, hu]; exact hj) hx
    (fun x => { x with state := .onLine, attempts := x.attempts + 1, line := some l })
  unfold place
  dsimp only
  rw [hset]
  · unfold seizeLine
    dsimp only
    rw [dialOn_phase]
    · unfold State.setLine
      dsimp only
      rw [store_store]
      rfl
    · exact hp
  · rfl

/-! ### One candidate's turn (R99, R100) -/

theorem takeCandidate_ready {s : State} {j : Fin 32} {d : Nat} {doc : Fin 64} {b : SendJob} {x : Dest}
    (hj : s.job j = some ⟨doc, .send b, none⟩) (hx : b.dests[d]? = some x) (hr : x.state = .ready) :
    takeCandidate s (j, d) = admitDest j d x b s := by
  have hd : s.dest j d = some x := (State.dest_some hj d).trans hx
  unfold takeCandidate
  rw [hj, hd]
  exact if_pos hr

theorem takeCandidate_passedOver {s : State} {j : Fin 32} {d : Nat} {doc : Fin 64} {b : SendJob} {x : Dest}
    (hj : s.job j = some ⟨doc, .send b, none⟩) (hx : b.dests[d]? = some x) (hr : x.state ≠ .ready) : takeCandidate s (j, d) = s := by
  have hd : s.dest j d = some x := (State.dest_some hj d).trans hx
  unfold takeCandidate
  rw [hj, hd]
  exact if_neg hr

section
variable {s : State} {j : Fin 32} {d : Nat} {x : Dest} {b : SendJob} {i : Fin 48}

theorem admitDest_held (hm : matchNumber x.number s = .entry i) (h : (s.account b.account).isOpen = false) :
    admitDest j d x b s = changeDest j d (fun x => { x with state := .held }) s := by
  unfold admitDest
  rw [hm]
  exact if_pos h

theorem admitDest_noRoom (hm : matchNumber x.number s = .entry i) (ho : (s.account b.account).isOpen = true)
    (h : (fetch s.routes.entries i).limit ≤ fetch s.routes.active i ∨ 32 ≤ s.charges.used ∨
      chosenLine (fetch s.routes.entries i) x.number s = none) : admitDest j d x b s = s := by
  unfold admitDest
  rw [hm]
  dsimp only
  rw [if_neg (by simp [ho])]
  by_cases h1 : (fetch s.routes.entries i).limit ≤ fetch s.routes.active i
  · rw [if_pos h1]
  · rw [if_neg h1]
    by_cases h2 : 32 ≤ s.charges.used
    · rw [if_pos h2]
    · rw [if_neg h2, (h.resolve_left h1).resolve_left h2]

theorem admitDest_placed (hm : matchNumber x.number s = .entry i) (ho : (s.account b.account).isOpen = true)
    (h1 : fetch s.routes.active i < (fetch s.routes.entries i).limit) (h2 : s.charges.used < 32) {l : LineNo}
    (hl : chosenLine (fetch s.routes.entries i) x.number s = some l) : admitDest j d x b s = place j d x b i l s := by
  unfold admitDest
  rw [hm]
  dsimp only
  rw [if_neg (by simp [ho]), if_neg (Nat.not_le.mpr h1), if_neg (Nat.not_le.mpr h2), hl]

end

/-- Settles O46. -/
theorem admissionPassPlaces : Obligations.AdmissionPassPlaces := by
  refine ⟨fun s hs => ?_, fun s j d doc b x hnp hp hc hj hx => ?_⟩
  · intro t ready
    have ht : t = { s with routes := { s.routes with passing := true, candidates := candidates s } } := by
      refine if_neg ?_
      rw [hs]
      exact Bool.false_ne_true
    have hcand : t.routes.candidates = candidates s := by rw [ht]
    refine ⟨by rw [hcand]; exact ht, fun c => ?_, ?_⟩
    · rw [hcand, candidates_mem]
      constructor
      · rintro ⟨e, he, rfl⟩
        obtain ⟨b, x, hj, hx, hr, -⟩ := mem_readyCandidates.mp he
        exact ⟨b, x, hj, hx, hr⟩
      · rintro ⟨b, x, hj, hx, hr⟩
        exact ⟨⟨c.1, c.2, b.priority, (s.clock.elapsed - x.ready).toNat⟩, mem_readyCandidates.mpr ⟨b, x, hj, hx, hr, rfl, rfl⟩, rfl⟩
    · rw [hcand]
      unfold candidates
      obtain ⟨hperm, hsorted⟩ := foldr_insertCandidate (readyCandidates_earlier s)
      refine List.pairwise_map.mpr (List.Pairwise.imp_of_mem (fun {e f} he hf hef => ?_) hsorted)
      intro b x b' x' hb hb'
      obtain ⟨c, y, ⟨doc, hj⟩, hy, -, hprio, hage⟩ := mem_readyCandidates.mp (hperm.mem_iff.mp he)
      obtain ⟨c', y', ⟨doc', hj'⟩, hy', -, hprio', hage'⟩ := mem_readyCandidates.mp (hperm.mem_iff.mp hf)
      obtain ⟨⟨doc₁, hj₁⟩, hx, -⟩ := hb
      obtain ⟨⟨doc₂, hj₂⟩, hx', -⟩ := hb'
      cases hj.symm.trans hj₁
      cases hj'.symm.trans hj₂
      cases hy.symm.trans hx
      cases hy'.symm.trans hx'
      dsimp only
      rw [← hprio, ← hprio', ← hage, ← hage']
      exact hef
  · intro run ended fails
    have hended (t : State) : ended t = t.passEnded s.routes.rerun := rfl
    have hrun {t : State} (ht : takeCandidate s (j, d) = t) (hn : t.noPrinting) (hr : t.routes.rerun = s.routes.rerun) :
        run = .next (ended t) := by
      rw [hended]
      exact congrArg _ (admissionPass_one hp hc ht hn hr)
    have hfails (why : Reason) (ht : takeCandidate s (j, d) = failDest j d why s) : fails why := by
      intro hu y
      obtain ⟨scan, credits, hfail⟩ := failDest_unfinished hj hx hu why
      refine ⟨failDest j d why s, hrun ht ?_ ?_, ?_⟩
      · rw [hfail]
        exact State.noPrinting_of hnp rfl fun i => .inl (setJob_printJob hj i)
      · rw [hfail]
        rfl
      · have hdrop := s.store.dropHolder_frame (.dest j d)
        rw [hfail]
        exact ⟨rfl, Link.offer_reports_congr (k := s.link) (m := { s.link with credits := credits }) rfl rfl _, hdrop.2.2, hdrop.2.1, rfl, rfl, rfl, rfl, rfl, rfl, rfl, rfl⟩
    refine ⟨fun hr => hrun (takeCandidate_passedOver hj hx hr) hnp rfl, fun hr hm => hfails _ ?_, fun hr hm => hfails _ ?_,
      fun i hr hm => ?_⟩
    · rw [takeCandidate_ready hj hx hr, admitDest, hm]
    · rw [takeCandidate_ready hj hx hr, admitDest, hm]
    · intro r a room
      have htake := takeCandidate_ready hj hx hr
      have hopen (h1 : a.isOver = false) (h2 : a.blocked = false) : (s.account b.account).isOpen = true := by
        rw [Account.isOpen, show (s.account b.account).isOver = false from h1, show (s.account b.account).blocked = false from h2]
        rfl
      refine ⟨fun h => ?_, fun h1 h2 h => ?_, fun k l before after h1 h2 hroom hk horder hl hb hpause => ?_⟩
      · have hclosed : (s.account b.account).isOpen = false := by
          show (!a.isOver && !a.blocked) = false
          rcases h with h | h <;> simp [h]
        rw [admitDest_held hm hclosed, changeDest_set hj hx] at htake
        exact hrun htake (State.noPrinting_of hnp rfl fun i => .inl (setJob_printJob hj i)) rfl
      · refine hrun (htake.trans (admitDest_noRoom hm (hopen h1 h2) ?_)) hnp rfl
        rcases h with h | h
        · by_cases h3 : fetch s.routes.active i < r.limit
          · exact .inr (.inl (Nat.not_lt.mp fun h4 => h ⟨h3, h4⟩))
          · exact .inl (Nat.not_lt.mp h3)
        · exact .inr (.inr (chosenLine_none _ h))
      · have hdigit : lastDigit x.number = k := by
          rcases hk with ⟨pre, post, y, hn, hpost, rfl⟩ | ⟨hnone, rfl⟩
          · rw [hn, lastDigit_of_digit hpost]
          · exact lastDigit_of_none hnone
        have hsearch : r.searchOrder x.number = before ++ l :: after := by
          refine Eq.trans ?_ horder
          unfold Route.searchOrder
          subst hdigit
          rfl
        rw [admitDest_placed hm (hopen h1 h2) hroom.1 hroom.2 (chosenLine_some hsearch hl hb), place_eq hj hx i l hpause] at htake
        refine ⟨_, hrun htake ?_ rfl, ?_, fun m hm => ?_, rfl, ?_, fun e he => ?_, rfl, rfl, rfl, rfl, rfl, rfl, rfl, rfl, rfl, rfl, rfl, rfl⟩
        · exact State.noPrinting_of hnp rfl fun i => .inl (setJob_printJob hj i)
        · exact fetch_store_same ..
        · exact fetch_store_ne _ _ hm
        · exact fetch_store_same ..
        · exact fetch_store_ne _ _ he

end Sys2Proof.Machine
end

section
/-! PROOFS. The messages of a remote terminal (R215) and the call procedure's ABILITY, CHOICE and trial (O51, O52). -/

namespace Sys2Proof.Machine

/-! ### A line's procedure context and module slot -/

/-- The state with a line's procedure context and module slot replaced. -/
def State.call (s : State) (l : LineNo) (x : Proc) (y : Slot) : State := (s.setProc l x).setSlot l y

theorem State.call_self (s : State) (l : LineNo) : s.call l (s.proc l) (s.slot l) = s := by simp [State.call]

theorem State.setProc_call (s : State) (l : LineNo) (x : Proc) : s.setProc l x = s.call l x (s.slot l) := by
  show _ = (s.setProc l x).setSlot l ((s.setProc l x).slot l)
  rw [State.setSlot_self]

theorem State.setSlot_call (s : State) (l : LineNo) (y : Slot) : s.setSlot l y = s.call l (s.proc l) y := by
  simp [State.call]

theorem State.call_slot_first (s : State) (l : LineNo) (x : Proc) (y : Slot) : s.call l x y = (s.setSlot l y).setProc l x := rfl

section
variable (s : State) (l : LineNo) (x : Proc) (y : Slot)

@[simp] theorem State.call_proc : (s.call l x y).proc l = x := by simp [State.call]
@[simp] theorem State.call_slot : (s.call l x y).slot l = y := by simp [State.call]
@[simp] theorem State.call_cfg : (s.call l x y).cfg = s.cfg := rfl
@[simp] theorem State.call_store : (s.call l x y).store = s.store := rfl
@[simp] theorem State.call_jobs : (s.call l x y).jobs = s.jobs := rfl
@[simp] theorem State.call_job (j : Fin 32) : (s.call l x y).job j = s.job j := rfl
@[simp] theorem State.call_dest (j : Fin 32) (d : Nat) : (s.call l x y).dest j d = s.dest j d := rfl
@[simp] theorem State.call_doc (d : Fin 64) : (s.call l x y).doc d = s.doc d := rfl
@[simp] theorem State.call_page (p : Fin 256) : (s.call l x y).page p = s.page p := rfl
@[simp] theorem State.call_line (k : LineNo) : (s.call l x y).line k = s.line k := rfl
@[simp] theorem State.call_lines : (s.call l x y).lines = s.lines := rfl
@[simp] theorem State.call_printer : (s.call l x y).printer = s.printer := rfl
@[simp] theorem State.call_account (a : Fin 64) : (s.call l x y).account a = s.account a := rfl

theorem State.call_setProc (z : Proc) : (s.call l x y).setProc l z = s.call l z y := by
  simp [State.call, State.setProc, State.setSlot]

theorem State.call_setSlot (z : Slot) : (s.call l x y).setSlot l z = s.call l x z := by simp [State.call]

theorem State.call_setLine (k : LineNo) (z : Line) : (s.call l x y).setLine k z = (s.setLine k z).call l x y := rfl

theorem State.call_noPrinting (h : s.noPrinting) : (s.call l x y).noPrinting := State.noPrinting_congr h rfl rfl

theorem say_call (m : Message) : say l m (s.call l x y) =
    s.call l { x with lastMessage := some m } { y with out := y.out ++ m.bytes.map .byte ++ [.endMessage] } :=
  say_setProc l m s x y

theorem say_eq (m : Message) : say l m s =
    s.call l { s.proc l with lastMessage := some m }
      { s.slot l with out := (s.slot l).out ++ m.bytes.map .byte ++ [.endMessage] } := by
  have h := say_call s l (s.proc l) (s.slot l) m
  rwa [State.call_self] at h

theorem enter_call (ph : Phase) (c : TimeoutClass) :
    enter l ph c (s.call l x y) = s.call l { x with phase := ph, sup := .enter c } y := by
  unfold enter
  rw [State.call_proc, State.call_setProc]

theorem setCommand_call (c : ModuleCommand) (r : Nat) :
    setCommand l c r (s.call l x y) = s.call l x { y with command := c, rate := r } := by
  unfold setCommand
  rw [State.call_slot, State.call_setSlot]

theorem sayChoice_call : sayChoice l (s.call l x y) =
    s.call l { x with lastMessage := some (.choice x.settings s.cfg.stationName) }
      { y with out := y.out ++ (Message.choice x.settings s.cfg.stationName).bytes.map .byte ++ [.endMessage, .trial x.settings.rate] } := by
  unfold sayChoice sayTrial
  dsimp only
  rw [State.call_proc, State.call_cfg, say_call, State.call_slot, State.call_setSlot]
  simp only [List.append_assoc, List.cons_append, List.nil_append]

end

/-! ### What a message says (R215) -/

theorem readName_text {n : Name} (h : n.length ≤ 20) (rest : List Byte) : readName.run (text n ++ rest) = some (n, rest) := by
  unfold readName
  rw [Reader.run_next (readText_text n (by omega) rest), if_pos h]
  rfl

theorem readMessage_ability {a : Abilities} (hw : a.maxWidth < 65536) (hr : a.maxRate < 256) (ht : a.lineTime < 256)
    (hn : a.name.length ≤ 20) : readMessage (Message.ability a).bytes = some (.ability a) := by
  refine readAll_of_run (r := readAbility) fun rest => ?_
  simp only [List.append_assoc]
  exact (Reader.run_next (readUint_uint 2 _ hw _)).trans <| (Reader.run_next (readFlag_flag _ _)).trans <|
    (Reader.run_next (readFlag_flag _ _)).trans <| (Reader.run_next (readUint_one_uint hr _)).trans <|
    (Reader.run_next (readUint_one_uint ht _)).trans <| (Reader.run_next (readName_text hn _)).trans rfl

theorem readMessage_choice {c : Settings} {n : Name} (hw : c.width < 65536) (hr : c.rate < 256) (ht : c.lineTime < 256)
    (hn : n.length ≤ 20) : readMessage (Message.choice c n).bytes = some (.choice c n) := by
  refine readAll_of_run (r := readChoice) fun rest => ?_
  have hq : c.resolution.code < 256 := by cases c.resolution <;> decide
  have hcode : Resolution.ofCode c.resolution.code = some c.resolution := by cases c.resolution <;> rfl
  simp only [List.append_assoc]
  refine (Reader.run_next (readUint_uint 2 _ hw _)).trans <| (Reader.run_next (readUint_one_uint hq _)).trans <|
    (Reader.run_next (readFlag_flag _ _)).trans <| (Reader.run_next (readUint_one_uint hr _)).trans <|
    (Reader.run_next (readUint_one_uint ht _)).trans <| (Reader.run_next (readName_text hn _)).trans ?_
  rw [hcode]
  rfl

/-- What a message does in a procedure context in use (R128, R153). -/
theorem takeMessage_taken {bytes : List Byte} {m : Message} (hm : readMessage bytes = some m) {l : LineNo} {s : State}
    (hp : (s.proc l).phase ≠ .idle) :
    takeMessage l bytes s =
      printerLook (messageEffect l m (s.call l { s.proc l with sup := (s.proc l).sup.progress .message } (s.slot l))) := by
  unfold takeMessage messageTaken
  rw [hm]
  dsimp only
  rw [if_neg hp, State.setProc_call]

/-! ### The caller's CHOICE (R133) -/

/-- The settings of the CHOICE for a page. -/
def Settings.forPage (rate : Nat) (a : Abilities) (g : Page) : Settings :=
  ⟨g.width, sentResolution a g.resolution, a.delta, rate, a.lineTime⟩

/-- The context of a caller that has sent the CHOICE for a page. -/
def Proc.choosing (x : Proc) (rate : Nat) (a : Abilities) (p : Fin 256) (g : Page) (own : Name) : Proc :=
  { x with
    phase := .waitTrial, remote := some a, settings := .forPage rate a g, page := some p, recoder := .chosen a g, sup := .enter .message,
    lastMessage := some (.choice (.forPage rate a g) own) }

/-- The slot behind a CHOICE and its TRIAL. -/
def Slot.choosing (y : Slot) (c : Settings) (own : Name) : Slot :=
  { y with out := y.out ++ (Message.choice c own).bytes.map .byte ++ [.endMessage, .trial c.rate] }

theorem sendChoice_call {s : State} {l : LineNo} {x : Proc} {y : Slot} {a : Abilities} {p : Fin 256} {rate : Nat}
    (hr : x.remote = some a) (hw : (s.page p).width ≤ a.maxWidth)
    (hrate : (if x.settings.rate = 0 then min s.cfg.maxRate a.maxRate else x.settings.rate) = rate) :
    sendChoice l p (s.call l x y) =
      s.call l (x.choosing rate a p (s.page p) s.cfg.stationName) (y.choosing (.forPage rate a (s.page p)) s.cfg.stationName) := by
  unfold sendChoice
  rw [State.call_proc]
  dsimp only
  rw [hr]
  dsimp only
  rw [State.call_page, if_neg (by omega), State.call_setProc, sayChoice_call, State.call_cfg, hrate]
  rfl

/-- An idle recoder with the mode that R133 fixes. -/
theorem Recoder.chosen_eq (a : Abilities) (g : Page) :
    Recoder.chosen a g = { Recoder.idle with
      mode := if g.resolution = .fine ∧ a.fine = false then .halve else if a.delta = false then .plainOnly else .pass,
      delta := a.delta } := by
  unfold Recoder.chosen modeFor
  split
  · rfl
  · split
    next h => rw [h]
    next h => rw [Bool.eq_true_of_not_eq_false h]

theorem lookFirst_sealed {s : State} {l : LineNo} {a : Admission} {job : Job} {doc : Document} {p : Fin 256}
    (ha : (s.line l).admission = some a) (hj : s.job a.job = some job) (hd : s.doc job.doc = some doc)
    (hp : doc.slots[(s.proc l).slot]? = some p) (hs : (s.page p).state = .sealed) : lookFirst l s = sendChoice l p s := by
  have hsend : sendable doc (s.page p) = true := by
    unfold sendable
    rw [hs]
  simp only [lookFirst, callDoc, ha, hj, hd, hp, hsend, Option.map_some, if_true]

/-- A meter started, its units of the call those of the answer (R184). -/
theorem meterStart_meters (l : LineNo) (zone : Fin 8) (account : Fin 64) (s : State) :
    (meterStart l zone account s).meters =
      store s.meters l { (Meter.reload ⟨true, false, 0, 0, 0, 0, zone, account, s.clock.day, s.clock.second⟩ (s.cell zone)) with
        units := BitVec.ofNat 32 (if (s.cell zone).whole = 0 then (s.cell zone).setup else (s.cell zone).setup + 1) } := by
  have hunits (m : Meter) (c : Cell) : (m.reload c).units = m.units := by
    unfold Meter.reload
    split
    · rfl
    · split <;> rfl
  generalize hm : (⟨true, false, 0, 0, 0, 0, zone, account, s.clock.day, s.clock.second⟩ : Meter) = m
  have hzero : (m.reload (s.cell zone)).units = 0 := by rw [hunits, ← hm]
  unfold meterStart
  dsimp only
  rw [hm]
  generalize (if (s.cell zone).whole = 0 then (s.cell zone).setup else (s.cell zone).setup + 1) = k
  unfold meterPost
  split
  next hk =>
    subst hk
    exact congrArg (store s.meters l) (by rw [show BitVec.ofNat 32 0 = (m.reload (s.cell zone)).units from hzero.symm])
  next hk =>
    simp [State.setMeter, State.meter, hzero]

theorem postAccount_total (n : Fin 64) (k : Nat) (s : State) :
    ((postAccount n k s).account n).total = min 16777215 ((s.account n).total + k) := by
  unfold postAccount State.account
  rw [putAccount_accounts, fetch_store_same]
  rfl

theorem Meter.reload_account (m : Meter) (c : Cell) : (m.reload c).account = m.account := by
  unfold Meter.reload
  split
  · rfl
  · split <;> rfl

theorem meterStart_total (l : LineNo) (zone : Fin 8) (account : Fin 64) (s : State) :
    ((meterStart l zone account s).account account).total =
      if (if (s.cell zone).whole = 0 then (s.cell zone).setup else (s.cell zone).setup + 1) = 0 then (s.account account).total
      else min 16777215 ((s.account account).total +
        (if (s.cell zone).whole = 0 then (s.cell zone).setup else (s.cell zone).setup + 1)) := by
  unfold meterStart
  dsimp only
  generalize (if (s.cell zone).whole = 0 then (s.cell zone).setup else (s.cell zone).setup + 1) = k
  unfold meterPost
  split
  · rfl
  · have hmeter (m : Meter) : ((s.setMeter l m).meter l) = m := by simp [State.setMeter, State.meter]
    dsimp only
    rw [hmeter, Meter.reload_account, postAccount_total]
    rfl

theorem putAccount_call (n : Fin 64) (a : Account) (s : State) (l : LineNo) (x : Proc) (y : Slot) :
    putAccount n a (s.call l x y) = (putAccount n a s).call l x y := by
  have hopen : (s.call l x y).account n = s.account n := rfl
  unfold putAccount
  rw [hopen]
  split <;> rfl

theorem meterPost_call (k : LineNo) (n : Nat) (s : State) (l : LineNo) (x : Proc) (y : Slot) :
    meterPost k n (s.call l x y) = (meterPost k n s).call l x y := by
  unfold meterPost postAccount
  split
  · rfl
  · exact putAccount_call _ _ (s.setMeter k { s.meter k with units := (s.meter k).units + BitVec.ofNat 32 n }) l x y

theorem meterStart_call (k : LineNo) (z : Fin 8) (n : Fin 64) (s : State) (l : LineNo) (x : Proc) (y : Slot) :
    meterStart k z n (s.call l x y) = (meterStart k z n s).call l x y :=
  meterPost_call k _ (s.setMeter k _) l x y

/-- The ABILITY taken by a caller whose first page is SEALED (R131 to R133). -/
theorem takeMessage_ability {s : State} {l : LineNo} {a : Admission} (hq : s.noPrinting) (ha : (s.line l).admission = some a)
    {ab : Abilities} {job : Job} {doc : Document} {p : Fin 256} (hph : (s.proc l).phase = .waitAbility)
    (hrate : (s.proc l).settings.rate = 0) (hwidth : ab.maxWidth = 1024 ∨ ab.maxWidth = 1536 ∨ ab.maxWidth = 2048)
    (hr1 : 1 ≤ ab.maxRate) (hr6 : ab.maxRate ≤ 6) (ht : ab.lineTime ≤ 4) (hn : ab.name.length ≤ 20) (hj : s.job a.job = some job)
    (hd : s.doc job.doc = some doc) (hp : doc.slots[(s.proc l).slot]? = some p) (hs : (s.page p).state = .sealed)
    (hw : (s.page p).width ≤ ab.maxWidth) :
    takeMessage l (Message.ability ab).bytes s =
      (meterStart l a.zone a.account (s.setLine l { s.line l with answered := true })).call l
        (({ s.proc l with remote := some ab, sup := .off } : Proc).choosing (min s.cfg.maxRate ab.maxRate) ab p (s.page p) s.cfg.stationName)
        ((s.slot l).choosing (.forPage (min s.cfg.maxRate ab.maxRate) ab (s.page p)) s.cfg.stationName) := by
  rw [takeMessage_taken (readMessage_ability (by omega) (by omega) (by omega) hn) (by rw [hph]; decide)]
  have hvalid : ab.valid = true := by
    unfold Abilities.valid isWidth
    simp only [Bool.and_eq_true, decide_eq_true_eq]
    omega
  generalize hx : ({ s.proc l with sup := (s.proc l).sup.progress .message } : Proc) = x
  have hxph : x.phase = .waitAbility := by rw [← hx]; exact hph
  have hxoff : ({ x with remote := some ab, sup := .off } : Proc) = { s.proc l with remote := some ab, sup := .off } := by rw [← hx]
  have heffect : messageEffect l (.ability ab) (s.call l x (s.slot l)) = takeAbility l ab (s.call l x (s.slot l)) := by
    unfold messageEffect
    rw [State.call_proc, hxph]
  have htake : takeAbility l ab (s.call l x (s.slot l)) =
      lookFirst l ((meterStart l a.zone a.account (s.setLine l { s.line l with answered := true })).call l
        { s.proc l with remote := some ab, sup := .off } (s.slot l)) := by
    unfold takeAbility
    rw [State.call_line, ha]
    dsimp only
    rw [if_pos hvalid, State.call_proc, State.call_setProc, hxoff, State.call_setLine, meterStart_call, State.call_line]
  rw [heffect, htake]
  generalize hu : meterStart l a.zone a.account (s.setLine l { s.line l with answered := true }) = u
  have hcfg : u.cfg = s.cfg := by rw [← hu]; simp
  have hstore : u.store = s.store := by rw [← hu]; simp
  have hjobs : u.jobs = s.jobs := by rw [← hu]; simp
  have hprinter : u.printer = s.printer := by rw [← hu]; simp
  have hlines : u.lines = store s.lines l { s.line l with answered := true } := by rw [← hu]; simp
  have hpage : u.page p = s.page p := congrArg (fun st : Store => fetch st.pages p) hstore
  have hline : u.line l = { s.line l with answered := true } := by
    show fetch u.lines l = _
    rw [hlines, fetch_store_same]
  have hsend := sendChoice_call (s := u) (l := l) (x := { s.proc l with remote := some ab, sup := .off }) (y := s.slot l) (p := p) (a := ab)
    (rate := min s.cfg.maxRate ab.maxRate) rfl (by rw [hpage]; exact hw) (by rw [hcfg]; exact if_pos hrate)
  rw [lookFirst_sealed (a := a) (job := job) (doc := doc) (p := p) (by rw [State.call_line, hline]; exact ha)
    (by rw [State.call_job]; exact (congrArg (fun t : JobTable => fetch t.slots a.job) hjobs).trans hj)
    (by rw [State.call_doc]; exact (congrArg (fun st : Store => fetch st.docs job.doc) hstore).trans hd)
    (by rw [State.call_proc]; exact hp) (by rw [State.call_page, hpage]; exact hs), hsend, hpage, hcfg]
  exact printerLook_noPrinting (State.call_noPrinting _ _ _ _ (State.noPrinting_congr hq hprinter (congrArg JobTable.slots hjobs)))

/-! ### The page begun (R134, R135) -/

theorem Recoder.prepare_keeps (st : Store) (c : Settings) (i n : Nat) (r : Recoder) :
    (r.prepare st c i n).active = r.active ∧ (r.prepare st c i n).page = r.page ∧ (r.prepare st c i n).mode = r.mode ∧
      (r.prepare st c i n).delta = r.delta := by
  induction n generalizing r with
  | zero => exact ⟨rfl, rfl, rfl, rfl⟩
  | succ n ih =>
    unfold Recoder.prepare
    split
    · split
      · exact ih _
      · exact ⟨rfl, rfl, rfl, rfl⟩
    · exact ⟨rfl, rfl, rfl, rfl⟩
    · exact ⟨rfl, rfl, rfl, rfl⟩

theorem Store.useClaim_claims (st : Store) (h : Holder) (slot : Nat) :
    st.useClaim h slot = { st with claims := st.claims.map (fun k =>
      if k.holder = h ∧ k.slot = slot ∧ k.withdrawn = false then { k with inUse := true } else k) } := by
  have hf : (fun c : Claim => if c.standsAt h slot = true then { c with inUse := true } else c) =
      fun k => if k.holder = h ∧ k.slot = slot ∧ k.withdrawn = false then { k with inUse := true } else k :=
    funext fun c => if_congr (by simp [Claim.standsAt, and_assoc]) rfl rfl
  unfold Store.useClaim
  rw [hf]

/-- The context of a caller whose page begins. -/
def Proc.sending (x : Proc) (st : Store) (interval : Nat) (p : Fin 256) (g : Page) : Proc :=
  let r := (x.recoder.begin p g).prepare st x.settings interval 2
  { x with
    phase := .sending, page := some p, sends := max 1 x.sends, recoder := r, sup := if r.waiting then .enter .page else .off }

theorem beginPage_call {s : State} {l : LineNo} {a : Admission} (ha : (s.line l).admission = some a) {job : Job} {p : Fin 256}
    (hj : s.job a.job = some job) {x : Proc} {y : Slot} (hp : s.store.slotPage job.doc x.slot = some p) :
    beginPage l (s.call l x y) =
      ({ s with store := s.store.useClaim (.dest a.job a.dest) x.slot } : State).call l
        (x.sending (s.store.useClaim (.dest a.job a.dest) x.slot) s.cfg.anchorInterval p (s.page p))
        { y with command := .sendData, rate := x.settings.rate } := by
  have hcursor : cursorPage l (s.call l x y) = some p := by
    simp only [cursorPage, callDoc, State.call_line, ha, State.call_job, hj, Option.map_some, State.call_store, State.call_proc, hp]
  have huse (st : Store) : { s.call l x y with store := st } = ({ s with store := st } : State).call l x y := rfl
  unfold beginPage
  rw [hcursor, State.call_line, ha, State.call_proc]
  dsimp only
  rw [huse, State.call_setProc, setCommand_call]
  unfold refill
  rw [State.call_proc, State.call_setProc]
  rfl

/-! ### Settling O51 -/

/-- A message that the phase expects is taken (R128). -/
theorem messageEffect_trialGood {s : State} {l : LineNo} (h : (s.proc l).phase = .waitTrial) :
    messageEffect l .trialGood s = beginPage l s := by
  unfold messageEffect
  rw [h]

theorem messageEffect_trialBad {s : State} {l : LineNo} (h : (s.proc l).phase = .waitTrial) :
    messageEffect l .trialBad s = takeTrialBad l s := by
  unfold messageEffect
  rw [h]

/-- What the release is handed, and the slot behind a CLOSE (R140). -/
def Proc.request (x : Proc) (why : Reason) : ReleaseRequest :=
  ⟨why, x.delivered, match x.remote with | some a => a.name | none => []⟩

theorem Proc.request_congr {x y : Proc} (hd : x.delivered = y.delivered) (hr : x.remote = y.remote) (why : Reason) :
    x.request why = y.request why := by
  unfold Proc.request
  rw [hd, hr]

def Slot.closed (y : Slot) (r : ReleaseRequest) : Slot :=
  { y with out := y.out ++ [.byte 8, .byte (byteOf r.reason.code), .endMessage], closing := some r }

theorem endStall_call (c : ChannelNo) (s : State) (l : LineNo) (x : Proc) (y : Slot) :
    endStall c (s.call l x y) = (endStall c s).call l x y := by
  have hgrant (s : State) : grant c (s.call l x y) = (grant c s).call l x y := by
    have hchannel : (s.call l x y).channel c = s.channel c := rfl
    unfold grant
    rw [hchannel]
    dsimp only
    split <;> rfl
  have hchannel : (s.call l x y).channel c = s.channel c := rfl
  have hset (z : Channel) : (s.call l x y).setChannel c z = (s.setChannel c z).call l x y := rfl
  unfold endStall
  rw [hchannel]
  dsimp only
  rw [hset, hgrant]
  exact (apply_ite (State.call · l x y) _ _ _).symm

theorem withStore_call (f : Store → Store) (s : State) (l : LineNo) (x : Proc) (y : Slot) :
    withStore f (s.call l x y) = (withStore f s).call l x y := by
  have hstalls (cs : List ChannelNo) (s : State) :
      cs.foldl (fun s c => endStall c s) (s.call l x y) = (cs.foldl (fun s c => endStall c s) s).call l x y := by
    induction cs generalizing s with
    | nil => rfl
    | cons c cs ih => rw [List.foldl_cons, endStall_call, ih, List.foldl_cons]
  unfold withStore
  dsimp only
  rw [State.call_cfg, State.call_store]
  split
  · exact hstalls allChannels { s with store := f s.store }
  · rfl

theorem endSendUse_call (a : Admission) (b : Bool) (s : State) (l : LineNo) (x : Proc) (y : Slot) :
    endSendUse a b (s.call l x y) = (endSendUse a b s).call l x y := by
  unfold endSendUse
  exact withStore_call _ s l x y

/-- A caller's CLOSE (R140): its use of a page ended, its context IDLE, the release held in the slot. -/
theorem closeCall_call {s : State} {l : LineNo} {a : Admission} (ha : (s.line l).admission = some a) (why : Reason) (x : Proc) (y : Slot) :
    closeCall l why (s.call l x y) =
      (endSendUse a false s).call l { Proc.idle with endReason := some why } (y.closed (x.request why)) := by
  unfold closeCall quitCaller callerRequest
  dsimp only
  rw [say_call, State.call_line, ha]
  dsimp only
  rw [endSendUse_call, State.call_setProc, State.call_slot, State.call_setSlot, State.call_proc]
  unfold Slot.closed Message.bytes
  simp only [List.append_assoc, List.map_cons, List.map_nil, List.cons_append, List.nil_append]
  rfl

theorem endSendUse_unused {s : State} {a : Admission} (h : s.store.usedClaim (.dest a.job a.dest) = none) (b : Bool) :
    endSendUse a b s = s := by
  unfold endSendUse
  refine (withStore_same _ s ?_).trans ?_ <;> rw [Store.endUse_none _ _ _ _ _ h]

/-- Settles O51. -/
theorem callerTakesAbilityAndTrial : Obligations.CallerTakesAbilityAndTrial := by
  intro s l a hq ha hclosing x
  refine ⟨fun ab job doc p hph hrate hwidth hr1 hr6 ht hn hj hd hp hs hw => ?_, fun job p hph hj hp => ?_, fun hph hrate => ?_,
    fun hph hrate huse => ?_⟩
  · intro g cell units meter c
    refine ⟨_, congrArg Host.Outcome.next (takeMessage_ability hq ha hph hrate hwidth hr1 hr6 ht hn hj hd hp hs hw),
      ?_, ?_, ?_, ?_, ?_, ?_, ?_, ?_, ?_, ?_⟩
    · simp
    · exact meterStart_meters l a.zone a.account _
    · exact meterStart_total l a.zone a.account _
    · rw [State.call_proc]
      unfold Proc.choosing
      rw [Recoder.chosen_eq]
      rfl
    · rw [State.call_slot]
      rfl
    all_goals simp [State.call]
  all_goals
    have hidle : (s.proc l).phase ≠ .idle := by rw [show (s.proc l).phase = .waitTrial from hph]; decide
    have hphase (z : Supervision) : ((s.call l { s.proc l with sup := z } (s.slot l)).proc l).phase = .waitTrial := by
      rw [State.call_proc]
      exact hph
  · have htake : takeMessage l [3] s = _ := takeMessage_taken (m := .trialGood) rfl hidle
    rw [messageEffect_trialGood (hphase _), beginPage_call (x := { s.proc l with sup := (s.proc l).sup.progress .message }) ha hj hp] at htake
    refine ⟨_, congrArg Host.Outcome.next (htake.trans (printerLook_noPrinting (State.noPrinting_congr hq rfl rfl))), ?_⟩
    have hkeeps := Recoder.prepare_keeps (s.store.useClaim (.dest a.job a.dest) (s.proc l).slot) (s.proc l).settings s.cfg.anchorInterval 2
      ((s.proc l).recoder.begin p (s.page p))
    obtain ⟨hactive, hpage, hmode, hdelta⟩ := hkeeps
    rw [State.call_proc, State.call_slot]
    exact ⟨rfl, rfl, rfl, rfl, hactive, hpage, hmode, hdelta, rfl, rfl, rfl, by rw [State.call_store]; exact Store.useClaim_claims _ _ _,
      rfl, rfl, rfl, rfl⟩
  · intro c
    have htake : takeMessage l [4] s = _ := takeMessage_taken (m := .trialBad) rfl hidle
    rw [messageEffect_trialBad (hphase _)] at htake
    unfold takeTrialBad at htake
    dsimp only at htake
    rw [State.call_proc, if_pos hrate, State.call_setProc, sayChoice_call,
      printerLook_noPrinting (State.call_noPrinting _ _ _ _ hq)] at htake
    exact congrArg Host.Outcome.next htake
  · have htake : takeMessage l [4] s = _ := takeMessage_taken (m := .trialBad) rfl hidle
    rw [messageEffect_trialBad (hphase _)] at htake
    unfold takeTrialBad at htake
    dsimp only at htake
    rw [State.call_proc, if_neg (show ¬1 < (s.proc l).settings.rate from Nat.not_lt.mpr hrate), closeCall_call ha, endSendUse_unused huse,
      printerLook_noPrinting (State.call_noPrinting _ _ _ _ hq)] at htake
    exact congrArg Host.Outcome.next htake

/-! ### The called station's CHOICE (R143, R144) -/

theorem State.call_quiet {s : State} (h : s.quiet) (l : LineNo) {x : Proc} (hx : x.role = .caller → x.phase = .idle) (y : Slot) :
    (s.call l x y).quiet := by
  obtain ⟨hprint, hlines⟩ := h
  refine ⟨State.call_noPrinting s l x y hprint, fun k => ⟨(hlines k).1, ?_⟩⟩
  by_cases hk : k = l
  · subst hk
    rw [State.call_proc]
    exact hx
  · have hproc : (s.call l x y).proc k = s.proc k := State.setProc_proc_ne s l x k hk
    rw [hproc]
    exact (hlines k).2

/-- The store when a call's first CHOICE takes the held record for slot 0. -/
def Store.tookHeld (st : Store) (d : Fin 64) (p : Fin 256) (x : Document) (c : Settings) (n : Name) (hs : List Holder) : Store :=
  { st with
    pages := Machine.store st.pages p (.taken c.width c.resolution d 0 true 0),
    docs := Machine.store st.docs d (some { x with slots := [p], remoteName := n, held := none }),
    claims := st.claims ++ hs.map (fun h => ⟨h, d, 0, p, false, false⟩) }

theorem firstChoice_call {s : State} (hq : s.quiet) {l : LineNo} {d : Fin 64} {doc : Document} (hd : s.doc d = some doc)
    (hslots : doc.slots = []) (p : Fin 256) (c : Settings) (n : Name) {x : Proc} (hx : x.role = .caller → x.phase = .idle) (y : Slot) :
    firstChoice l d p c n (s.call l x y) =
      ({ s with store := s.store.tookHeld d p doc c n (docHolders d s) } : State).call l { x with slot := 0, page := some p } y := by
  have hstore (st : Store) : { s.call l x y with store := st } = ({ s with store := st } : State).call l x y := rfl
  have hmap (hs : List Holder) :
      (s.store.changeDoc d (fun x => { x with remoteName := n, held := none })).mapPage p c.width c.resolution d hs =
        s.store.tookHeld d p doc c n hs := by
    rw [changeDoc_some hd, Store.mapPage_some (fetch_store_same ..)]
    unfold Store.tookHeld
    simp only [hslots, List.length_nil, List.nil_append, store_store]
  unfold firstChoice
  dsimp only
  rw [hstore, State.call_store, hmap, State.call_proc, State.call_setProc]
  generalize hst : s.store.tookHeld d p doc c n (docHolders d (s.call l x y)) = st
  have hst' : s.store.tookHeld d p doc c n (docHolders d s) = st := hst
  have hquiet : ({ s with store := st } : State).quiet := State.quiet_congr (s := s) hq rfl rfl rfl rfl
  rw [hst']
  exact documentNews_quiet (State.call_quiet hquiet l (x := { x with slot := 0, page := some p }) hx y) d

theorem heldPage_some {s : State} {l : LineNo} {j : Fin 32} {d : Fin 64} {doc : Document} {p : Fin 256}
    (hr : (s.line l).receive = some (j, d)) (hd : s.doc d = some doc) (hh : doc.held = some p) (hs : (s.page p).state = .free) :
    heldPage l s = some (d, p) := by
  simp only [heldPage, receptionDoc, hr, Option.map_some, hd, Option.bind_some, hh, hs, if_true]

theorem takeChoice_first {s : State} (hq : s.quiet) {l : LineNo} {j : Fin 32} {d : Fin 64} {doc : Document} {p : Fin 256}
    (hr : (s.line l).receive = some (j, d)) (hd : s.doc d = some doc) (hh : doc.held = some p) (hs : (s.page p).state = .free)
    (hslots : doc.slots = []) {c : Settings} (hc : choiceMet s.cfg c = true) (n : Name) {x : Proc}
    (hx : x.role = .caller → x.phase = .idle) (y : Slot) :
    takeChoice l c n (s.call l x y) =
      ({ s with store := s.store.tookHeld d p doc c n (docHolders d s) } : State).call l
        { x with phase := .judging, settings := c, slot := 0, page := some p, sup := .enter .message }
        { y with command := .receive, rate := 0 } := by
  unfold takeChoice
  rw [State.call_cfg, if_pos hc, State.call_proc]
  dsimp only
  rw [State.call_setProc, heldPage_some (by rw [State.call_line]; exact hr) (by rw [State.call_doc]; exact hd) hh
    (by rw [State.call_page]; exact hs)]
  dsimp only
  rw [firstChoice_call hq hd hslots p c n (x := { x with settings := c }) hx, setCommand_call, enter_call]

theorem messageEffect_choice {s : State} {l : LineNo} (h : (s.proc l).phase = .waitChoice) (c : Settings) (n : Name) :
    messageEffect l (.choice c n) s = takeChoice l c n s := by
  unfold messageEffect
  rw [h]

/-- Settles O52. -/
theorem calledTakesChoiceAndTrial : Obligations.CalledTakesChoiceAndTrial := by
  intro s l x
  refine ⟨fun c name j d doc p hq hph hr hd hh hslots hs hw hwm hres hdelta hr1 hr6 hrm ht hn => ?_,
    fun c name hq hph hw hwm hr ht hn hsup => ?_, fun hph => ⟨?_, ?_⟩⟩
  · have hc : choiceMet s.cfg c = true := by
      unfold choiceMet isWidth
      simp only [Bool.and_eq_true, Bool.or_eq_true, Bool.not_eq_true', decide_eq_true_eq]
      exact ⟨⟨⟨⟨by omega, hwm⟩, hres⟩, hdelta⟩, hr1, hr6, hrm, ht⟩
    have htake : takeMessage l (Message.choice c name).bytes s = _ :=
      takeMessage_taken (readMessage_choice (by omega) (by omega) (by omega) hn) (by rw [show (s.proc l).phase = .waitChoice from hph]; decide)
    rw [messageEffect_choice (by rw [State.call_proc]; exact hph), takeChoice_first hq hr hd hh hs hslots hc name
      (x := { s.proc l with sup := (s.proc l).sup.progress .message }) (hq.2 l).2] at htake
    refine ⟨_, congrArg Host.Outcome.next (htake.trans (printerLook_noPrinting (State.noPrinting_congr hq.1 rfl rfl))),
      ?_, ?_, ?_, fun q hqp => ?_, ?_, rfl, rfl, rfl, rfl, rfl⟩
    · rw [State.call_proc]
      rfl
    · rw [State.call_slot]
    · exact fetch_store_same ..
    · exact fetch_store_ne _ _ hqp
    · exact fetch_store_same ..
  · intro m
    have hc : choiceMet s.cfg c = false := by
      unfold choiceMet
      simp [show ¬c.width ≤ s.cfg.maxWidth by omega]
    have htake : takeMessage l (Message.choice c name).bytes s = _ :=
      takeMessage_taken (readMessage_choice hw hr ht hn) (by rw [show (s.proc l).phase = .waitChoice from hph]; decide)
    have hage : (s.proc l).sup.progress .message = (s.proc l).sup := by rw [show (s.proc l).sup = ⟨some .message, 0, false⟩ from hsup]; rfl
    have hcfg (z : Proc) : ¬choiceMet (s.call l z (s.slot l)).cfg c = true := by rw [State.call_cfg, hc]; decide
    rw [messageEffect_choice (by rw [State.call_proc]; exact hph), takeChoice, if_neg (hcfg _), say_call, hage] at htake
    exact congrArg Host.Outcome.next (htake.trans (printerLook_noPrinting (State.noPrinting_congr hq rfl rfl)))
  · refine congrArg Host.Outcome.next ((if_pos hph).trans ?_)
    rw [if_pos rfl, say_eq, enter_call, List.append_assoc]
    rfl
  · refine congrArg Host.Outcome.next ((if_pos hph).trans ?_)
    rw [if_neg Bool.false_ne_true, say_eq, enter_call, List.append_assoc]
    rfl

end Sys2Proof.Machine
end

section
/-! PROOFS. What goes to the module (O53): page data line by line in the recoder's mode, and messages item by item. -/

namespace Sys2Proof.Machine

/-! ### The recoder's next line (R42 to R45) -/

section
variable {st : Store} {c : Settings} {i n : Nat} {r : Recoder} {d : Decoder} {y : DecodedLine}

theorem Recoder.prepare_line (h : st.nextLine r.page r.decoder = (d, .line y)) (hm : ¬(r.mode = .halve ∧ y.index % 2 = 1)) :
    r.prepare st c i (n + 1) = { r with decoder := d }.loaded c i y := by
  unfold Recoder.prepare
  rw [h]
  exact if_neg hm

theorem Recoder.prepare_skips (h : st.nextLine r.page r.decoder = (d, .line y)) (hm : r.mode = .halve ∧ y.index % 2 = 1) :
    r.prepare st c i (n + 1) = { r with decoder := d }.prepare st c i n := by
  conv_lhs => unfold Recoder.prepare
  rw [h]
  exact if_pos hm

theorem Recoder.prepare_finished (h : st.nextLine r.page r.decoder = (d, .finished)) :
    r.prepare st c i (n + 1) = { r with decoder := d, buffer := [pageEndMark], atEnd := true, waiting := false } := by
  unfold Recoder.prepare
  rw [h]

theorem Recoder.prepare_waits (h : st.nextLine r.page r.decoder = (d, .waiting)) :
    r.prepare st c i (n + 1) = { r with decoder := d, waiting := true } := by
  unfold Recoder.prepare
  rw [h]

end

/-! ### A byte of page data (R135) -/

/-- The slot with a byte of page data handed over. -/
def Slot.dataHanded (y : Slot) (b : Byte) (rate : Nat) : Slot :=
  { y with handed := true, dataByte := some b, command := .sendData, rate := rate }

/-- The caller's context with what is left of the line in hand. -/
def Proc.left (x : Proc) (rest : List Byte) : Proc := { x with recoder := { x.recoder with buffer := rest } }

section
variable {s : State} {l : LineNo}

theorem sendDataByte_sending (hh : (s.slot l).handed = false) (ho : (s.slot l).out = []) (hp : (s.proc l).phase = .sending) :
    sendDataByte l s = nextDataByte l s := by
  unfold sendDataByte
  rw [if_neg (by rw [hh]; decide), if_neg (not_not.mpr ho), if_pos hp]

theorem handData_eq (b : Byte) : handData l b s = s.call l (s.proc l) ((s.slot l).dataHanded b (s.proc l).settings.rate) :=
  State.setSlot_call ..

theorem nextDataByte_fill (h : (s.proc l).recoder.buffer = []) :
    nextDataByte l s = s.setSlot l ((s.slot l).dataHanded 0 (s.proc l).settings.rate) := by
  unfold nextDataByte
  dsimp only
  rw [h]
  rfl

/-- The state behind a byte of the line in hand. -/
def State.byteOut (s : State) (l : LineNo) (b : Byte) (rest : List Byte) : State :=
  s.call l ((s.proc l).left rest) ((s.slot l).dataHanded b (s.proc l).settings.rate)

theorem nextDataByte_more {b b' : Byte} {rest : List Byte} (h : (s.proc l).recoder.buffer = b :: b' :: rest) :
    nextDataByte l s = s.byteOut l b (b' :: rest) := by
  unfold nextDataByte
  dsimp only
  rw [h]
  dsimp only
  rw [if_neg (List.cons_ne_nil _ _), handData_eq, State.call_setProc]
  rfl

theorem nextDataByte_last {b : Byte} (h : (s.proc l).recoder.buffer = [b]) :
    nextDataByte l s = if (s.proc l).recoder.atEnd = true then pageEndChoice l (s.byteOut l b []) else refill l (s.byteOut l b []) := by
  unfold nextDataByte
  dsimp only
  rw [h]
  dsimp only
  rw [if_pos rfl, handData_eq, State.call_setProc]
  rfl

theorem refill_byteOut (b : Byte) {r : Recoder}
    (hr : ((s.proc l).left []).recoder.prepare s.store (s.proc l).settings s.cfg.anchorInterval 2 = r) :
    refill l (s.byteOut l b []) =
      s.call l { s.proc l with recoder := r, sup := if r.waiting then .enter .page else .off }
        ((s.slot l).dataHanded b (s.proc l).settings.rate) := by
  unfold refill State.byteOut
  rw [State.call_proc, State.call_setProc, State.call_store, State.call_cfg]
  dsimp only
  rw [show ((s.proc l).left []).settings = (s.proc l).settings from rfl, hr]
  rfl

theorem sendDataByte_refills {b : Byte} (hh : (s.slot l).handed = false) (ho : (s.slot l).out = []) (hp : (s.proc l).phase = .sending)
    (hb : (s.proc l).recoder.buffer = [b]) (he : (s.proc l).recoder.atEnd = false) {r : Recoder}
    (hr : ((s.proc l).left []).recoder.prepare s.store (s.proc l).settings s.cfg.anchorInterval 2 = r) :
    sendDataByte l s =
      s.call l { s.proc l with recoder := r, sup := if r.waiting then .enter .page else .off }
        ((s.slot l).dataHanded b (s.proc l).settings.rate) := by
  rw [sendDataByte_sending hh ho hp, nextDataByte_last hb, if_neg (by rw [he]; decide), refill_byteOut b hr]

/-- After the mark of a CLOSED document's last page the caller sends PAGE-END LAST (R136). -/
theorem pageEndChoice_last {a : Admission} {job : Job} {doc : Document} {p : Fin 256} {x : Proc} {y : Slot}
    (ha : (s.line l).admission = some a) (hpage : x.page = some p) (hj : s.job a.job = some job) (hd : s.doc job.doc = some doc)
    (hopen : doc.isOpen = false) (hlast : doc.slots.length ≤ x.slot + 1) :
    pageEndChoice l (s.call l x y) =
      s.call l { x with phase := .waitVerdict, pageEnd := some .last, lastMessage := some (.pageEnd .last), sup := .enter .message }
        { y with out := y.out ++ [.byte 5, .byte 2, .endMessage] } := by
  have hkind (t : State) (g : Page) : pageEndKind t doc x.slot g = some .last := if_pos ⟨hopen, hlast⟩
  unfold pageEndChoice sendPageEnd
  simp only [State.call_proc, State.call_line, ha, hpage, callDoc, State.call_job, hj, Option.map_some, State.call_doc, hd, hkind,
    say_call, State.call_setProc, List.append_assoc]
  rfl

end

/-! ### An item of a message (R127, R214) -/

section
variable {s : State} {l : LineNo}

theorem sendMessageByte_item (hh : (s.slot l).handed = false) : sendMessageByte l s = nextItem l s := by
  unfold sendMessageByte
  rw [if_neg (by rw [hh]; decide)]

theorem sendDataByte_item (hh : (s.slot l).handed = false) (ho : (s.slot l).out ≠ []) : sendDataByte l s = nextItem l s := by
  unfold sendDataByte
  rw [if_neg (by rw [hh]; decide), if_pos ho]

/-- The slot with an item handed over. -/
def Slot.itemHanded (y : Slot) (rest : List OutItem) : OutItem → Slot
  | .byte b => { y with out := rest, handed := true, dataByte := some b, command := .sendMessage, rate := 0 }
  | .endMessage => { y with out := rest, handed := true, command := .endMessage, rate := 0 }
  | .trial r => { y with out := rest, handed := true, command := .sendTrial, rate := r }

theorem nextItem_cons {o : OutItem} {rest : List OutItem} (h : (s.slot l).out = o :: rest) :
    nextItem l s = s.setSlot l ((s.slot l).itemHanded rest o) := by
  unfold nextItem
  dsimp only
  rw [h]
  cases o <;> rfl

theorem nextItem_nil (h : (s.slot l).out = []) : nextItem l s = restoreCommand l s := by
  unfold nextItem
  dsimp only
  rw [h]

/-- With a message in hand both of the module's requests take its next item. -/
theorem item_handed {t : State} {o : OutItem} {rest : List OutItem} (hh : (s.slot l).handed = false) (ho : (s.slot l).out = o :: rest)
    (ht : nextItem l s = t) : exec (.pageDataByteSend l) s = .next t ∧ exec (.messageByteSend l) s = .next t :=
  ⟨congrArg Host.Outcome.next ((sendDataByte_item hh (by rw [ho]; exact List.cons_ne_nil _ _)).trans ht),
    congrArg Host.Outcome.next ((sendMessageByte_item hh).trans ht)⟩

theorem restoreCommand_connected (h : (s.line l).state = .connected) :
    restoreCommand l s = s.setSlot l (
      if (s.proc l).phase = .sending then { s.slot l with command := .sendData, rate := (s.proc l).settings.rate }
      else { s.slot l with command := .receive, rate := 0 }) := by
  unfold restoreCommand
  rw [if_pos h]
  exact (apply_ite (s.setSlot l) _ _ _).symm

end

/-- Settles O53. -/
theorem bytesGoOut : Obligations.BytesGoOut := by
  intro s l x r h data runs
  have hruns {t : State} (ht : sendDataByte l s = t) : runs t := congrArg Host.Outcome.next ht
  refine ⟨fun hh => ⟨hruns (if_pos hh), congrArg Host.Outcome.next (if_pos hh)⟩, fun hh ho hp => ⟨?_, ?_, ?_, ?_⟩, fun hh => ⟨?_, ?_, ?_, ?_⟩⟩
  · intro b b' rest hb
    exact hruns ((sendDataByte_sending hh ho hp).trans (nextDataByte_more hb))
  · intro hb
    exact hruns ((sendDataByte_sending hh ho hp).trans (nextDataByte_fill hb))
  · intro b hb he line
    refine ⟨?_, ?_, ?_, ?_⟩
    · intro d y hy hm
      refine hruns (sendDataByte_refills hh ho hp hb he (Recoder.prepare_line hy ?_))
      rintro ⟨hhalve, hodd⟩
      rcases hm with hm | hm
      · exact hm hhalve
      · omega
    · intro d e y z hm hy hodd hz heven
      exact hruns (sendDataByte_refills hh ho hp hb he ((Recoder.prepare_skips (r := ((s.proc l).left []).recoder) hy ⟨hm, hodd⟩).trans
        (Recoder.prepare_line (r := { ((s.proc l).left []).recoder with decoder := d }) hz fun hz' => by omega)))
    · intro d hd
      exact hruns (sendDataByte_refills hh ho hp hb he (Recoder.prepare_finished hd))
    · intro d hd
      exact hruns (sendDataByte_refills hh ho hp hb he (Recoder.prepare_waits hd))
  · intro b a job doc p hb he ha hpage hj hd hopen hlast
    refine hruns ((sendDataByte_sending hh ho hp).trans ((nextDataByte_last hb).trans ((if_pos he).trans ?_)))
    refine (pageEndChoice_last (x := (s.proc l).left []) ha hpage hj hd hopen hlast).trans ?_
    have hout : ((s.slot l).dataHanded b (s.proc l).settings.rate).out = [] := ho
    rw [hout]
    rfl
  · intro b rest ho t
    exact item_handed hh ho (nextItem_cons ho)
  · intro rest ho t
    exact item_handed hh ho (nextItem_cons ho)
  · intro k rest ho t
    exact item_handed hh ho (nextItem_cons ho)
  · intro ho hc
    refine congrArg Host.Outcome.next ((sendMessageByte_item hh).trans ?_)
    exact (nextItem_nil ho).trans (restoreCommand_connected hc)

end Sys2Proof.Machine
end

section
/-! PROOFS. A received page (O54): its lines stored, its end, its verdict, and the end of a reception that finds the store full. -/

namespace Sys2Proof.Machine

/-! ### A line received (R36, R40, R145) -/

theorem Store.append_received {st : Store} {reserve : Nat} {p : Fin 256} {bytes : List Byte} {more free : List Nat}
    (hf : (fetch st.pages p).state = .filling) (ht : st.takes p bytes.length more free) (kind : AppendKind) :
    st.append reserve .receive p bytes kind = some (st.extended p more free bytes kind) := by
  rcases ht with ⟨hfits, rfl, rfl⟩ | ⟨hfits, b, rfl, hfree⟩
  · rw [Store.append_fits hf hfits, Store.extended, List.append_nil]
  · have hgrant : st.grantsBlock reserve .receive = true := by
      refine decide_eq_true ?_
      rw [Store.freeCount, hfree]
      exact Nat.succ_pos _
    unfold Store.append
    dsimp only
    rw [if_neg (by simp [hf]), if_neg hfits, if_pos hgrant, hfree]
    rfl

theorem Store.extended_byte {st : Store} (hw : st.mem.wf = true) {p : Fin 256} {more free : List Nat} {bytes : List Byte}
    (kind : AppendKind) (hn : ((fetch st.pages p).chain ++ more).Nodup)
    (hroom : (fetch st.pages p).length + bytes.length ≤ ((fetch st.pages p).chain ++ more).length * 2048) {k : Nat} (hk : k < bytes.length) :
    (st.extended p more free bytes kind).pageByte p ((fetch st.pages p).length + k) = bytes.getD k 0 := by
  unfold Store.pageByte
  rw [Store.extended_page, List.getD_eq_getElem _ _ hk]
  refine Memory.read_writePage _ hw _ _ k hk fun i j _ hij hj he => ?_
  have := pageAddress_inj hn (by omega) (by omega) he
  omega

/-- A single byte appended reads back, whatever the chain. -/
theorem Store.extended_mark {st : Store} (hw : st.mem.wf = true) (p : Fin 256) (more free : List Nat) (b : Byte) (kind : AppendKind) :
    (st.extended p more free [b] kind).pageByte p (fetch st.pages p).length = b := by
  unfold Store.pageByte
  rw [Store.extended_page]
  refine Memory.read_writePage _ hw (fetch st.pages p).length [b] 0 Nat.one_pos fun i j hi hij hj => ?_
  rw [List.length_singleton] at hj
  omega

/-- The context behind a line that was stored, or that was bad. -/
def Proc.stored (x : Proc) (good : Bool) (interval : Nat) : Proc :=
  { x with
    bad := if good then x.bad else x.bad + 1, sup := x.sup.progress .data,
    checker := { x.checker with anchor := nextAnchor x.checker.anchor interval } }

theorem storeLine_stored {s : State} {l : LineNo} {x : Proc} {p : Fin 256} (hp : x.page = some p) {y : DecodedLine} (hy : y.index < 4095)
    {st : Store}
    (h : s.store.append s.cfg.reserve .receive p (x.checker.stored y) (if y.good then .line else .substitute) = some st) :
    storeLine l y (s.setProc l x) = ({ s with store := st } : State).setProc l (x.stored y.good s.cfg.anchorInterval) := by
  unfold storeLine
  rw [State.setProc_proc_same]
  dsimp only
  rw [hp]
  dsimp only
  rw [if_neg (by omega), State.setProc_store, State.setProc_cfg, h]
  show (({ s with store := st } : State).setProc l x).setProc l _ = _
  rw [State.setProc_twice, ← hp]
  rfl

/-- The context when a line finds no block, before the reception ends: its anchor has not moved on. -/
def Proc.unstored (x : Proc) (good : Bool) : Proc :=
  { x with bad := if good then x.bad else x.bad + 1, sup := x.sup.progress .data }

theorem storeLine_refused {s : State} {l : LineNo} {x : Proc} {p : Fin 256} (hp : x.page = some p) {y : DecodedLine} (hy : y.index < 4095)
    (h : s.store.append s.cfg.reserve .receive p (x.checker.stored y) (if y.good then .line else .substitute) = none) :
    storeLine l y (s.setProc l x) = closeReception l .storeFull (s.setProc l (x.unstored y.good)) := by
  unfold storeLine
  rw [State.setProc_proc_same]
  dsimp only
  rw [hp]
  dsimp only
  rw [if_neg (by omega), State.setProc_store, State.setProc_cfg, h]
  dsimp only
  rw [State.setProc_twice, ← hp]
  rfl

/-- The context after a byte of page data has reached the decoder. -/
def Proc.fed (x : Proc) (b : Byte) : Proc := { x with checker := { x.checker with decoder := (x.checker.decoder.feed b).1 } }

theorem takeDataByte_none {s : State} {l : LineNo} {b : Byte} (hp : (s.proc l).phase = .receiving)
    (h : ((s.proc l).checker.decoder.feed b).2 = .none) : takeDataByte l b s = s.setProc l ((s.proc l).fed b) := by
  unfold takeDataByte feedByte
  rw [hp]
  dsimp only
  rw [h]
  rfl

theorem takeDataByte_line {s : State} {l : LineNo} {b : Byte} {y : DecodedLine} (hp : (s.proc l).phase = .receiving)
    (h : ((s.proc l).checker.decoder.feed b).2 = .line y) :
    takeDataByte l b s = storeLine l y (s.setProc l ((s.proc l).fed b)) := by
  unfold takeDataByte feedByte
  rw [hp]
  dsimp only
  rw [h]
  rfl

theorem Checker.stored_eq (k : Checker) {y : DecodedLine} {kind : LineKind} (h : y.good = true → y.kind = some kind) :
    k.stored y = if y.good then codedLine kind y.runs else codeLine k.anchor (some y.raster) false y.raster := by
  unfold Checker.stored
  cases hg : y.good with
  | true =>
    rw [h hg]
    rfl
  | false => rfl

theorem Page.appended_line (g : Page) (chain : List Nat) (n : Nat) (good : Bool) :
    g.appended chain n (if good then .line else .substitute) =
      { g with chain := chain, lines := g.lines + 1, length := g.length + n, substituted := g.substituted + (if good then 0 else 1) } := by
  cases good <;> rfl

/-! ### The end of the page data -/

theorem takeDataEnd_mark {s : State} {l : LineNo} {p : Fin 256} (hp : (s.proc l).phase = .receiving) (hpage : (s.proc l).page = some p)
    (hline : (s.proc l).checker.decoder.line = none) {st : Store}
    (h : s.store.append s.cfg.reserve .receive p [pageEndMark] .mark = some st) :
    takeDataEnd l s = ({ s with store := st } : State).setProc l { s.proc l with phase := .waitPageEnd, sup := .enter .message } := by
  have hend : (s.proc l).checker.decoder.endData = ((s.proc l).checker.decoder, .none) := by
    unfold Decoder.endData
    rw [hline]
  have hcut : cutOffLine l s = s := by
    unfold cutOffLine
    dsimp only
    rw [hend]
    exact State.setProc_self s l
  unfold takeDataEnd endReceivedPage
  rw [if_pos hp, hcut]
  dsimp only
  rw [if_pos hp, hpage]
  dsimp only
  rw [h, ← hpage]
  rfl

/-! ### The verdict on a page (R7, R9, R146, R147) -/

theorem takePageEnd_judges {s : State} {l : LineNo} (h : (s.proc l).phase = .waitPageEnd) (k : PageEndKind) :
    messageEffect l (.pageEnd k) s = judgePage l k s := by
  have htake : takePageEnd l k s = judgePage l k s := by
    unfold takePageEnd
    rw [h]
  have heffect (ph : Phase) (hph : (s.proc l).phase = ph) : messageEffect l (.pageEnd k) s = takePageEnd l k s := by
    unfold messageEffect
    cases ph <;> rw [hph]
  exact (heffect _ h).trans htake

theorem sayVerdict_call (l : LineNo) (v : Verdict) (s : State) (x : Proc) (y : Slot) :
    sayVerdict l v (s.call l x y) =
      s.call l { x with lastMessage := some (.verdict v), lastVerdict := some v }
        { y with out := y.out ++ (Message.verdict v).bytes.map .byte ++ [.endMessage] } := by
  unfold sayVerdict
  dsimp only
  rw [say_call, State.call_proc, State.call_setProc]

/-- A mapped page sealed GOOD stays where it is. -/
def Store.sealedPage (st : Store) (p : Fin 256) : Store :=
  { st with pages := Machine.store st.pages p { fetch st.pages p with state := .sealed } }

theorem Store.sealPage_mapped {st : Store} {p : Fin 256} (h : (fetch st.pages p).mapped = true) :
    (st.sealPage p false false).settle p = st.sealedPage p := by
  have hseal : st.sealPage p false false = st.sealedPage p := by
    unfold Store.sealPage Store.sealedPage change
    simp only [Bool.or_false]
  have hmapped : (fetch (st.sealedPage p).pages p).mapped = true := by
    unfold Store.sealedPage
    rw [fetch_store_same]
    exact h
  rw [hseal]
  unfold Store.settle
  dsimp only
  rw [if_neg (by rw [hmapped]; simp)]

/-- The page and the context behind a GOOD verdict on a page that is not the last. -/
theorem judgePage_good {s : State} (hq : s.quiet) {l : LineNo} {p : Fin 256} {x : Proc} (y : Slot) (hp : x.page = some p)
    (hrole : x.role = .caller → x.phase = .idle) (hph : x.phase ≠ .idle) (hbad : x.bad ≤ s.cfg.acceptLimit)
    (hm : (s.page p).mapped = true) {k : PageEndKind} {ph : Phase} {c : TimeoutClass}
    (hk : k = .next ∧ ph = .waitData ∧ c = .data ∨ k = .new ∧ ph = .waitChoice ∧ c = .message) :
    judgePage l k (s.call l x y) =
      ({ s with store := s.store.sealedPage p } : State).call l
        { x with
          phase := ph, slot := x.slot + 1, page := none, pageEnd := some k, delivered := x.delivered + 1, resends := 0, bad := 0,
          lastMessage := some (.verdict .good), lastVerdict := some .good, sup := .enter c }
        { y with out := y.out ++ (Message.verdict .good).bytes.map .byte ++ [.endMessage] } := by
  have hseal : withStore (fun st => (st.sealPage p false false).settle p) s = { s with store := s.store.sealedPage p } := by
    have hst := Store.sealPage_mapped (st := s.store) hm
    refine (withStore_same _ s ?_).trans ?_
    · rw [hst]
      rfl
    · rw [hst]
  have hlast : k ≠ .last := by rcases hk with ⟨rfl, -⟩ | ⟨rfl, -⟩ <;> decide
  have hnews (t : State) (ht : t.quiet) : (match receptionDoc l t with
      | none => t
      | some d => documentNews d (if k = .last then closeReceived d t else t)) = t := by
    cases receptionDoc l t with
    | none => rfl
    | some d =>
      dsimp only
      rw [if_neg hlast]
      exact documentNews_quiet ht d
  have hquiet : ({ s with store := s.store.sealedPage p } : State).quiet := State.quiet_congr (s := s) hq rfl rfl rfl rfl
  unfold judgePage
  rw [State.call_proc]
  dsimp only
  rw [hp]
  dsimp only
  rw [State.call_setProc, State.call_cfg, if_pos hbad]
  unfold judgeGood
  dsimp only
  rw [withStore_call, hseal, sayVerdict_call]
  generalize ({ s with store := s.store.sealedPage p } : State) = u at hquiet
  have hcaller : x.role ≠ .caller := fun h => hph (hrole h)
  unfold afterGood
  rw [State.call_proc]
  rcases hk with ⟨rfl, rfl, rfl⟩ | ⟨rfl, rfl, rfl⟩
  · dsimp only
    rw [State.call_setProc]
    refine hnews _ (State.call_quiet hquiet l ?_ _)
    exact fun h => absurd h hcaller
  · dsimp only
    rw [State.call_setProc]
    refine hnews _ (State.call_quiet hquiet l ?_ _)
    exact fun h => absurd h hcaller

/-! ### The page emptied for its resend (R9, R146) -/

theorem endStall_stalled (c : ChannelNo) (s : State) : ((endStall c s).channel c).stalled = false := by
  unfold endStall
  dsimp only
  by_cases h : (s.channel c).stalled = true
  · rw [if_pos h]
    obtain ⟨limit, hchannel⟩ := grant_setChannel_channel c s
      { s.channel c with stalled := false, sup := if (s.channel c).sheet = .active then .enter .scan else (s.channel c).sup }
    rw [hchannel]
  · rw [if_neg h]
    exact Bool.eq_false_iff.mpr h

/-- The notice of room in the store ends every stall (R2, R58). -/
theorem endStalls_stalled (s : State) (c : ChannelNo) : ((endStalls s).channel c).stalled = false := by
  have key (cs : List ChannelNo) (s : State) (h : c ∈ cs ∨ (s.channel c).stalled = false) :
      ((cs.foldl (fun s c => endStall c s) s).channel c).stalled = false := by
    induction cs generalizing s with
    | nil => exact h.resolve_left List.not_mem_nil
    | cons e cs ih =>
      refine ih _ ?_
      by_cases he : c = e
      · subst he
        exact .inr (endStall_stalled c s)
      · rw [endStall_channel_ne _ he]
        rcases h with h | h
        · exact .inl ((List.mem_cons.mp h).resolve_left he)
        · exact .inr h
  have hall : ∀ e : ChannelNo, e ∈ allChannels := by decide
  exact key allChannels s (.inl (hall c))

theorem withStore_stalled (f : Store → Store) (s : State) (c : ChannelNo) :
    ((withStore f s).channel c).stalled =
      ((s.channel c).stalled && !decide (s.store.freeCount ≤ s.cfg.reserve ∧ s.cfg.reserve < (f s.store).freeCount)) := by
  unfold withStore
  dsimp only
  by_cases h : s.store.freeCount ≤ s.cfg.reserve ∧ s.cfg.reserve < (f s.store).freeCount
  · rw [if_pos h, endStalls_stalled, decide_eq_true h]
    simp
  · rw [if_neg h, decide_eq_false h]
    simp [State.channel]

/-- The state behind a RESEND verdict (R146). -/
theorem judgePage_resend {s : State} {l : LineNo} {p : Fin 256} {x : Proc} (y : Slot) (hp : x.page = some p)
    (hbad : s.cfg.acceptLimit < x.bad) (hresends : x.resends < 2) (k : PageEndKind) :
    judgePage l k (s.call l x y) =
      (withStore (fun st => st.refill p) s).call l
        { x with
          phase := .waitData, pageEnd := some k, resends := x.resends + 1, bad := 0, checker := .start x.settings,
          lastMessage := some (.verdict .resend), lastVerdict := some .resend, sup := .enter .data }
        { y with out := y.out ++ (Message.verdict .resend).bytes.map .byte ++ [.endMessage] } := by
  unfold judgePage
  rw [State.call_proc]
  dsimp only
  rw [hp]
  dsimp only
  rw [State.call_setProc, State.call_cfg, if_neg (by omega), if_pos hresends]
  unfold judgeResend
  dsimp only
  rw [withStore_call, sayVerdict_call, State.call_proc, State.call_setProc]

/-! ### A blank page record stays blank until it is taken (R5, R17) -/

section
variable {st : Store} {p : Fin 256}

theorem Store.settle_blank (h : fetch st.pages p = .blank) (q : Fin 256) : fetch (st.settle q).pages p = .blank := by
  unfold Store.settle
  dsimp only
  split
  · rw [fetch_store, h]
    exact ite_self _
  · exact h

theorem Store.settleAll_blank (h : fetch st.pages p = .blank) (qs : List (Fin 256)) : fetch (st.settleAll qs).pages p = .blank := by
  unfold Store.settleAll
  induction qs generalizing st with
  | nil => exact h
  | cons q qs ih => exact ih (Store.settle_blank h q)

theorem Store.dropClaims_blank (h : fetch st.pages p = .blank) (gone : Claim → Bool) : fetch (st.dropClaims gone).pages p = .blank :=
  Store.settleAll_blank (st := { st with claims := st.claims.filter (fun c => !gone c) }) h _

theorem Store.endUse_blank (h : fetch st.pages p = .blank) (k : Holder) (a b c : Bool) : fetch (st.endUse k a b c).pages p = .blank := by
  unfold Store.endUse
  split
  · exact h
  next e _ => exact Store.settle_blank (st := { st with claims := st.claims.flatMap (fun x =>
      if x = e then (st.claimAfterUse e a b c).toList else [x]) }) h _

theorem Store.freeDocument_blank (h : fetch st.pages p = .blank) (d : Fin 64) : fetch (st.freeDocument d).pages p = .blank := by
  have hunmap (qs : List (Fin 256)) (t : Table Page 256) (ht : fetch t p = .blank) :
      fetch (qs.foldl (fun t p => change t p (fun g => { g with mapped := false, place := none })) t) p = .blank := by
    induction qs generalizing t with
    | nil => exact ht
    | cons q qs ih =>
      refine ih _ ?_
      unfold change
      rw [fetch_store]
      split
      next hpq =>
        rw [← hpq, ht]
        rfl
      next => exact ht
  unfold Store.freeDocument
  split
  · exact h
  next x _ => exact Store.settleAll_blank (st := { st with
      pages := x.slots.foldl (fun t p => change t p (fun g => { g with mapped := false, place := none })) st.pages,
      docs := Machine.store st.docs d none }) (hunmap x.slots st.pages h) _

theorem Store.freeIfDone_blank (h : fetch st.pages p = .blank) (d : Fin 64) : fetch (st.freeIfDone d).pages p = .blank := by
  unfold Store.freeIfDone
  split
  · exact h
  · split
    · exact Store.freeDocument_blank h d
    · exact h

end

section
variable {s : State} {p : Fin 256}

theorem withStore_blank {f : Store → Store} (h : fetch (f s.store).pages p = .blank) : (withStore f s).page p = .blank := by
  unfold State.page
  rw [withStore_store]
  exact h

theorem ite_blank {c : Prop} [Decidable c] {u v : State} (hu : u.page p = .blank) (hv : v.page p = .blank) :
    (if c then u else v).page p = .blank := by
  split <;> assumption

theorem dropJob_blank (h : s.page p = .blank) (d : Fin 64) : (dropJob d s).page p = .blank :=
  withStore_blank (Store.freeIfDone_blank (st := s.store.changeDoc d fun x => { x with jobCount := x.jobCount - 1 }) h d)

theorem releaseDoc_blank (h : s.page p = .blank) (d : Fin 64) : (releaseDoc d s).page p = .blank :=
  withStore_blank (Store.freeIfDone_blank (st := s.store.changeDoc d fun x => { x with released := true }) h d)

theorem createPrint_blank (h : s.page p = .blank) (j : Fin 32) (d : Fin 64) (b : PrintJob) : (createPrint j d b s).page p = .blank := by
  have hclaim (st : Store) (k : Holder) : (st.claimDocument k d).pages = st.pages := by
    unfold Store.claimDocument
    split <;> rfl
  unfold createPrint State.page
  dsimp only
  rw [hclaim]
  exact h

theorem serveOwed_blank (h : s.page p = .blank) : (serveOwed s).page p = .blank := by
  have hat (t : State) (ht : t.page p = .blank) (r : Fin 32) : (serveOwedAt t r).page p = .blank := by
    unfold serveOwedAt
    split
    next d b w j _ _ =>
      split
      · dsimp only
        have hset : (t.setJob r (some ⟨d, .receive { b with owed := false }, w⟩)).page p = .blank := ht
        generalize t.setJob r (some ⟨d, .receive { b with owed := false }, w⟩) = u at hset
        have hprint (c : Prop) [Decidable c] (x : PrintJob) : (if c then u else createPrint j d x u).page p = .blank := by
          split
          · exact hset
          · exact createPrint_blank hset ..
        split
        · exact dropJob_blank (hprint _ _) d
        · exact hprint _ _
      · exact ht
    next => exact ht
  have key (rs : List (Fin 32)) (t : State) (ht : t.page p = .blank) : (rs.foldl serveOwedAt t).page p = .blank := by
    induction rs generalizing t with
    | nil => exact ht
    | cons r rs ih => exact ih _ (hat t ht r)
  exact key _ s h

theorem freeJob_blank (h : s.page p = .blank) (j : Fin 32) : (freeJob j s).page p = .blank := by
  unfold freeJob
  refine serveOwed_blank ?_
  exact h

theorem offerDone_blank (h : s.page p = .blank) (j : Fin 32) : (offerDone j s).page p = .blank := by
  unfold offerDone
  split
  next d body r _ =>
    have hr : (report r s).page p = .blank := h
    split
    · split
      · split
        · unfold becomeOwed
          dsimp only
          split
          · exact freeJob_blank (dropJob_blank hr d) j
          · exact dropJob_blank (createPrint_blank hr ..) d
        · exact freeJob_blank hr j
      · exact freeJob_blank hr j
    · exact h
  next => exact h

theorem finishJob_blank (h : s.page p = .blank) (j : Fin 32) : (finishJob j s).page p = .blank := by
  unfold finishJob
  split
  next d body _ =>
    have hset (x : Option Job) : (s.setJob j x).page p = .blank := h
    dsimp only
    split
    · split
      · exact offerDone_blank (hset _) j
      · exact offerDone_blank (dropJob_blank (hset _) d) j
    · exact offerDone_blank (dropJob_blank (hset _) d) j
  next => exact h

theorem changePrint_blank (h : s.page p = .blank) (j : Fin 32) (f : PrintJob → PrintJob) : (changePrint j f s).page p = .blank := by
  unfold changePrint
  split <;> exact h

theorem decodePrint_blank (h : s.page p = .blank) : (decodePrint s).page p = .blank := by
  have hfinish : (finishPage s).page p = .blank := by
    unfold finishPage endPrintUse
    split
    · exact changePrint_blank (withStore_blank (Store.endUse_blank (p := p) (by exact h) ..)) ..
    · exact h
  unfold decodePrint
  split
  · exact h
  · split
    · exact h
    · exact hfinish
    · exact h

theorem beginPrint_blank (h : s.page p = .blank) (j : Fin 32) (d : Fin 64) (b : PrintJob) (q : Fin 256) :
    (beginPrint j d b q s).page p = .blank := by
  unfold beginPrint
  refine decodePrint_blank (changePrint_blank ?_ _ _)
  exact h

theorem completePrint_blank (h : s.page p = .blank) (j : Fin 32) (d : Fin 64) (b : PrintJob) : (completePrint j d b s).page p = .blank := by
  have hend (t : State) (ht : t.page p = .blank) : (endPrintJob j t).page p = .blank :=
    finishJob_blank (withStore_blank (Store.dropClaims_blank ht _)) j
  unfold completePrint
  split
  · exact hend _ (releaseDoc_blank h d)
  · exact hend _ h

theorem lookAtHead_blank (n : Nat) (h : s.page p = .blank) : (lookAtHead n s).page p = .blank := by
  induction n generalizing s with
  | zero => exact h
  | succ n ih =>
    unfold lookAtHead
    split
    · exact h
    · split
      · exact h
      · split
        · split
          · exact h
          · split
            · exact ite_blank h (ite_blank h (ih (beginPrint_blank h ..)))
            · exact ite_blank h (ite_blank (ih (changePrint_blank h ..)) (ih (completePrint_blank (changePrint_blank h ..) ..)))
        · exact h

theorem printerLook_blank (h : s.page p = .blank) : (printerLook s).page p = .blank := by
  unfold printerLook
  split
  · split
    · exact h
    · split
      · exact h
      · split
        · exact lookAtHead_blank _ (decodePrint_blank h)
        · exact h
  · exact lookAtHead_blank _ h

theorem closeReceived_blank (h : s.page p = .blank) (d : Fin 64) : (closeReceived d s).page p = .blank := by
  unfold closeReceived
  dsimp only
  split
  · split
    · refine releaseDoc_blank ?_ d
      exact h
    · exact h
  · exact h

theorem finishReception_blank (h : s.page p = .blank) (j : Fin 32) (d : Fin 64) (why : Reason) :
    (finishReception j d why s).page p = .blank := by
  unfold finishReception changeReceive
  refine finishJob_blank ?_ j
  split <;> exact h

end

/-! ### The store full (R8, R148) -/

theorem Store.settle_void {st : Store} {p : Fin 256} (hv : (fetch st.pages p).state = .void) (hm : (fetch st.pages p).mapped = false)
    (hc : st.claimCount p = 0) : fetch (st.settle p).pages p = .blank := by
  unfold Store.settle
  dsimp only
  rw [if_pos ⟨.inr hv, hm, hc⟩]
  exact fetch_store_same ..

theorem Store.discard_blank {st : Store} {p : Fin 256} (hu : ∀ k ∈ st.claims, k.page = p → k.inUse = false) :
    fetch (st.discard p).pages p = .blank := by
  have hclaims : ((st.claims.filter (fun c => !decide (c.page = p) || c.inUse)).map
      (fun c => if c.page = p then { c with withdrawn := true } else c)).countP (fun c => decide (c.page = p)) = 0 := by
    refine List.countP_eq_zero.mpr fun c hc => ?_
    obtain ⟨e, he, rfl⟩ := List.mem_map.mp hc
    obtain ⟨hmem, hkept⟩ := List.mem_filter.mp he
    by_cases hp : e.page = p
    · simp [hp, hu e hmem hp] at hkept
    · simp [hp]
  refine Store.settle_void ?_ ?_ hclaims
  · exact congrArg Page.state (fetch_store_same ..)
  · exact congrArg Page.mapped (fetch_store_same ..)

/-- A reception whose page has no claim in use ends with its record FREE, and leaves the lines alone (R8, R149). -/
theorem quitCalled_page {s : State} (hq : s.quiet) {l : LineNo} {p : Fin 256} (hp : (s.proc l).page = some p)
    (hf : (s.page p).state = .filling) (hu : ∀ k ∈ s.store.claims, k.page = p → k.inUse = false) (why : Reason) :
    (quitCalled l why s).page p = .blank ∧ (quitCalled l why s).lines = s.lines ∧
      (quitCalled l why s).proc l = { Proc.idle with endReason := some why } ∧ (quitCalled l why s).slots = s.slots := by
  have hdiscard : discardReceived l s = withStore (fun st => st.discard p) s := by
    unfold discardReceived
    rw [hp]
    exact if_pos hf
  have hblank : (withStore (fun st => st.discard p) s).page p = .blank := withStore_blank (Store.discard_blank hu)
  generalize hw : withStore (fun st => st.discard p) s = w at hdiscard hblank
  have hquiet : w.quiet := State.quiet_congr hq (by rw [← hw]; simp) (by rw [← hw]; simp) (by rw [← hw]; simp) (by rw [← hw]; simp)
  have hlines : w.lines = s.lines := by rw [← hw]; simp
  have hslots : w.slots = s.slots := by rw [← hw]; simp
  have hend : (w.setProc l { Proc.idle with endReason := some why }).page p = .blank := hblank
  have hidle : (w.setProc l { Proc.idle with endReason := some why }).quiet := by
    rw [State.setProc_call]
    exact State.call_quiet hquiet l (fun _ => rfl) _
  generalize hz : w.setProc l { Proc.idle with endReason := some why } = z at hend hidle
  have hzlines : z.lines = s.lines := by rw [← hz]; exact hlines
  have hzslots : z.slots = s.slots := by rw [← hz]; exact hslots
  have hzproc : z.proc l = { Proc.idle with endReason := some why } := by rw [← hz]; exact State.setProc_proc_same ..
  unfold quitCalled
  rw [hdiscard]
  dsimp only
  rw [hz]
  split
  · exact ⟨hend, hzlines, hzproc, hzslots⟩
  next j d _ =>
    have hclosed : (closeReceived d z).quiet := State.quiet_congr hidle (by simp) (by simp) (by simp) (by simp)
    rw [documentNews_quiet hclosed]
    refine ⟨printerLook_blank (finishReception_blank (closeReceived_blank hend d) j d why), ?_, ?_, ?_⟩
    · simp [hzlines]
    · rw [← hzproc]
      unfold State.proc
      simp
    · simp [hzslots]

theorem closeReception_page {s : State} (hq : s.quiet) {l : LineNo} {p : Fin 256} {x : Proc} (hx : x.role = .caller → x.phase = .idle)
    (hp : x.page = some p) (hf : (s.page p).state = .filling) (hu : ∀ k ∈ s.store.claims, k.page = p → k.inUse = false) (y : Slot)
    (why : Reason) {t : State} (ht : closeReception l why (s.call l x y) = t) :
    t.page p = .blank ∧ t.lines = s.lines ∧ t.proc l = { Proc.idle with endReason := some why } ∧
      t.slot l = y.closed ⟨why, 0, []⟩ := by
  obtain ⟨hpage, hlines, hproc, hslots⟩ := quitCalled_page (s := say l (.close (byteOf why.code)) (s.call l x y)) (l := l) (p := p)
    (by rw [say_call]; refine State.call_quiet hq l ?_ _; exact hx) (by rw [say_call, State.call_proc]; exact hp)
    (by rw [say_call]; exact hf) (by rw [say_call]; exact hu) why
  rw [← ht]
  unfold closeReception
  refine ⟨hpage, hlines.trans ?_, hproc, ?_⟩
  · rw [say_call]
    rfl
  · dsimp only
    have hslot (u v : State) (h : u.slots = v.slots) : u.slot l = v.slot l := congrArg (fetch · l) h
    rw [State.setSlot_slot_same, hslot _ _ hslots, say_call, State.call_slot]
    unfold Slot.closed Message.bytes
    simp only [List.append_assoc, List.map_cons, List.map_nil, List.cons_append, List.nil_append]

theorem readMessage_pageEnd {k : Byte} (h : k.toNat ≤ 2) : ∃ kind, readMessage [5, k] = some (.pageEnd kind) := by
  have hk : k = 0 ∨ k = 1 ∨ k = 2 := by bv_omega
  rcases hk with rfl | rfl | rfl <;> exact ⟨_, rfl⟩

/-- Settles O54. -/
theorem receivedPageIsStored : Obligations.ReceivedPageIsStored := by
  intro s l p x g hp hf
  refine ⟨fun b hph hnone => ?_, fun b y kind hph hline hkind hy => ?_, fun hph hnone hroom => ?_, fun hph hq hbad hm => ?_,
    fun k hk hph hq hbad hresends => ?_⟩
  · exact congrArg Host.Outcome.next (takeDataByte_none hph hnone)
  · intro bytes stored
    have hbytes : ((s.proc l).fed b).checker.stored y = bytes := Checker.stored_eq _ hkind
    have key (more free : List Nat) (ht : s.store.takes p bytes.length more free) : stored (g.chain ++ more) free := by
      have happend := Store.append_received (reserve := s.cfg.reserve) hf ht (if y.good then .line else .substitute)
      rw [← hbytes] at happend
      have hrun := (takeDataByte_line hph hline).trans (storeLine_stored (x := (s.proc l).fed b) hp hy happend)
      rw [hbytes] at hrun
      refine ⟨_, congrArg Host.Outcome.next hrun, State.setProc_proc_same .., ?_, fun q hq => Store.extended_page_ne _ _ _ _ _ hq,
        fun k hk hw hn hroom => Store.extended_byte hw _ hn hroom hk, fun k hw hne => Memory.read_writePage_ne _ hw _ _ _ hne,
        rfl, rfl, rfl, rfl, rfl, rfl⟩
      exact (Store.extended_page ..).trans (Page.appended_line ..)
    refine ⟨fun hfits => ?_, fun n rest hlack hfree => key [n] rest (.inr ⟨Nat.not_le.mpr hlack, n, rfl, hfree⟩),
      fun hq hlack hfree hunused => ?_⟩
    · have h := key [] _ (.inl ⟨hfits, rfl, rfl⟩)
      rwa [List.append_nil] at h
    · have hgrant : s.store.grantsBlock s.cfg.reserve .receive = false := by
        refine decide_eq_false ?_
        rw [Store.freeCount, hfree]
        exact Nat.lt_irrefl 0
      have happend := Store.append_refused (kind := if y.good then .line else .substitute) hlack hgrant
      rw [← hbytes] at happend
      have hrun := (takeDataByte_line hph hline).trans (storeLine_refused (x := (s.proc l).fed b) hp hy happend)
      rw [State.setProc_call] at hrun
      obtain ⟨hpage, hlines, hproc, hslot⟩ := closeReception_page hq (l := l) (p := p) (x := ((s.proc l).fed b).unstored y.good) (hq.2 l).2
        hp hf hunused (s.slot l) .storeFull rfl
      exact ⟨_, congrArg Host.Outcome.next hrun, hproc, hslot, hpage, hlines⟩
  · have happend := Store.append_received (reserve := s.cfg.reserve) (bytes := [pageEndMark]) hf (.inl ⟨hroom, rfl, rfl⟩) .mark
    refine ⟨_, congrArg Host.Outcome.next (takeDataEnd_mark hph hp hnone happend), State.setProc_proc_same .., ?_,
      fun q hq => Store.extended_page_ne _ _ _ _ _ hq, fun hw => ?_, rfl, rfl, rfl⟩
    · refine (Store.extended_page ..).trans ?_
      rw [List.append_nil]
      rfl
    · exact Store.extended_mark hw p [] s.store.freeList pageEndMark .mark
  · intro judged
    have key (code : Byte) (kind : PageEndKind) (phase : Phase) (c : TimeoutClass) (hread : readMessage [5, code] = some (.pageEnd kind))
        (hk : kind = .next ∧ phase = .waitData ∧ c = .data ∨ kind = .new ∧ phase = .waitChoice ∧ c = .message) :
        judged code kind phase c := by
      have hidle : (s.proc l).phase ≠ .idle := by rw [show (s.proc l).phase = .waitPageEnd from hph]; decide
      have htake : takeMessage l [5, code] s = _ := takeMessage_taken hread hidle
      rw [takePageEnd_judges (by rw [State.call_proc]; exact hph), judgePage_good hq (s.slot l)
        (x := { s.proc l with sup := (s.proc l).sup.progress .message }) hp (hq.2 l).2 hidle hbad hm hk] at htake
      refine ⟨_, congrArg Host.Outcome.next (htake.trans (printerLook_noPrinting (State.noPrinting_congr hq.1 rfl rfl))),
        fetch_store_same .., fun q hq => fetch_store_ne _ _ hq, State.call_proc .., ?_, rfl, rfl, rfl, rfl⟩
      rw [State.call_slot, List.append_assoc]
      rfl
    exact ⟨key 0 .next .waitData .data rfl (.inl ⟨rfl, rfl, rfl⟩), key 1 .new .waitChoice .message rfl (.inr ⟨rfl, rfl, rfl⟩)⟩
  · obtain ⟨kind, hread⟩ := readMessage_pageEnd hk
    have hidle : (s.proc l).phase ≠ .idle := by rw [show (s.proc l).phase = .waitPageEnd from hph]; decide
    have htake : takeMessage l [5, k] s = _ := takeMessage_taken hread hidle
    rw [takePageEnd_judges (by rw [State.call_proc]; exact hph), judgePage_resend (s.slot l)
      (x := { s.proc l with sup := (s.proc l).sup.progress .message }) hp hbad hresends kind] at htake
    have hstore : (withStore (fun st => st.refill p) s).store = s.store.refill p := withStore_store _ s
    have hstalled := withStore_stalled (fun st => st.refill p) s
    have hframe := withStore_frame (fun st => st.refill p) s
    obtain ⟨-, -, hjobs, -, hlines, -, -, -, -, hprinter, -⟩ := hframe
    generalize withStore (fun st => st.refill p) s = u at htake hstore hstalled hjobs hlines hprinter
    have hquiet := State.noPrinting_congr (t := u) hq hprinter (congrArg JobTable.slots hjobs)
    have hpages (q : Fin 256) : u.page q = fetch (s.store.refill p).pages q := congrArg (fun st : Store => fetch st.pages q) hstore
    refine ⟨_, congrArg Host.Outcome.next (htake.trans (printerLook_noPrinting (State.call_noPrinting _ _ _ _ hquiet))),
      (hpages p).trans (fetch_store_same ..), fun q hqp => (hpages q).trans (fetch_store_ne _ _ hqp), congrArg Store.freeList hstore,
      fun c => (hstalled c).trans ?_, ?_⟩
    · have hcount : (s.store.refill p).freeCount = s.store.freeList.length + g.chain.length := List.length_append
      rw [hcount]
      rfl
    · rw [State.call_proc, State.call_slot, List.append_assoc]
      exact ⟨rfl, rfl, rfl, hp, rfl, rfl, rfl, rfl, rfl, (congrArg Store.claims hstore :), (congrArg Store.docs hstore :),
        (congrArg Store.mem hstore :), hlines, hjobs⟩

end Sys2Proof.Machine
end

section
/-! PROOFS. The verdicts (O55): what becomes of the claim in use, the page counted, and what the caller does next. -/

namespace Sys2Proof.Machine

/-! ### The end of a use of a mapped SEALED page (R13, R15, R16) -/

/-- The claims after the end of a use that drops the claim, or keeps it. -/
def endedClaims (claims : List Claim) (c : Claim) (dropped : Bool) : List Claim :=
  if dropped then claims.filter (fun k => decide (k ≠ c)) else claims.map (fun k => if k = c then { c with inUse := false } else k)

section
variable {st : Store} {c : Claim}

theorem Store.usedClaim_only (hu : c.inUse = true) (hc : c ∈ st.claims)
    (honly : ∀ k ∈ st.claims, k.holder = c.holder → k.inUse = true → k = c) : st.usedClaim c.holder = some c := by
  unfold Store.usedClaim
  cases hf : st.claims.find? (fun k => decide (k.holder = c.holder) && k.inUse) with
  | none =>
    have := List.find?_eq_none.mp hf c hc
    simp [hu] at this
  | some k =>
    have hk := List.find?_some hf
    simp only [Bool.and_eq_true, decide_eq_true_eq] at hk
    rw [honly k (List.mem_of_find?_eq_some hf) hk.1 hk.2]

theorem Store.endUse_only (hu : c.inUse = true) (hw : c.withdrawn = false) (hc : c ∈ st.claims)
    (honly : ∀ k ∈ st.claims, k.holder = c.holder → k.inUse = true → k = c) (hs : (fetch st.pages c.page).state = .sealed)
    (hm : (fetch st.pages c.page).mapped = true) (success drops : Bool) :
    st.endUse c.holder success drops false = { st with claims := endedClaims st.claims c (success && drops) } := by
  have hafter : st.claimAfterUse c success drops false = if (success && drops) = true then none else some { c with inUse := false } := by
    unfold Store.claimAfterUse
    rw [hw, hs]
    rfl
  have hmap : st.claims.flatMap (fun x => if x = c then (st.claimAfterUse c success drops false).toList else [x]) =
      endedClaims st.claims c (success && drops) := by
    rw [hafter]
    unfold endedClaims
    split
    · induction st.claims with
      | nil => rfl
      | cons k ks ih =>
        rw [List.flatMap_cons, ih, List.filter_cons]
        by_cases hk : k = c <;> simp [hk]
    · induction st.claims with
      | nil => rfl
      | cons k ks ih =>
        rw [List.flatMap_cons, ih, List.map_cons]
        by_cases hk : k = c <;> simp [hk]
  unfold Store.endUse
  rw [Store.usedClaim_only hu hc honly]
  dsimp only
  rw [hmap]
  unfold Store.settle
  dsimp only
  rw [if_neg (by rw [hm]; simp)]

/-- After it no claim of the holder is in use. -/
theorem Store.usedClaim_ended (honly : ∀ k ∈ st.claims, k.holder = c.holder → k.inUse = true → k = c) (dropped : Bool) :
    Store.usedClaim { st with claims := endedClaims st.claims c dropped } c.holder = none := by
  refine List.find?_eq_none.mpr fun k hk hp => ?_
  simp only [Bool.and_eq_true, decide_eq_true_eq] at hp
  obtain ⟨hh, hi⟩ := hp
  unfold endedClaims at hk
  dsimp only at hk
  split at hk
  · obtain ⟨hmem, hne⟩ := List.mem_filter.mp hk
    exact of_decide_eq_true hne (honly k hmem hh hi)
  · obtain ⟨e, he, rfl⟩ := List.mem_map.mp hk
    by_cases hec : e = c
    · rw [if_pos hec] at hi
      cases hi
    · rw [if_neg hec] at hi hh
      exact hec (honly e he hh hi)

end

/-! ### A call that waits for its verdict -/

/-- The state with the claims replaced. -/
def State.claiming (s : State) (ks : List Claim) : State := { s with store := { s.store with claims := ks } }

/-- A line waits for the verdict on page `p`, whose claim is its destination's one claim in use. -/
structure Awaits (s : State) (l : LineNo) (a : Admission) (doc : Fin 64) (b : SendJob) (x : Dest) (p : Fin 256) : Prop where
  admission : (s.line l).admission = some a
  job : s.job a.job = some ⟨doc, .send b, none⟩
  dest : b.dests[a.dest]? = some x
  onLine : x.state = .onLine
  claim : (⟨.dest a.job a.dest, doc, (s.proc l).slot, p, true, false⟩ : Claim) ∈ s.store.claims
  only : ∀ k ∈ s.store.claims, k.holder = .dest a.job a.dest → k.inUse = true →
    k = ⟨.dest a.job a.dest, doc, (s.proc l).slot, p, true, false⟩
  isSealed : (s.page p).state = .sealed
  mapped : (s.page p).mapped = true

section
variable {s : State} {l : LineNo} {a : Admission} {doc : Fin 64} {b : SendJob} {x : Dest} {p : Fin 256}

theorem Awaits.endSendUse (h : Awaits s l a doc b x p) (success : Bool) :
    endSendUse a success s = s.claiming (endedClaims s.store.claims ⟨.dest a.job a.dest, doc, (s.proc l).slot, p, true, false⟩
      (success && decide (b.policy = .resume))) := by
  have hgone : destGone a.job a.dest s = false := by
    unfold destGone
    rw [State.dest_some h.job, h.dest]
    dsimp only
    rw [h.onLine]
    rfl
  have huse (drops : Bool) := Store.endUse_only (st := s.store) rfl rfl h.claim h.only h.isSealed h.mapped success drops
  unfold Machine.endSendUse
  rw [State.sendJob_some h.job, hgone]
  dsimp only at huse ⊢
  refine (withStore_same _ s ?_).trans ?_
  · rw [huse]
  · rw [huse]
    rfl

/-- The state behind a GOOD verdict: the claim, and the next page index of the destination. -/
def State.pageCounted (s : State) (a : Admission) (doc : Fin 64) (b : SendJob) (x : Dest) (ks : List Claim) : State :=
  (s.claiming ks).setJob a.job (some ⟨doc, .send { b with dests := b.dests.set a.dest { x with next := x.next + 1 } }, none⟩)

/-- The context behind a GOOD verdict, and behind a RESEND. -/
def Proc.counted (y : Proc) : Proc :=
  { y with delivered := y.delivered + 1, slot := y.slot + 1, page := none, sends := 0, recoder := .idle, sup := .off }

def Proc.resent (y : Proc) : Proc := { y with sends := y.sends + 1, recoder := .idle, sup := .off }

theorem Awaits.goodVerdict (h : Awaits s l a doc b x p) (y : Proc) (z : Slot) :
    goodVerdict l a (s.call l y z) =
      (s.pageCounted a doc b x (endedClaims s.store.claims ⟨.dest a.job a.dest, doc, (s.proc l).slot, p, true, false⟩
        (decide (b.policy = .resume)))).call l y.counted z := by
  have hold : s.store.deliveredOld (.dest a.job a.dest) = false := by
    have hused := Store.usedClaim_only (st := s.store) rfl h.claim h.only
    dsimp only at hused
    have hseal : (fetch s.store.pages p).state = .sealed := h.isSealed
    unfold Store.deliveredOld
    rw [hused]
    dsimp only
    rw [hseal]
    rfl
  have hgone : destGone a.job a.dest (s.call l y z) = false := by
    unfold destGone
    rw [State.call_dest, State.dest_some h.job, h.dest]
    dsimp only
    rw [h.onLine]
    rfl
  have hchange (ks : List Claim) (f : Dest → Dest) : changeDest a.job a.dest f ((s.claiming ks).call l y z) =
      ((s.claiming ks).setJob a.job (some ⟨doc, .send { b with dests := b.dests.set a.dest (f x) }, none⟩)).call l y z :=
    changeDest_set (s := (s.claiming ks).call l y z) h.job h.dest f
  unfold Machine.goodVerdict
  dsimp only
  rw [hgone, State.call_store, hold, endSendUse_call, h.endSendUse, if_neg Bool.false_ne_true, hchange]
  rw [State.call_proc, State.call_setProc]
  simp only [Bool.or_false, Bool.true_and]
  rfl

/-- A state in which, of what the verdict reads, only claims and the job's destination have changed. -/
structure Follows (s u : State) (a : Admission) (doc : Fin 64) (ks : List Claim) : Prop where
  store : u.store = { s.store with claims := ks }
  lines : u.lines = s.lines
  meters : u.meters = s.meters
  accounts : u.accounts = s.accounts
  charges : u.charges = s.charges
  link : u.link = s.link
  cfg : u.cfg = s.cfg
  noPrinting : u.noPrinting
  job : ∃ job, u.job a.job = some job ∧ job.doc = doc

theorem Awaits.follows_claiming (h : Awaits s l a doc b x p) (hq : s.noPrinting) (ks : List Claim) : Follows s (s.claiming ks) a doc ks :=
  ⟨rfl, rfl, rfl, rfl, rfl, rfl, rfl, State.noPrinting_congr hq rfl rfl, ⟨_, h.job, rfl⟩⟩

theorem Awaits.follows_pageCounted (h : Awaits s l a doc b x p) (hq : s.noPrinting) (ks : List Claim) :
    Follows s (s.pageCounted a doc b x ks) a doc ks :=
  ⟨rfl, rfl, rfl, rfl, rfl, rfl, rfl,
    State.noPrinting_of (s := s) hq rfl fun i => .inl (setJob_printJob (s := s.claiming ks) h.job i),
    ⟨_, fetch_store_same .., rfl⟩⟩

theorem Awaits.dest_pageCounted (h : Awaits s l a doc b x p) (ks : List Claim) :
    (s.pageCounted a doc b x ks).dest a.job a.dest = some { x with next := x.next + 1 } := by
  have hlt : a.dest < b.dests.length := (List.getElem?_eq_some_iff.mp h.dest).1
  have hjob : (s.pageCounted a doc b x ks).job a.job = _ := fetch_store_same ..
  rw [State.dest_some hjob, List.getElem?_set_self hlt]

variable {u : State} {ks : List Claim}

theorem Follows.line (h : Follows s u a doc ks) (k : LineNo) : u.line k = s.line k := congrArg (fetch · k) h.lines
theorem Follows.account (h : Follows s u a doc ks) (n : Fin 64) : u.account n = s.account n := congrArg (fetch · n) h.accounts
theorem Follows.page (h : Follows s u a doc ks) (q : Fin 256) : u.page q = s.page q :=
  (congrArg (fun st : Store => fetch st.pages q) h.store :)
theorem Follows.document (h : Follows s u a doc ks) (d : Fin 64) : u.doc d = s.doc d :=
  (congrArg (fun st : Store => fetch st.docs d) h.store :)
theorem Follows.slotPage (h : Follows s u a doc ks) (d : Fin 64) (k : Nat) : u.store.slotPage d k = s.store.slotPage d k := by
  rw [h.store]
  rfl

theorem Follows.closeCall (h : Follows s u a doc ks) (ha : (s.line l).admission = some a)
    (hu : u.store.usedClaim (.dest a.job a.dest) = none) (why : Reason) (y : Proc) (z : Slot) :
    closeCall l why (u.call l y z) = u.call l { Proc.idle with endReason := some why } (z.closed (y.request why)) := by
  rw [closeCall_call (by rw [h.line]; exact ha), endSendUse_unused hu]

theorem Follows.cutFound (h : Follows s u a doc ks) (ha : (s.line l).admission = some a) (y : Proc) (z : Slot) :
    cutFound l (u.call l y z) = (s.account a.account).cuts := by
  unfold Machine.cutFound
  rw [State.call_line, h.line, ha]
  exact congrArg Account.cuts (h.account _)

theorem Follows.cursorPage (h : Follows s u a doc ks) (ha : (s.line l).admission = some a) {dd : Document} (hd : s.doc doc = some dd)
    {y : Proc} {q : Fin 256} (hp : dd.slots[y.slot]? = some q) (z : Slot) : cursorPage l (u.call l y z) = some q := by
  obtain ⟨job, hj, hdoc⟩ := h.job
  have hslot : s.store.slotPage doc y.slot = some q := by
    unfold Store.slotPage
    rw [show fetch s.store.docs doc = some dd from hd]
    exact hp
  simp only [Machine.cursorPage, callDoc, State.call_line, h.line, ha, State.call_job, hj, Option.map_some, hdoc, State.call_store,
    h.slotPage, State.call_proc, hslot]

theorem sameSettings_iff {y : Proc} {ab : Abilities} (hr : y.remote = some ab) (g : Page) :
    sameSettings y g = true ↔ y.settings.width = g.width ∧ y.settings.resolution = sentResolution ab g.resolution := by
  unfold sameSettings
  rw [hr]
  exact decide_eq_true_iff

theorem beginUnasked_call {y : Proc} {ab : Abilities} (hr : y.remote = some ab) (q : Fin 256) (z : Slot) :
    beginUnasked l q (s.call l y z) = beginPage l (s.call l { y with recoder := .chosen ab (s.page q) } z) := by
  unfold Machine.beginUnasked
  rw [State.call_proc]
  dsimp only
  rw [hr]
  dsimp only
  rw [State.call_setProc, State.call_page, ← hr]

/-- The page begun at once under the settings in force. -/
theorem Follows.beginUnasked (h : Follows s u a doc ks) (ha : (s.line l).admission = some a) {dd : Document} (hd : s.doc doc = some dd)
    {y : Proc} {q : Fin 256} (hp : dd.slots[y.slot]? = some q) {ab : Abilities} (hr : y.remote = some ab) (z : Slot) :
    beginUnasked l q (u.call l y z) =
      ({ u with store := u.store.useClaim (.dest a.job a.dest) y.slot } : State).call l
        (({ y with recoder := .chosen ab (s.page q) } : Proc).sending (u.store.useClaim (.dest a.job a.dest) y.slot) s.cfg.anchorInterval q
          (s.page q))
        { z with command := .sendData, rate := y.settings.rate } := by
  obtain ⟨job, hj, hdoc⟩ := h.job
  have hslot : u.store.slotPage job.doc y.slot = some q := by
    rw [hdoc, h.slotPage]
    unfold Store.slotPage
    rw [show fetch s.store.docs doc = some dd from hd]
    exact hp
  rw [beginUnasked_call hr, beginPage_call (x := { y with recoder := .chosen ab (u.page q) }) (by rw [h.line]; exact ha) hj hslot, h.page, h.cfg]

/-- The next page after a GOOD verdict where it is SEALED (R137). -/
theorem Follows.nextPage (h : Follows s u a doc ks) (ha : (s.line l).admission = some a) {dd : Document} (hd : s.doc doc = some dd)
    {y : Proc} {q : Fin 256} (hp : dd.slots[y.slot]? = some q) (hs : (s.page q).state = .sealed) (k : PageEndKind) (z : Slot) :
    nextPage l k (u.call l y z) =
      if k = .next ∧ sameSettings y (s.page q) = true then Machine.beginUnasked l q (u.call l y z) else sendChoice l q (u.call l y z) := by
  obtain ⟨job, hj, hdoc⟩ := h.job
  have hsend : sendable dd (s.page q) = true := by
    unfold sendable
    rw [hs]
  have hcall : (callDoc a (u.call l y z)).bind (u.call l y z).doc = some dd := by
    unfold callDoc
    rw [State.call_job, hj, Option.map_some, hdoc, Option.bind_some, State.call_doc, h.document, hd]
  unfold Machine.nextPage
  rw [h.cursorPage ha hd hp, State.call_line, h.line, ha]
  dsimp only
  rw [hcall]
  dsimp only
  rw [State.call_page, h.page, if_pos hsend, State.call_proc]

/-- The page sent again after a RESEND (R138). -/
theorem Follows.sendAgain (h : Follows s u a doc ks) (ha : (s.line l).admission = some a) {dd : Document} (hd : s.doc doc = some dd)
    {y : Proc} {q : Fin 256} (hp : dd.slots[y.slot]? = some q) (z : Slot) :
    sendAgain l (u.call l y z) =
      if 1 < y.settings.rate then
        sendChoice l q (u.call l { y with settings := { y.settings with rate := y.settings.rate - 1 } } z)
      else if sameSettings y (s.page q) = true then Machine.beginUnasked l q (u.call l y z) else sendChoice l q (u.call l y z) := by
  unfold Machine.sendAgain
  rw [h.cursorPage ha hd hp, State.call_proc]
  dsimp only
  rw [State.call_page, h.page, State.call_setProc]

/-- VERDICT GOOD (R137). -/
theorem Awaits.takeGood (h : Awaits s l a doc b x p) {y : Proc} {k : PageEndKind} (hk : y.pageEnd = some k) (z : Slot)
    (hks : endedClaims s.store.claims ⟨.dest a.job a.dest, doc, (s.proc l).slot, p, true, false⟩ (decide (b.policy = .resume)) = ks)
    (hu : s.pageCounted a doc b x ks = u) :
    takeGood l (s.call l y z) = printerLook
      (if k = .last then Machine.closeCall l .delivered (u.call l y.counted z)
       else if Machine.cutFound l (u.call l y.counted z) = true then Machine.closeCall l .cutCredit (u.call l y.counted z)
       else Machine.nextPage l k (u.call l y.counted z)) := by
  unfold Machine.takeGood
  rw [State.call_line, h.admission]
  dsimp only
  rw [h.goodVerdict, hks, hu, State.call_proc, hk, Option.getD_some]

/-- VERDICT RESEND (R138). -/
theorem Awaits.takeResend (h : Awaits s l a doc b x p) (y : Proc) (z : Slot)
    (hks : endedClaims s.store.claims ⟨.dest a.job a.dest, doc, (s.proc l).slot, p, true, false⟩ false = ks) :
    takeResend l (s.call l y z) =
      if s.cfg.resendLimit < y.sends then Machine.closeCall l .pageRefused ((s.claiming ks).call l y.resent z)
      else if Machine.cutFound l ((s.claiming ks).call l y.resent z) = true then
        Machine.closeCall l .cutCredit ((s.claiming ks).call l y.resent z)
      else Machine.sendAgain l ((s.claiming ks).call l y.resent z) := by
  have hlimit : (1 + s.cfg.resendLimit < y.sends + 1) = (s.cfg.resendLimit < y.sends) := propext (by omega)
  unfold Machine.takeResend
  rw [State.call_line, h.admission]
  dsimp only
  rw [endSendUse_call, h.endSendUse, Bool.false_and, hks, State.call_proc, State.call_setProc, State.call_cfg]
  show (if 1 + s.cfg.resendLimit < y.sends + 1 then _ else _) = _
  rw [if_congr (Iff.of_eq hlimit) rfl rfl]
  rfl

/-- CHOICE and TRIAL for the page at the cursor, at the rate in force. -/
theorem Follows.sendChoice (h : Follows s u a doc ks) {y : Proc} {q : Fin 256} {ab : Abilities} (hr : y.remote = some ab)
    (hw : (s.page q).width ≤ ab.maxWidth) (hrate : y.settings.rate ≠ 0) (z : Slot) :
    sendChoice l q (u.call l y z) =
      u.call l (y.choosing y.settings.rate ab q (s.page q) s.cfg.stationName)
        (z.choosing (.forPage y.settings.rate ab (s.page q)) s.cfg.stationName) := by
  rw [sendChoice_call (rate := y.settings.rate) hr (by rw [h.page]; exact hw) (if_neg hrate), h.page, h.cfg]

theorem Follows.printerLook (h : Follows s u a doc ks) (y : Proc) (z : Slot) : printerLook (u.call l y z) = u.call l y z :=
  printerLook_noPrinting (State.call_noPrinting _ _ _ _ h.noPrinting)

theorem Follows.printerLook_began (h : Follows s u a doc ks) (st : Store) (y : Proc) (z : Slot) :
    Machine.printerLook (({ u with store := st } : State).call l y z) = ({ u with store := st } : State).call l y z :=
  printerLook_noPrinting (State.noPrinting_congr h.noPrinting rfl rfl)

theorem Follows.began_store (h : Follows s u a doc ks) (slot : Nat) :
    u.store.useClaim (.dest a.job a.dest) slot = { s.store with claims := ks.map (fun k =>
      if k.holder = .dest a.job a.dest ∧ k.slot = slot ∧ k.withdrawn = false then { k with inUse := true } else k) } := by
  rw [h.store, Store.useClaim_claims]

end

/-- The recoder of a page begun at once. -/
theorem Proc.sending_chosen (y : Proc) (ab : Abilities) (g : Page) (st : Store) (i : Nat) (q : Fin 256) :
    (({ y with recoder := .chosen ab g } : Proc).sending st i q g).recoder.active = true ∧
      (({ y with recoder := .chosen ab g } : Proc).sending st i q g).recoder.page = q ∧
      (({ y with recoder := .chosen ab g } : Proc).sending st i q g).recoder.mode =
        (if g.resolution = .fine ∧ ab.fine = false then .halve else if ab.delta = false then .plainOnly else .pass) ∧
      (({ y with recoder := .chosen ab g } : Proc).sending st i q g).recoder.delta = ab.delta := by
  obtain ⟨hactive, hpage, hmode, hdelta⟩ := Recoder.prepare_keeps st y.settings i 2 ((Recoder.chosen ab g).begin q g)
  exact ⟨hactive, hpage, hmode.trans (congrArg Recoder.mode (Recoder.chosen_eq ab g)), hdelta.trans (congrArg Recoder.delta (Recoder.chosen_eq ab g))⟩

theorem messageEffect_good {s : State} {l : LineNo} (h : (s.proc l).phase = .waitVerdict) :
    messageEffect l (.verdict .good) s = takeGood l s := by
  unfold messageEffect
  rw [h]

theorem messageEffect_resend {s : State} {l : LineNo} (h : (s.proc l).phase = .waitVerdict) :
    messageEffect l (.verdict .resend) s = takeResend l s := by
  unfold messageEffect
  rw [h]

/-- Settles O55. -/
theorem verdictsAreTaken : Obligations.VerdictsAreTaken := by
  intro s l a doc b x p hq y c name closed unused used began rest cut hph ha hj hx hon hc honly hs hm
  have h : Awaits s l a doc b x p := ⟨ha, hj, hx, hon, hc, honly, hs, hm⟩
  have hidle : (s.proc l).phase ≠ .idle := by rw [show (s.proc l).phase = .waitVerdict from hph]; decide
  have hused : endedClaims s.store.claims c (decide (b.policy = .resume)) = used :=
    if_congr decide_eq_true_iff rfl rfl
  have hunused : endedClaims s.store.claims c false = unused := rfl
  have hnone (dropped : Bool) := Store.usedClaim_ended (st := s.store) (c := c) honly dropped
  have hcuts : (s.account a.account).cuts = true ↔ cut := by
    unfold Account.cuts
    rw [Bool.and_eq_true, decide_eq_true_eq]
  have hrest {u : State} {ks : List Claim} (hu : Follows s u a doc ks) (pr : Proc) (sl : Slot) : rest (u.call l pr sl) :=
    ⟨hu.lines, hu.meters, hu.accounts, hu.charges, hu.link⟩
  have hgood : takeMessage l [6, 0] s = _ := takeMessage_taken (m := .verdict .good) rfl hidle
  have hresend : takeMessage l [6, 1] s = _ := takeMessage_taken (m := .verdict .resend) rfl hidle
  rw [messageEffect_good (by rw [State.call_proc]; exact hph)] at hgood
  rw [messageEffect_resend (by rw [State.call_proc]; exact hph), h.takeResend _ _ hunused] at hresend
  have hG := h.follows_pageCounted hq used
  have hU := h.follows_claiming hq unused
  have hdest := h.dest_pageCounted used
  have hGnone : (s.pageCounted a doc b x used).store.usedClaim (.dest a.job a.dest) = none := by
    rw [hG.store, ← hused]
    exact hnone _
  have hUnone : (s.claiming unused).store.usedClaim (.dest a.job a.dest) = none := by
    rw [hU.store, ← hunused]
    exact hnone _
  have hUjobs : (s.claiming unused).jobs = s.jobs := rfl
  have htake (k : PageEndKind) (hk : (s.proc l).pageEnd = some k) := hgood.trans (congrArg printerLook
    (h.takeGood (y := { s.proc l with sup := (s.proc l).sup.progress .message }) hk (s.slot l) hused rfl))
  obtain ⟨Y, hY⟩ : ∃ Y, Proc.counted { s.proc l with sup := (s.proc l).sup.progress .message } = Y := ⟨_, rfl⟩
  obtain ⟨R, hR⟩ : ∃ R, Proc.resent { s.proc l with sup := (s.proc l).sup.progress .message } = R := ⟨_, rfl⟩
  have hYset : Y.settings = (s.proc l).settings ∧ Y.remote = (s.proc l).remote ∧ Y.slot = (s.proc l).slot + 1 ∧ Y.sends = 0 ∧
      Y.delivered = (s.proc l).delivered + 1 := by
    rw [← hY]
    exact ⟨rfl, rfl, rfl, rfl, rfl⟩
  have hRset : R.settings = (s.proc l).settings ∧ R.remote = (s.proc l).remote ∧ R.slot = (s.proc l).slot ∧
      R.sends = (s.proc l).sends + 1 ∧ R.delivered = (s.proc l).delivered := by
    rw [← hR]
    exact ⟨rfl, rfl, rfl, rfl, rfl⟩
  rw [hY] at htake
  rw [hR] at hresend
  generalize s.pageCounted a doc b x used = G at hG hdest hGnone htake
  generalize s.claiming unused = U at hU hresend hUjobs hUnone
  obtain ⟨hYset, hYrem, hYslot, hYsends, hYdel⟩ := hYset
  obtain ⟨hRset, hRrem, hRslot, hRsends, hRdel⟩ := hRset
  have hrequest (pr : Proc) (n : Nat) (hn : pr.delivered = n) (hrem : pr.remote = (s.proc l).remote) (why : Reason) :
      pr.request why = ⟨why, n, name⟩ := by
    subst hn
    exact Proc.request_congr (x := pr) (y := { s.proc l with delivered := pr.delivered }) rfl hrem why
  refine ⟨fun hk => ?_, fun hk hcut => ?_, fun hs => ?_, fun hs hcut => ?_, fun ab dd q hr hd hcut => ?_⟩
  · have hrun := htake _ hk
    rw [if_pos rfl, hG.closeCall ha hGnone, hG.printerLook, hG.printerLook, hrequest Y _ hYdel hYrem] at hrun
    exact ⟨_, congrArg Host.Outcome.next hrun, ⟨State.call_proc .., State.call_slot ..⟩, hdest, hG.store, hrest hG _ _⟩
  · have key (k : PageEndKind) (hlast : k ≠ .last) (hk : (s.proc l).pageEnd = some k) :
        takeMessage l [6, 0] s = G.call l { Proc.idle with endReason := some .cutCredit }
          ((s.slot l).closed ⟨.cutCredit, (s.proc l).delivered + 1, name⟩) := by
      have hrun := htake k hk
      rwa [if_neg hlast, if_pos (by rw [hG.cutFound ha]; exact hcuts.mpr hcut), hG.closeCall ha hGnone, hG.printerLook, hG.printerLook,
        hrequest Y _ hYdel hYrem] at hrun
    have hrun := hk.elim (key .next (by decide)) (key .new (by decide))
    exact ⟨_, congrArg Host.Outcome.next hrun, ⟨State.call_proc .., State.call_slot ..⟩, hdest, hG.store, hrest hG _ _⟩
  · rw [if_pos hs, hU.closeCall ha hUnone, hU.printerLook, hrequest R _ hRdel hRrem] at hresend
    exact ⟨_, congrArg Host.Outcome.next hresend, ⟨State.call_proc .., State.call_slot ..⟩, hUjobs, hU.store, hrest hU _ _⟩
  · rw [if_neg (Nat.not_lt.mpr hs), if_pos (by rw [hU.cutFound ha]; exact hcuts.mpr hcut), hU.closeCall ha hUnone, hU.printerLook,
      hrequest R _ hRdel hRrem] at hresend
    exact ⟨_, congrArg Host.Outcome.next hresend, ⟨State.call_proc .., State.call_slot ..⟩, hUjobs, hU.store, hrest hU _ _⟩
  · intro g sent same mode sends asks
    have hcutFound {u : State} {ks : List Claim} (hu : Follows s u a doc ks) (pr : Proc) :
        ¬cutFound l (u.call l pr (s.slot l)) = true := by
      rw [hu.cutFound ha]
      exact fun hc => hcut (hcuts.mp hc)
    have hsame {pr : Proc} (hset : pr.settings = (s.proc l).settings) (hrem : pr.remote = (s.proc l).remote) :
        sameSettings pr (s.page q) = true ↔ same := by
      rw [sameSettings_iff (hrem.trans hr), hset]
      rfl
    have hsends {u : State} {ks : List Claim} (hu : Follows s u a doc ks) (pr : Proc) (hset : pr.settings = (s.proc l).settings) {slot : Nat}
        (hslot : pr.slot = slot) :
        sends (({ u with store := u.store.useClaim (.dest a.job a.dest) pr.slot } : State).call l
          (({ pr with recoder := .chosen ab (s.page q) } : Proc).sending (u.store.useClaim (.dest a.job a.dest) pr.slot) s.cfg.anchorInterval q
            (s.page q)) { s.slot l with command := .sendData, rate := pr.settings.rate }) slot ks := by
      obtain ⟨hactive, hpage, hmode, hdelta⟩ := Proc.sending_chosen pr ab (s.page q) (u.store.useClaim (.dest a.job a.dest) pr.slot)
        s.cfg.anchorInterval q
      subst hslot
      dsimp only [sends]
      rw [State.call_proc, State.call_slot]
      exact ⟨rfl, rfl, rfl, hset, hactive, hpage, hmode, hdelta, by rw [hset], hu.began_store pr.slot, hu.lines, hu.meters, hu.accounts,
        hu.charges, hu.link⟩
    have hasks {u : State} {ks : List Claim} (hu : Follows s u a doc ks) (pr : Proc) {slot rate : Nat} (hslot : pr.slot = slot)
        (hrate : pr.settings.rate = rate) :
        asks (u.call l (pr.choosing pr.settings.rate ab q (s.page q) s.cfg.stationName)
          ((s.slot l).choosing (.forPage pr.settings.rate ab (s.page q)) s.cfg.stationName)) slot rate ks := by
      subst hslot hrate
      dsimp only [asks]
      rw [State.call_proc, State.call_slot]
      exact ⟨rfl, rfl, rfl, rfl, Recoder.chosen_eq ab (s.page q), rfl, rfl, hu.store, hrest hu _ _⟩
    refine ⟨fun hslot hsealed => ?_, fun hslot hlimit => ?_⟩
    · rw [show y.slot + 1 = Y.slot from hYslot.symm] at hslot
      refine ⟨fun hk hs => ?_, fun hk hw hrate => ?_⟩
      · have hrun := htake _ hk
        rw [if_neg (by decide), if_neg (hcutFound hG _), hG.nextPage ha hd hslot hsealed, if_pos ⟨rfl, (hsame hYset hYrem).mpr hs⟩,
          hG.beginUnasked ha hd hslot (hYrem.trans hr), hG.printerLook_began, hG.printerLook_began] at hrun
        exact ⟨_, congrArg Host.Outcome.next hrun, hsends hG Y hYset hYslot,
          (congrArg Proc.sends (State.call_proc ..)).trans (congrArg (max 1) hYsends), (congrArg Proc.delivered (State.call_proc ..)).trans hYdel,
          hdest⟩
      · have key (k : PageEndKind) (hlast : k ≠ .last) (hk : (s.proc l).pageEnd = some k) (hs : ¬(k = .next ∧ same)) :
            ∃ t, exec (.verdictGood l []) s = .next t ∧ asks t (y.slot + 1) y.settings.rate used ∧ (t.proc l).sends = 0 ∧
              (t.proc l).delivered = y.delivered + 1 ∧ t.dest a.job a.dest = some { x with next := x.next + 1 } := by
          have hrun := htake k hk
          rw [if_neg hlast, if_neg (hcutFound hG _), hG.nextPage ha hd hslot hsealed,
            if_neg (fun hc => hs ⟨hc.1, (hsame hYset hYrem).mp hc.2⟩), hG.sendChoice (hYrem.trans hr) hw (by rw [hYset]; exact hrate),
            hG.printerLook, hG.printerLook] at hrun
          exact ⟨_, congrArg Host.Outcome.next hrun, hasks hG Y hYslot (congrArg Settings.rate hYset),
            (congrArg Proc.sends (State.call_proc ..)).trans hYsends, (congrArg Proc.delivered (State.call_proc ..)).trans hYdel, hdest⟩
        rcases hk with hk | ⟨hk, hs⟩
        · exact key .new (by decide) hk (fun hc => absurd hc.1 (by decide))
        · exact key .next (by decide) hk (fun hc => hs hc.2)
    · rw [show y.slot = R.slot from hRslot.symm] at hslot
      rw [if_neg (Nat.not_lt.mpr hlimit), if_neg (hcutFound hU _), hU.sendAgain ha hd hslot] at hresend
      refine ⟨fun hrate hw => ?_, fun hrate hs => ?_, fun hrate hs hw => ?_⟩
      · have hlower : 1 < R.settings.rate := by rw [hRset]; exact hrate
        rw [if_pos hlower, hU.sendChoice (y := { R with settings := { R.settings with rate := R.settings.rate - 1 } }) (hRrem.trans hr) hw
          (Nat.sub_ne_zero_of_lt hlower), hU.printerLook] at hresend
        exact ⟨_, congrArg Host.Outcome.next hresend,
          hasks hU { R with settings := { R.settings with rate := R.settings.rate - 1 } } hRslot (congrArg (fun c : Settings => c.rate - 1) hRset),
          (congrArg Proc.sends (State.call_proc ..)).trans hRsends, (congrArg Proc.delivered (State.call_proc ..)).trans hRdel, hUjobs⟩
      all_goals
        have hlowest : R.settings.rate = 1 := by rw [hRset]; exact hrate
        rw [if_neg (Nat.not_lt.mpr (Nat.le_of_eq hlowest))] at hresend
      · rw [if_pos ((hsame hRset hRrem).mpr hs), hU.beginUnasked ha hd hslot (hRrem.trans hr), hU.printerLook_began] at hresend
        exact ⟨_, congrArg Host.Outcome.next hresend, hsends hU R hRset hRslot,
          (congrArg Proc.sends (State.call_proc ..)).trans ((congrArg (max 1) hRsends).trans (Nat.max_eq_right (Nat.le_add_left 1 _))),
          (congrArg Proc.delivered (State.call_proc ..)).trans hRdel, hUjobs⟩
      · rw [if_neg (fun hc => hs ((hsame hRset hRrem).mp hc)), hU.sendChoice (hRrem.trans hr) hw (fun hz => by rw [hlowest] at hz; cases hz),
          hU.printerLook] at hresend
        exact ⟨_, congrArg Host.Outcome.next hresend, hasks hU R hRslot hlowest,
          (congrArg Proc.sends (State.call_proc ..)).trans hRsends, (congrArg Proc.delivered (State.call_proc ..)).trans hRdel, hUjobs⟩

end Sys2Proof.Machine
end

section
/-! PROOFS. How calls end (O56): what the end of one line's call leaves of the others, and the release of a line. -/

namespace Sys2Proof.Machine

/-! ### What one line's call leaves of another line -/

/-- A line's context, its procedure context and its module slot. -/
def State.lineParts (s : State) (l : LineNo) : Line × Proc × Slot := (s.line l, s.proc l, s.slot l)

section
variable {s t : State} {k l : LineNo}

theorem State.lineParts_congr (hl : t.lines = s.lines) (hp : t.procs = s.procs) (hs : t.slots = s.slots) (l : LineNo) :
    t.lineParts l = s.lineParts l := by
  unfold State.lineParts State.line State.proc State.slot
  rw [hl, hp, hs]

theorem printerLook_lineParts (s : State) (l : LineNo) : (printerLook s).lineParts l = s.lineParts l :=
  State.lineParts_congr (by simp) (by simp) (by simp) l

theorem finishIfFinal_lineParts (j : Fin 32) (s : State) (l : LineNo) : (finishIfFinal j s).lineParts l = s.lineParts l :=
  State.lineParts_congr (by simp) (by simp) (by simp) l

variable (h : l ≠ k)
include h

theorem setProc_lineParts (x : Proc) : (s.setProc k x).lineParts l = s.lineParts l := by
  unfold State.lineParts
  rw [State.setProc_proc_ne _ _ _ _ h]
  rfl

theorem setSlot_lineParts (y : Slot) : (s.setSlot k y).lineParts l = s.lineParts l := by
  unfold State.lineParts
  rw [State.setSlot_slot_ne _ _ _ _ h]
  rfl

theorem say_lineParts (m : Message) : (say k m s).lineParts l = s.lineParts l :=
  (setProc_lineParts h _).trans (setSlot_lineParts h _)

theorem sayChoice_lineParts : (sayChoice k s).lineParts l = s.lineParts l := (setSlot_lineParts h _).trans (say_lineParts h _)

theorem quitCaller_lineParts (why : Reason) : (quitCaller k why s).lineParts l = s.lineParts l := by
  unfold quitCaller
  refine (setProc_lineParts h _).trans ?_
  split
  · exact State.lineParts_congr (by simp) (by simp) (by simp) l
  · rfl

theorem closeCall_lineParts (why : Reason) : (closeCall k why s).lineParts l = s.lineParts l :=
  (setSlot_lineParts h _).trans ((quitCaller_lineParts h why).trans (say_lineParts h _))

theorem releaseLine_lineParts (why : Reason) (n : Nat) (name : Name) : (releaseLine k why n name s).lineParts l = s.lineParts l := by
  have hcontext : (releaseContext k why n name s).lineParts l = s.lineParts l := by
    have hbase (x : Line) (y : Slot) : ((s.setLine k x).setSlot k y).lineParts l = s.lineParts l := by
      refine (setSlot_lineParts h y).trans ?_
      unfold State.lineParts
      rw [State.setLine_line_ne _ _ _ _ h]
      rfl
    unfold releaseContext
    dsimp only
    split
    · exact hbase _ _
    · exact (State.lineParts_congr (by simp) (by simp) (by simp) l).trans (hbase ((s.line k).released why s.cfg.guardTime) (s.slot k).resting)
  unfold releaseLine
  dsimp only
  split
  · split
    · exact hcontext
    · refine Eq.trans ?_ hcontext
      exact State.lineParts_congr (by simp) (by simp) (by simp) l
  · rfl

theorem dropCall_lineParts (why : Reason) : (dropCall k why s).lineParts l = s.lineParts l := by
  unfold dropCall release
  exact (printerLook_lineParts _ l).trans ((releaseLine_lineParts h ..).trans (quitCaller_lineParts h why))

theorem sendChoice_lineParts (p : Fin 256) : (sendChoice k p s).lineParts l = s.lineParts l := by
  unfold sendChoice
  dsimp only
  split
  · rfl
  · split
    · exact closeCall_lineParts h _
    · exact (sayChoice_lineParts h).trans (setProc_lineParts h _)

theorem closedEmpty_lineParts : (closedEmpty k s).lineParts l = s.lineParts l := by
  unfold closedEmpty
  split
  · rfl
  next a _ =>
    have hcancel : (if tied k a s then cancelDest a.job a.dest .cancelled .cancelled s else s).lineParts l = s.lineParts l := by
      split
      · exact State.lineParts_congr (by simp) (by simp) (by simp) l
      · rfl
    dsimp only
    generalize (if tied k a s then cancelDest a.job a.dest .cancelled .cancelled s else s) = u at hcancel ⊢
    refine (finishIfFinal_lineParts _ _ l).trans (Eq.trans ?_ hcancel)
    split
    · rfl
    · split
      · exact closeCall_lineParts h _
      · exact dropCall_lineParts h _

theorem lookFirst_lineParts : (lookFirst k s).lineParts l = s.lineParts l := by
  have hwait : (if (s.proc k).phase = .waitFirst then s else enter k .waitFirst .page s).lineParts l = s.lineParts l := by
    split
    · rfl
    · exact setProc_lineParts h _
  unfold lookFirst
  dsimp only
  split
  · rfl
  · split
    · rfl
    · split
      · rfl
      · split
        · split
          · exact sendChoice_lineParts h _
          · exact hwait
        · split
          · exact hwait
          · split
            · exact closedEmpty_lineParts h
            · exact closeCall_lineParts h _

theorem pageEndChoice_lineParts : (pageEndChoice k s).lineParts l = s.lineParts l := by
  unfold pageEndChoice
  dsimp only
  split
  · split
    · rfl
    · split
      · rfl
      · split
        · exact (setProc_lineParts h _).trans (say_lineParts h _)
        · split
          · rfl
          · exact setProc_lineParts h _
  · rfl

theorem callerNews_lineParts (d : Fin 64) : (callerNews d s k).lineParts l = s.lineParts l := by
  unfold callerNews
  split
  · rfl
  · split
    · split
      · exact closedEmpty_lineParts h
      · split
        · exact lookFirst_lineParts h
        · unfold followPage
          split
          · exact setProc_lineParts h _
          · rfl
        · exact pageEndChoice_lineParts h
        · split
          · exact setProc_lineParts h _
          · rfl
        · rfl
    · rfl

end

/-- A line without an outgoing call is left as it is by the news of a document. -/
theorem documentNews_lineParts {s : State} {l : LineNo} (ha : (s.line l).admission = none) (d : Fin 64) :
    (documentNews d s).lineParts l = s.lineParts l := by
  have key (ks : List LineNo) (t : State) (ht : t.lineParts l = s.lineParts l) : (ks.foldl (callerNews d) t).lineParts l = s.lineParts l := by
    induction ks generalizing t with
    | nil => exact ht
    | cons k ks ih =>
      refine ih _ ?_
      by_cases hk : l = k
      · subst hk
        have hline : t.line l = s.line l := congrArg Prod.fst ht
        rw [callerNews_none d (by rw [hline]; exact ha)]
        exact ht
      · exact (callerNews_lineParts hk d).trans ht
  unfold documentNews
  exact (printerLook_lineParts _ l).trans (key _ s rfl)

/-- The end of a reception leaves its line and slot, and its context IDLE (R149). -/
theorem quitCalled_lineParts {s : State} {l : LineNo} (ha : (s.line l).admission = none) (why : Reason) :
    (quitCalled l why s).lineParts l = (s.line l, { Proc.idle with endReason := some why }, s.slot l) := by
  have hdiscard : (discardReceived l s).lineParts l = s.lineParts l := State.lineParts_congr (by simp) (by simp) (by simp) l
  have hend : ((discardReceived l s).setProc l { Proc.idle with endReason := some why }).lineParts l =
      (s.line l, { Proc.idle with endReason := some why }, s.slot l) := by
    have hline : (discardReceived l s).line l = s.line l := congrArg Prod.fst hdiscard
    have hslot : (discardReceived l s).slot l = s.slot l := congrArg (fun x => x.2.2) hdiscard
    unfold State.lineParts
    rw [State.setProc_proc_same, State.setProc_line, State.setProc_slot, hline, hslot]
  generalize hu : (discardReceived l s).setProc l { Proc.idle with endReason := some why } = u at hend
  unfold quitCalled
  dsimp only
  rw [hu]
  split
  · exact hend
  next j d _ =>
    have hclosed : (closeReceived d u).lineParts l = u.lineParts l := State.lineParts_congr (by simp) (by simp) (by simp) l
    have hline : (closeReceived d u).line l = s.line l := congrArg Prod.fst (hclosed.trans hend)
    have hfinish (t : State) : (finishReception j d why t).lineParts l = t.lineParts l :=
      State.lineParts_congr (by simp) (by simp) (by simp) l
    exact (printerLook_lineParts _ l).trans ((hfinish _).trans
      ((documentNews_lineParts (by rw [hline]; exact ha) d).trans (hclosed.trans hend)))

/-! ### A line released (R119, R187, R199) -/

/-- The charges behind a release of an answered call (R199). -/
theorem releaseContext_charges {s : State} {l : LineNo} {a : Admission} (ha : (s.line l).admission = some a) (why : Reason) (n : Nat)
    (name : Name) :
    (releaseContext l why n name s).charges.filled =
      s.charges.filled ++ (if (s.line l).answered then [chargeRecord l a (s.meter l) why n name] else []) := by
  unfold releaseContext settleCharge
  dsimp only
  rw [ha]
  cases hans : (s.line l).answered with
  | true =>
    simp only [lowerCounts, chargeAnswered, fillCharge, if_true]
    split <;> rfl
  | false =>
    rw [if_neg Bool.false_ne_true, List.append_nil]
    rfl

/-- The tables that what follows a release at the Job Table and the printer leaves alone. -/
def State.sameTables (s t : State) : Prop :=
  t.lines = s.lines ∧ t.procs = s.procs ∧ t.slots = s.slots ∧ t.clock = s.clock ∧ t.cfg = s.cfg ∧ t.accounts = s.accounts ∧
    t.routes.active = s.routes.active ∧ t.charges = s.charges ∧ t.meters = s.meters

theorem State.sameTables.trans {s t u : State} (h : s.sameTables t) (h' : t.sameTables u) : s.sameTables u := by
  obtain ⟨h1, h2, h3, h4, h5, h6, h7, h8, h9⟩ := h
  obtain ⟨k1, k2, k3, k4, k5, k6, k7, k8, k9⟩ := h'
  exact ⟨k1.trans h1, k2.trans h2, k3.trans h3, k4.trans h4, k5.trans h5, k6.trans h6, k7.trans h7, k8.trans h8, k9.trans h9⟩

theorem printerLook_sameTables (s : State) : s.sameTables (printerLook s) := by
  simp [State.sameTables]

/-- A release changes, but for what the Job Table and the printer do, what its context's part changes. -/
theorem release_sameTables {s : State} {l : LineNo} (hc : (s.line l).state = .connected) (r : ReleaseRequest) :
    (releaseContext l r.reason r.delivered r.name s).sameTables (release l r s) := by
  have hr : (s.line l).releasable = true := by
    unfold Line.releasable
    rw [hc]
  unfold release releaseLine
  refine State.sameTables.trans ?_ (printerLook_sameTables _)
  dsimp only
  rw [if_pos hr]
  split
  · simp [State.sameTables]
  · simp [State.sameTables, trigger_routes]

/-- The tables that a caller's end of procedure leaves alone (R140). -/
theorem quitCaller_sameTables (l : LineNo) (why : Reason) (s : State) :
    (quitCaller l why s).lines = s.lines ∧ (quitCaller l why s).slots = s.slots ∧ (quitCaller l why s).clock = s.clock ∧
      (quitCaller l why s).cfg = s.cfg ∧ (quitCaller l why s).accounts = s.accounts ∧
      (quitCaller l why s).routes = s.routes ∧ (quitCaller l why s).charges = s.charges ∧ (quitCaller l why s).meters = s.meters ∧
      (quitCaller l why s).proc l = { Proc.idle with endReason := some why } := by
  have hproc : (quitCaller l why s).proc l = { Proc.idle with endReason := some why } := by
    unfold quitCaller
    exact State.setProc_proc_same ..
  refine ⟨?_, ?_, ?_, ?_, ?_, ?_, ?_, ?_, hproc⟩ <;> simp

/-- A caller's CLOSE, whatever its line holds (R140). -/
theorem closeCall_parts (l : LineNo) (why : Reason) (s : State) :
    (closeCall l why s).lineParts l =
      (s.line l, { Proc.idle with endReason := some why }, (s.slot l).closed ((s.proc l).request why)) := by
  obtain ⟨hlines, hslots, -, -, -, -, -, -, hproc⟩ := quitCaller_sameTables l why (say l (.close (byteOf why.code)) s)
  have hline : (quitCaller l why (say l (.close (byteOf why.code)) s)).line l = s.line l := by
    refine (congrArg (fetch · l) hlines).trans ?_
    rw [say_eq]
    rfl
  have hslot : (quitCaller l why (say l (.close (byteOf why.code)) s)).slot l =
      { s.slot l with out := (s.slot l).out ++ [.byte 8, .byte (byteOf why.code), .endMessage] } := by
    refine (congrArg (fetch · l) hslots).trans ?_
    rw [say_eq]
    refine (State.call_slot ..).trans ?_
    rw [List.append_assoc]
    rfl
  unfold closeCall State.lineParts
  dsimp only
  rw [State.setSlot_line, State.setSlot_proc, State.setSlot_slot_same, hline, hproc, hslot]
  rfl

theorem closeReception_parts {s : State} {l : LineNo} (ha : (s.line l).admission = none) (why : Reason) :
    (closeReception l why s).lineParts l =
      (s.line l, { Proc.idle with endReason := some why }, (s.slot l).closed ⟨why, 0, []⟩) := by
  have hquit := quitCalled_lineParts (s := say l (.close (byteOf why.code)) s) (l := l) (by rw [say_eq]; exact ha) why
  have hslot : (say l (.close (byteOf why.code)) s).slot l =
      { s.slot l with out := (s.slot l).out ++ [.byte 8, .byte (byteOf why.code), .endMessage] } := by
    rw [say_eq]
    refine (State.call_slot ..).trans ?_
    rw [List.append_assoc]
    rfl
  have hline : (say l (.close (byteOf why.code)) s).line l = s.line l := by
    rw [say_eq]
    rfl
  rw [hslot, hline] at hquit
  unfold State.lineParts at hquit
  obtain ⟨hl, hquit⟩ := Prod.mk.inj hquit
  obtain ⟨hp, hs⟩ := Prod.mk.inj hquit
  unfold closeReception State.lineParts
  dsimp only
  rw [State.setSlot_line, State.setSlot_proc, State.setSlot_slot_same, hl, hp, hs]
  rfl

theorem releaseContext_slot (l : LineNo) (why : Reason) (n : Nat) (name : Name) (s : State) :
    (releaseContext l why n name s).slot l = (s.slot l).resting := by
  unfold releaseContext
  dsimp only
  split
  · exact State.setSlot_slot_same ..
  · refine (congrArg (fetch · l) ?_).trans (State.setSlot_slot_same (s.setLine l ((s.line l).released why s.cfg.guardTime)) l (s.slot l).resting)
    simp

theorem messageEffect_close (l : LineNo) (why : Byte) (s : State) : messageEffect l (.close why) s = takeClose l s := by
  unfold messageEffect
  cases (s.proc l).phase <;> rfl

theorem takeClose_caller {s : State} {l : LineNo} (h : (s.proc l).role = .caller) : takeClose l s = dropCall l .remoteClose s := by
  unfold takeClose
  dsimp only
  rw [h]

theorem takeClose_called {s : State} {l : LineNo} (h : (s.proc l).role = .called) :
    takeClose l s = dropReception l
      (if (s.proc l).lastVerdict = some .good ∧ (s.proc l).pageEnd = some .last then .delivered else .remoteClose) s := by
  unfold takeClose
  dsimp only
  rw [h]

theorem lineTimeout_held {c : TimeoutClass} {l : LineNo} {s : State} (h : (s.proc l).sup.cls = some c) :
    lineTimeout c l s = printerLook (timedOutLine l c s) := if_pos h

/-- Settles O56. -/
theorem callsEnd : Obligations.CallsEnd := by
  intro s l hc x name released closing
  have hreleased (u t : State) (r : ReleaseRequest) (hline : u.line l = s.line l) (hclock : u.clock = s.clock) (hcfg : u.cfg = s.cfg)
      (hrest : ∀ a, (s.line l).admission = some a →
        u.accounts = s.accounts ∧ u.routes = s.routes ∧ u.charges = s.charges ∧ u.meters = s.meters)
      (ht : (release l r u).sameTables t) : released t r.reason r.delivered r.name := by
    obtain ⟨hlines, -, hslots, hclock', hcfg', haccounts, hactive, hcharges, hmeters⟩ :=
      (release_sameTables (by rw [hline]; exact hc) r).trans ht
    have hslot : t.slot l = (u.slot l).resting := (congrArg (fetch · l) hslots).trans (releaseContext_slot ..)
    refine ⟨?_, ?_, ?_, ?_, ?_, ?_, fun a ha => ?_⟩
    · refine (congrArg (fetch · l) hlines).trans ((releaseContext_line l l ..).trans ?_)
      rw [if_pos rfl, hline, hcfg]
      rfl
    · rw [hslot]
      rfl
    · rw [hslot]
      rfl
    · rw [hslot]
      rfl
    · rw [hclock', ← hclock]
      simp
    · rw [hcfg', ← hcfg]
      simp
    · obtain ⟨huaccounts, huroutes, hucharges, humeters⟩ := hrest a ha
      have hua : (u.line l).admission = some a := by rw [hline]; exact ha
      obtain ⟨hm, hacc, hact, hres, -⟩ := releaseContext_of_some u l (why := r.reason) (n := r.delivered) (name := r.name) hua
      have hfilled := releaseContext_charges hua r.reason r.delivered r.name
      have hmeter : u.meter l = s.meter l := congrArg (fetch · l) humeters
      have haccount : u.account a.account = s.account a.account := congrArg (fetch · a.account) huaccounts
      rw [hline, hmeter, humeters] at hm
      rw [hline, hmeter, hucharges] at hfilled
      rw [haccount, huaccounts] at hacc
      rw [hucharges] at hres
      rw [huroutes] at hact
      refine ⟨?_, ?_, ?_, fun hans => ⟨?_, ?_⟩, fun hans => ⟨?_, ?_⟩⟩
      · exact (congrArg (fun z => (fetch z a.account).active) (haccounts.trans hacc)).trans (congrArg Account.active (fetch_store_same ..))
      · exact (congrArg (fetch · a.entry) (hactive.trans hact)).trans (fetch_store_same ..)
      · rw [hcharges, hres]
      · rw [if_pos hans] at hm
        exact (congrArg (fetch · l) (hmeters.trans hm)).trans (fetch_store_same ..)
      · rw [hcharges, hfilled, if_pos hans]
        rfl
      · rw [hmeters, hm, if_neg (by rw [hans]; decide)]
      · rw [hcharges, hfilled, if_neg (by rw [hans]; decide), List.append_nil]
  have hlook (t : State) : t.sameTables (printerLook t) := printerLook_sameTables t
  have hdrop (why : Reason) (y : Proc) (hd : y.delivered = x.delivered) (hr : y.remote = x.remote) {t : State}
      (ht : (dropCall l why (s.call l y (s.slot l))).sameTables t) :
      released t why x.delivered name ∧ t.proc l = { Proc.idle with endReason := some why } := by
    have hrequest : callerRequest l why (s.call l y (s.slot l)) = ⟨why, x.delivered, name⟩ := by
      change ((s.call l y (s.slot l)).proc l).request why = x.request why
      rw [State.call_proc]
      exact Proc.request_congr hd hr why
    obtain ⟨hlines, -, hclock, hcfg, haccounts, hroutes, hcharges, hmeters, hproc⟩ := quitCaller_sameTables l why (s.call l y (s.slot l))
    unfold dropCall at ht
    rw [hrequest] at ht
    have hprocs : t.procs = (quitCaller l why (s.call l y (s.slot l))).procs := ht.2.1.trans (by simp)
    exact ⟨hreleased _ t ⟨why, x.delivered, name⟩ (congrArg (fetch · l) hlines) hclock hcfg
      (fun a _ => ⟨haccounts, hroutes, hcharges, hmeters⟩) ht, (congrArg (fetch · l) hprocs).trans hproc⟩
  have hquit (why : Reason) (y : Proc) (ha : (s.line l).admission = none) {t : State}
      (ht : (dropReception l why (s.call l y (s.slot l))).sameTables t) :
      released t why 0 [] ∧ t.proc l = { Proc.idle with endReason := some why } := by
    have hparts := quitCalled_lineParts (s := s.call l y (s.slot l)) (l := l) ha why
    obtain ⟨hline, hparts⟩ := Prod.mk.inj hparts
    obtain ⟨hproc, -⟩ := Prod.mk.inj hparts
    unfold dropReception at ht
    have hprocs : t.procs = (quitCalled l why (s.call l y (s.slot l))).procs := ht.2.1.trans (by simp)
    obtain ⟨-, hcfg, -, -, hclock, -⟩ := quitCalled_frame l why (s.call l y (s.slot l))
    refine ⟨hreleased _ t ⟨why, 0, []⟩ hline hclock hcfg (fun a h => ?_) ht, (congrArg (fetch · l) hprocs).trans hproc⟩
    rw [ha] at h
    cases h
  have hclosing (t : State) (r : ReleaseRequest) (hr : r.reason = .timeout)
      (h : t.lineParts l = (s.line l, { Proc.idle with endReason := some .timeout }, (s.slot l).closed r)) : closing (printerLook t) r := by
    obtain ⟨hline, hparts⟩ := Prod.mk.inj ((printerLook_lineParts t l).trans h)
    obtain ⟨hproc, hslot⟩ := Prod.mk.inj hparts
    refine ⟨hproc, hline, hslot.trans ?_⟩
    unfold Slot.closed
    rw [hr]
    rfl
  have hcloseCall {t : State} (ht : t = closeCall l .timeout (s.call l { s.proc l with sup := .off } (s.slot l))) :
      closing (printerLook t) ⟨.timeout, x.delivered, name⟩ := by
    subst ht
    refine hclosing _ _ rfl ((closeCall_parts ..).trans ?_)
    rw [State.call_proc, State.call_slot]
    rfl
  have hcloseReception {t : State} (ha : (s.line l).admission = none)
      (ht : t = closeReception l .timeout (s.call l { s.proc l with sup := .off } (s.slot l))) :
      closing (printerLook t) ⟨.timeout, 0, []⟩ := by
    subst ht
    refine hclosing _ _ rfl ((closeReception_parts (s := s.call l _ _) ha _).trans ?_)
    rw [State.call_slot]
    rfl
  have hoff : s.setProc l { s.proc l with sup := .off } = s.call l { s.proc l with sup := .off } (s.slot l) := State.setProc_call ..
  refine ⟨fun r hr => ?_, fun why hph hrole => ?_, fun why hph hrole ha => ?_, fun hcls => ?_, fun hcls hrole => ?_,
    fun hcls hrole ha => ⟨fun hph => ?_, fun hph => ?_⟩, fun hcls => ?_, fun hcls ha => ?_⟩
  · refine ⟨release l r s, ?_, hreleased s _ r rfl rfl rfl (fun _ _ => ⟨rfl, rfl, rfl, rfl⟩) ⟨rfl, rfl, rfl, rfl, rfl, rfl, rfl, rfl, rfl⟩,
      by simp⟩
    refine congrArg Host.Outcome.next ?_
    unfold closeHanded
    rw [hr]
  · have htake : takeMessage l [8, why] s = _ := takeMessage_taken (m := .close why) rfl hph
    rw [messageEffect_close, takeClose_caller (by rw [State.call_proc]; exact hrole)] at htake
    exact ⟨_, congrArg Host.Outcome.next htake, hdrop .remoteClose { s.proc l with sup := (s.proc l).sup.progress .message } rfl rfl (hlook _)⟩
  · intro how
    have htake : takeMessage l [8, why] s =
        printerLook (dropReception l how (s.call l { s.proc l with sup := (s.proc l).sup.progress .message } (s.slot l))) := by
      refine (takeMessage_taken (m := .close why) rfl hph).trans ?_
      rw [messageEffect_close, takeClose_called (by rw [State.call_proc]; exact hrole), State.call_proc]
    exact ⟨_, congrArg Host.Outcome.next htake, hquit how { s.proc l with sup := (s.proc l).sup.progress .message } ha (hlook _)⟩
  · refine ⟨_, congrArg Host.Outcome.next (lineTimeout_held hcls), hdrop .noAnswer { s.proc l with sup := .off } rfl rfl ?_⟩
    rw [← hoff]
    exact hlook _
  · refine ⟨_, congrArg Host.Outcome.next (lineTimeout_held hcls), hcloseCall ?_⟩
    rw [← hoff]
    unfold timedOutLine
    dsimp only
    rw [show (s.proc l).role = .caller from hrole]
  · refine ⟨_, congrArg Host.Outcome.next (lineTimeout_held hcls), hcloseReception ha ?_⟩
    rw [← hoff]
    unfold timedOutLine
    dsimp only
    rw [show (s.proc l).role = .called from hrole]
    exact if_neg hph
  · refine ⟨_, congrArg Host.Outcome.next (lineTimeout_held hcls), hquit .delivered { s.proc l with sup := .off } ha ?_⟩
    rw [← hoff]
    unfold timedOutLine
    dsimp only
    rw [show (s.proc l).role = .called from hrole]
    dsimp only
    rw [if_pos hph]
    exact hlook _
  · refine ⟨_, congrArg Host.Outcome.next (lineTimeout_held hcls), hcloseCall ?_⟩
    rw [← hoff]
    rfl
  · refine ⟨_, congrArg Host.Outcome.next (lineTimeout_held hcls), hcloseReception ha ?_⟩
    rw [← hoff]
    rfl

end Sys2Proof.Machine
end

section
/-! PROOFS. Messages that are not read (R127, R215) and the ticks of the timeout classes (R150 to R152): O57. -/

namespace Sys2Proof.Machine

/-! ### The bytes behind what a reader read -/

theorem readByte_inv {bs rest : List Byte} {b : Byte} (h : readByte.run bs = some (b, rest)) : bs = b :: rest := by
  cases bs with
  | nil => cases h
  | cons c cs =>
    obtain ⟨rfl, rfl⟩ : c = b ∧ cs = rest := by simpa [readByte, StateT.run] using h
    rfl

theorem Reader.bind_inv {α β : Type} {r : Reader α} {f : α → Reader β} {bs rest : List Byte} {b : β}
    (h : (r >>= f).run bs = some (b, rest)) : ∃ a mid, r.run bs = some (a, mid) ∧ (f a).run mid = some (b, rest) := by
  rw [Reader.run_bind, Option.bind_eq_some_iff] at h
  obtain ⟨⟨a, mid⟩, ha, hb⟩ := h
  exact ⟨a, mid, ha, hb⟩

theorem readUint_one_inv {bs rest : List Byte} {n : Nat} (h : (readUint 1).run bs = some (n, rest)) :
    ∃ b : Byte, bs = b :: rest ∧ n = b.toNat := by
  obtain ⟨b, mid, hb, h⟩ := Reader.bind_inv h
  obtain ⟨rfl, rfl⟩ : 256 * 0 + b.toNat = n ∧ mid = rest := by simpa using Option.some.inj h
  exact ⟨b, readByte_inv hb, by omega⟩

theorem readUint_two_inv {bs rest : List Byte} {n : Nat} (h : (readUint 2).run bs = some (n, rest)) :
    ∃ a b : Byte, bs = a :: b :: rest := by
  obtain ⟨a, mid, ha, h⟩ := Reader.bind_inv h
  obtain ⟨b, mid', hb, h⟩ := Reader.bind_inv h
  obtain ⟨-, rfl⟩ : _ ∧ mid' = rest := by simpa using Option.some.inj h
  exact ⟨a, b, by rw [readByte_inv ha, readByte_inv hb]⟩

theorem readFlag_inv {bs rest : List Byte} {f : Bool} (h : readFlag.run bs = some (f, rest)) :
    ∃ b : Byte, bs = b :: rest ∧ b.toNat ≤ 1 := by
  obtain ⟨b, mid, hb, h⟩ := Reader.bind_inv h
  by_cases h0 : b = 0
  · obtain ⟨-, rfl⟩ : _ ∧ mid = rest := by simpa [h0] using h
    exact ⟨b, readByte_inv hb, by simp [h0]⟩
  · rw [if_neg h0] at h
    by_cases h1 : b = 1
    · obtain ⟨-, rfl⟩ : _ ∧ mid = rest := by simpa [h1] using h
      exact ⟨b, readByte_inv hb, by simp [h1]⟩
    · rw [if_neg h1] at h
      cases h

theorem readTimes_readByte_inv {n : Nat} {bs rest name : List Byte} (h : (readTimes readByte n).run bs = some (name, rest)) :
    bs = name ++ rest ∧ name.length = n := by
  induction n generalizing bs name with
  | zero =>
    obtain ⟨rfl, rfl⟩ : [] = name ∧ bs = rest := by simpa using Option.some.inj h
    exact ⟨rfl, rfl⟩
  | succ n ih =>
    obtain ⟨b, mid, hb, h⟩ := Reader.bind_inv h
    obtain ⟨tail, mid', ht, h⟩ := Reader.bind_inv h
    obtain ⟨rfl, rfl⟩ : b :: tail = name ∧ mid' = rest := by simpa using Option.some.inj h
    obtain ⟨rfl, hn⟩ := ih ht
    exact ⟨by rw [readByte_inv hb]; rfl, by rw [List.length_cons, hn]⟩

theorem readName_inv {bs rest : List Byte} {m : Name} (h : readName.run bs = some (m, rest)) :
    ∃ (n : Byte) (name : List Byte), bs = n :: (name ++ rest) ∧ name.length = n.toNat ∧ n.toNat ≤ 20 := by
  obtain ⟨name, mid, hname, h⟩ := Reader.bind_inv h
  obtain ⟨n, tail, hn, hname⟩ := Reader.bind_inv hname
  obtain ⟨rfl, hlen⟩ := readTimes_readByte_inv hname
  by_cases h20 : name.length ≤ 20
  · rw [if_pos h20] at h
    obtain ⟨-, rfl⟩ : _ ∧ mid = rest := by simpa using Option.some.inj h
    exact ⟨n, name, readByte_inv hn, hlen, by omega⟩
  · rw [if_neg h20] at h
    cases h

theorem readAll_inv {α : Type} {r : Reader α} {bs : List Byte} {a : α} (h : readAll r bs = some a) : r.run bs = some (a, []) := by
  unfold readAll at h
  split at h
  next heq =>
    rw [← Option.some.inj h]
    exact heq
  · cases h

/-! ### Bytes that make no message (R215) -/

/-- What the bytes of an ABILITY or a CHOICE behind its code keep to: two flags, and a name of at most 20 characters that its length
byte counts. -/
def NamedFields (bytes : List Byte) : Prop :=
  ∃ (w v a b r t n : Byte) (name : List Byte), bytes = [w, v, a, b, r, t, n] ++ name ∧
    a.toNat ≤ 1 ∧ b.toNat ≤ 1 ∧ n.toNat ≤ 20 ∧ n.toNat = name.length

theorem readAbility_fields {bytes : List Byte} {m : Message} (h : readAll readAbility bytes = some m) : NamedFields bytes := by
  obtain ⟨_, _, hw, h⟩ := Reader.bind_inv (readAll_inv h)
  obtain ⟨_, _, ra, h⟩ := Reader.bind_inv h
  obtain ⟨_, _, rb, h⟩ := Reader.bind_inv h
  obtain ⟨_, _, hr, h⟩ := Reader.bind_inv h
  obtain ⟨_, _, ht, h⟩ := Reader.bind_inv h
  obtain ⟨_, _, rn, hend⟩ := Reader.bind_inv h
  obtain ⟨w, v, rfl⟩ := readUint_two_inv hw
  obtain ⟨a, rfl, ha⟩ := readFlag_inv ra
  obtain ⟨b, rfl, hb⟩ := readFlag_inv rb
  obtain ⟨r, rfl, -⟩ := readUint_one_inv hr
  obtain ⟨t, rfl, -⟩ := readUint_one_inv ht
  obtain ⟨n, name, rfl, hlen, hn⟩ := readName_inv rn
  obtain ⟨-, rfl⟩ : _ ∧ _ = [] := by simpa using Option.some.inj hend
  exact ⟨w, v, a, b, r, t, n, name, by simp, ha, hb, hn, hlen.symm⟩

theorem readChoice_fields {bytes : List Byte} {m : Message} (h : readAll readChoice bytes = some m) : NamedFields bytes := by
  obtain ⟨_, _, hw, h⟩ := Reader.bind_inv (readAll_inv h)
  obtain ⟨q, _, ra, h⟩ := Reader.bind_inv h
  obtain ⟨_, _, rb, h⟩ := Reader.bind_inv h
  obtain ⟨_, _, hr, h⟩ := Reader.bind_inv h
  obtain ⟨_, _, ht, h⟩ := Reader.bind_inv h
  obtain ⟨_, _, rn, hend⟩ := Reader.bind_inv h
  obtain ⟨w, v, rfl⟩ := readUint_two_inv hw
  obtain ⟨a, rfl, ha⟩ := readUint_one_inv ra
  obtain ⟨b, rfl, hb⟩ := readFlag_inv rb
  obtain ⟨r, rfl, -⟩ := readUint_one_inv hr
  obtain ⟨t, rfl, -⟩ := readUint_one_inv ht
  obtain ⟨n, name, rfl, hlen, hn⟩ := readName_inv rn
  split at hend
  next hq =>
    obtain ⟨-, rfl⟩ : _ ∧ _ = [] := by simpa using Option.some.inj hend
    refine ⟨w, v, a, b, r, t, n, name, by simp, ?_, hb, hn, hlen.symm⟩
    unfold Resolution.ofCode at hq
    split at hq
    · omega
    · split at hq
      · omega
      · cases hq
  · cases hend

theorem readPageEnd_field {bytes : List Byte} {m : Message} (h : readAll readPageEnd bytes = some m) :
    ∃ k : Byte, bytes = [k] ∧ k.toNat ≤ 2 := by
  obtain ⟨n, rest, hk, hend⟩ := Reader.bind_inv (readAll_inv h)
  obtain ⟨k, rfl, rfl⟩ := readUint_one_inv hk
  split at hend
  case h_4 => cases hend
  all_goals
    obtain ⟨-, rfl⟩ : _ ∧ rest = [] := by simpa using Option.some.inj hend
    exact ⟨k, rfl, by omega⟩

theorem readVerdict_field {bytes : List Byte} {m : Message} (h : readAll readVerdict bytes = some m) :
    ∃ v : Byte, bytes = [v] ∧ v.toNat ≤ 1 := by
  obtain ⟨n, rest, hv, hend⟩ := Reader.bind_inv (readAll_inv h)
  obtain ⟨v, rfl, rfl⟩ := readUint_one_inv hv
  split at hend
  case h_3 => cases hend
  all_goals
    obtain ⟨-, rfl⟩ : _ ∧ rest = [] := by simpa using Option.some.inj hend
    exact ⟨v, rfl, by omega⟩

theorem readClose_field {bytes : List Byte} {m : Message} (h : readAll readClose bytes = some m) : bytes.length = 1 := by
  obtain ⟨n, rest, hr, hend⟩ := Reader.bind_inv (readAll_inv h)
  obtain ⟨-, rfl⟩ : _ ∧ rest = [] := by simpa using Option.some.inj hend
  rw [readByte_inv hr]
  rfl

theorem readMessage_noCode {b : Byte} (hb : b = 0 ∨ 8 < b.toNat) (rest : List Byte) : readMessage (b :: rest) = none := by
  have hn : b.toNat = 0 ∨ 8 < b.toNat := hb.imp_left (fun h => by rw [h]; rfl)
  unfold readMessage
  dsimp only
  split
  case h_9 => rfl
  all_goals omega

/-- Bytes that make no message change nothing (R215). -/
theorem exec_unread (bytes : List Byte) (h : readMessage bytes = none) {l : LineNo} {s : State} :
    (.next (takeMessage l bytes s) : Host.Outcome State Fault Refusal) = .next s := by
  unfold takeMessage
  rw [h]

/-- A WAIT sets the age of a MESSAGE wait to 0 (R128, R153). -/
theorem takeMessage_wait {s : State} {l : LineNo} (hq : s.noPrinting) (hp : (s.proc l).phase ≠ .idle) :
    takeMessage l [7] s = s.setProc l { s.proc l with sup := (s.proc l).sup.progress .message } := by
  have hnone (t : State) : messageEffect l .wait t = t := by
    unfold messageEffect
    split <;> first | rfl | contradiction
  rw [takeMessage_taken (m := .wait) rfl hp, hnone, printerLook_noPrinting (State.call_noPrinting _ _ _ _ hq), State.setProc_call]

/-! ### A tick at each context of a class (R152) -/

/-- A fold of steps that agree, at each index that has a property, with steps that change their own index only. -/
theorem foldl_agree {ι α : Type} {g : State → ι → α} {f f' : State → ι → State} {P : α → Prop}
    (hf : ∀ s i m, m ≠ i → g (f' s i) m = g s m) (he : ∀ s i, P (g s i) → f s i = f' s i) {is : List ι} (hd : is.Nodup) {s : State}
    (hP : ∀ i ∈ is, P (g s i)) : is.foldl f s = is.foldl f' s := by
  induction is generalizing s with
  | nil => rfl
  | cons i is ih =>
    obtain ⟨hi, hd⟩ := List.nodup_cons.mp hd
    rw [List.foldl_cons, List.foldl_cons, he s i (hP i List.mem_cons_self)]
    refine ih hd fun m hm => ?_
    rw [hf s i m (fun h => hi (h ▸ hm))]
    exact hP m (List.mem_cons_of_mem _ hm)

/-- What a line's context repeats to the module when its wait is aged (R129, R132, R136). -/
def Proc.again (k : TimeoutClass) (x : Proc) : List OutItem :=
  match k, x.phase, x.lastMessage, x.lastVerdict with
  | .message, .waitTrial, some (.choice c n), _ => (Message.choice c n).bytes.map OutItem.byte ++ [.endMessage, .trial c.rate]
  | .message, .waitVerdict, some (.pageEnd e), _ => (Message.pageEnd e).bytes.map OutItem.byte ++ [.endMessage]
  | .message, .waitChoice, some (.ability a), _ => (Message.ability a).bytes.map OutItem.byte ++ [.endMessage]
  | .message, .waitChoice, some (.verdict v), _ => (Message.verdict v).bytes.map OutItem.byte ++ [.endMessage]
  | .message, .waitClose, _, some v => (Message.verdict v).bytes.map OutItem.byte ++ [.endMessage]
  | .page, .waitFirst, _, _ => [.byte 7, .endMessage]
  | .page, .holding, _, _ => [.byte 7, .endMessage]
  | _, _, _, _ => []

/-- The message a line's context keeps as its last one after its wait was aged. -/
def Proc.lastSaid (k : TimeoutClass) (x : Proc) : Option Message :=
  match k, x.phase, x.lastVerdict with
  | .message, .waitClose, some v => some (.verdict v)
  | .page, .waitFirst, _ => some .wait
  | .page, .holding, _ => some .wait
  | _, _, _ => x.lastMessage

section
variable {k : TimeoutClass} {x : Proc} (l : LineNo) (s : State) (y : Slot)

theorem call_said_nothing (hm : x.lastSaid k = x.lastMessage) (ha : x.again k = []) :
    s.call l x y = s.call l { x with lastMessage := x.lastSaid k } { y with out := y.out ++ x.again k } := by
  rw [hm, ha, List.append_nil]

theorem say_said {m : Message} (hm : x.lastSaid k = some m) (ha : x.again k = m.bytes.map .byte ++ [.endMessage]) :
    say l m (s.call l x y) = s.call l { x with lastMessage := x.lastSaid k } { y with out := y.out ++ x.again k } := by
  rw [say_call, hm, ha, List.append_assoc]

theorem repeatMessage_call : repeatMessage l (s.call l x y) =
    s.call l { x with lastMessage := x.lastSaid .message } { y with out := y.out ++ x.again .message } := by
  unfold repeatMessage
  dsimp only
  rw [State.call_proc]
  split
  next c n hp hm =>
    rw [say_call]
    unfold sayTrial
    rw [State.call_slot, State.call_setSlot]
    simp [Proc.lastSaid, Proc.again, hp, hm]
  next e hp hm => exact say_said l s y (by simp [Proc.lastSaid, hp, hm]) (by simp [Proc.again, hp, hm])
  next a hp hm => exact say_said l s y (by simp [Proc.lastSaid, hp, hm]) (by simp [Proc.again, hp, hm])
  next v hp hm => exact say_said l s y (by simp [Proc.lastSaid, hp, hm]) (by simp [Proc.again, hp, hm])
  next hp =>
    unfold repeatVerdict
    rw [State.call_proc]
    rcases hv : x.lastVerdict with _ | v
    · refine (call_said_nothing l s y (k := .message) (x := x) (by simp [Proc.lastSaid, hp, hv])
        (by simp [Proc.again, hp, hv])).trans ?_
      rw [hv]
    · refine (sayVerdict_call l v s x y).trans ?_
      simp [Proc.lastSaid, Proc.again, hp, hv]
  next h1 h2 h3 h4 h5 =>
    refine call_said_nothing l s y ?_ ?_
    · unfold Proc.lastSaid
      split <;> simp_all
    · unfold Proc.again
      split <;> simp_all

theorem agedLine_call (hk : k = .answer ∨ k = .message ∨ k = .data ∨ k = .page) : agedLine l k (s.call l x y) =
    s.call l { x with lastMessage := x.lastSaid k } { y with out := y.out ++ x.again k } := by
  unfold agedLine
  rcases hk with rfl | rfl | rfl | rfl
  · exact call_said_nothing l s y rfl rfl
  · exact repeatMessage_call l s y
  · exact call_said_nothing l s y rfl rfl
  · dsimp only
    rw [State.call_proc]
    split
    next hp => exact say_said l s y (by simp [Proc.lastSaid, hp]) (by simp [Proc.again, hp, Message.bytes])
    next hp => exact say_said l s y (by simp [Proc.lastSaid, hp]) (by simp [Proc.again, hp, Message.bytes])
    next hp hp' =>
      refine call_said_nothing l s y ?_ ?_
      · unfold Proc.lastSaid
        split <;> simp_all
      · unfold Proc.again
        split <;> simp_all

end

/-- A tick that ages the context of a line which holds its class. -/
def ageLine (k : TimeoutClass) (s : State) (l : LineNo) : State :=
  agedLine l k (s.setProc l { s.proc l with sup := { (s.proc l).sup with age := (s.proc l).sup.age + 1 } })

/-- The aged context of a line, and what its module slot then holds. -/
def Proc.aged (k : TimeoutClass) (p : Proc × Slot) : Proc × Slot :=
  ({ p.1 with sup := { p.1.sup with age := p.1.sup.age + 1 }, lastMessage := p.1.lastSaid k },
   { p.2 with out := p.2.out ++ p.1.again k })

theorem ageLine_call {k : TimeoutClass} (hk : k = .answer ∨ k = .message ∨ k = .data ∨ k = .page) (s : State) (l : LineNo) :
    ageLine k s l = s.call l (Proc.aged k (s.proc l, s.slot l)).1 (Proc.aged k (s.proc l, s.slot l)).2 := by
  unfold ageLine
  rw [State.setProc_call, agedLine_call l s _ hk]
  rfl

theorem mem_heldLines {k : TimeoutClass} {s : State} {l : LineNo} : l ∈ heldLines k s ↔ (s.proc l).sup.cls = some k := by
  have hall : l ∈ allLines := by
    revert l
    decide
  simp [heldLines, hall]

theorem nodup_heldLines (k : TimeoutClass) (s : State) : (heldLines k s).Nodup := List.Nodup.filter _ (by decide)

theorem ageLine_each {k : TimeoutClass} (hk : k = .answer ∨ k = .message ∨ k = .data ∨ k = .page) (s : State) (l m : LineNo) :
    ((ageLine k s l).proc m, (ageLine k s l).slot m) =
      if m = l then Proc.aged k (s.proc l, s.slot l) else (s.proc m, s.slot m) := by
  rw [ageLine_call hk]
  split
  next h => simp [h, Proc.aged]
  next h => simp [State.call, h]

theorem foldl_tickLine_eq {k : TimeoutClass} (hk : k = .answer ∨ k = .message ∨ k = .data ∨ k = .page) {s : State}
    (hage : ∀ l, (s.proc l).sup.cls = some k → (s.proc l).sup.age < 2) :
    (heldLines k s).foldl (tickLine k) s = (heldLines k s).foldl (ageLine k) s :=
  foldl_agree (g := fun s l => (s.proc l, s.slot l)) (P := fun p => p.1.sup.cls = some k ∧ p.1.sup.age < 2)
    (fun s l m h => (ageLine_each hk s l m).trans (if_neg h))
    (fun s l (h : (s.proc l).sup.cls = some k ∧ (s.proc l).sup.age < 2) => (if_pos h.1).trans (if_pos h.2))
    (nodup_heldLines k s) (fun l hl => ⟨mem_heldLines.mp hl, hage l (mem_heldLines.mp hl)⟩)

/-- A tick that no wait of the class outlasts ages the contexts that hold it, and no other (R152). -/
theorem foldl_tickLine_ages {k : TimeoutClass} (hk : k = .answer ∨ k = .message ∨ k = .data ∨ k = .page) {s : State}
    (hage : ∀ l, (s.proc l).sup.cls = some k → (s.proc l).sup.age < 2) (m : LineNo) :
    let t := (heldLines k s).foldl (tickLine k) s
    (t.proc m, t.slot m) =
      if (s.proc m).sup.cls = some k then Proc.aged k (s.proc m, s.slot m) else (s.proc m, s.slot m) := by
  dsimp only
  rw [foldl_tickLine_eq hk hage, foldl_each (g := fun s l => (s.proc l, s.slot l)) (k := fun _ => ()) (F := fun _ => Proc.aged k)
    (ageLine_each hk) (fun _ _ => rfl) (nodup_heldLines k s)]
  simp only [mem_heldLines]

/-- A class's tick at the one line that holds it, its wait at the third tick (R152). -/
theorem foldl_tickLine_third {k : TimeoutClass} {s : State} {l : LineNo} (hk : (s.proc l).sup.cls = some k)
    (hage : 2 ≤ (s.proc l).sup.age) (honly : ∀ m, m ≠ l → (s.proc m).sup.cls ≠ some k) :
    printerLook ((heldLines k s).foldl (tickLine k) s) = lineTimeout k l s := by
  have hlines : heldLines k s = [l] := by
    refine List.perm_singleton.mp ((List.perm_ext_iff_of_nodup (nodup_heldLines k s) (List.nodup_singleton l)).mpr fun m => ?_)
    rw [mem_heldLines, List.mem_singleton]
    exact ⟨fun h => by_contra fun hm => honly m hm h, fun h => h ▸ hk⟩
  rw [hlines, List.foldl_cons, List.foldl_nil, lineTimeout_held hk]
  exact congrArg printerLook ((if_pos hk).trans (if_neg (Nat.not_lt.mpr hage)))

/-! ### A tick of the SCAN class (R59, R152, R157) -/

/-- A tick at a channel whose wait it ages. -/
def ageChannel (s : State) (c : ChannelNo) : State :=
  if (s.channel c).sup.cls = some .scan ∧ (s.channel c).sup.suspended = false then
    agedChannel c (s.setChannel c { s.channel c with
      sup := { (s.channel c).sup with age := (s.channel c).sup.age + 1 } })
  else s

/-- An aged channel and the CREDIT frame that waits for its station. -/
def Channel.aged (p : Channel × Option CreditFrame) : Channel × Option CreditFrame :=
  if p.1.sup.cls = some .scan ∧ p.1.sup.suspended = false then
    ({ p.1 with sup := { p.1.sup with age := p.1.sup.age + 1 } }, some ⟨p.1.number, p.1.limit, p.1.expected, false⟩)
  else p

theorem Channel.aged_waits {x : Channel} (o : Option CreditFrame) (h : x.sup.cls = some .scan ∧ x.sup.suspended = false) :
    Channel.aged (x, o) = ({ x with sup := { x.sup with age := x.sup.age + 1 } }, some ⟨x.number, x.limit, x.expected, false⟩) :=
  if_pos h

theorem Channel.aged_passed {x : Channel} (o : Option CreditFrame) (h : ¬ (x.sup.cls = some .scan ∧ x.sup.suspended = false)) :
    Channel.aged (x, o) = (x, o) := if_neg h

theorem ageChannel_each (s : State) (c e : ChannelNo) :
    ((ageChannel s c).channel e, fetch (ageChannel s c).link.credits e) =
      if e = c then Channel.aged (s.channel c, fetch s.link.credits c) else (s.channel e, fetch s.link.credits e) := by
  unfold ageChannel
  split
  next h =>
    unfold agedChannel sendCredit
    split
    next he =>
      subst he
      rw [Channel.aged_waits _ h]
      refine Prod.ext (State.setChannel_channel_same ..) ((fetch_store_same ..).trans ?_)
      rw [State.setChannel_channel_same]
    next he =>
      have hchannel : (s.setChannel c { s.channel c with
          sup := { (s.channel c).sup with age := (s.channel c).sup.age + 1 } }).channel e = s.channel e :=
        State.setChannel_channel_ne _ _ _ _ he
      exact Prod.ext hchannel (fetch_store_ne _ _ he)
  next h =>
    split
    next he => rw [he, Channel.aged_passed _ h]
    · rfl

/-- A tick that no SCAN wait outlasts ages the waits that are not suspended, and repeats their CREDIT. -/
theorem foldl_tickChannel_ages {s : State}
    (hage : ∀ c, (s.channel c).sup.cls = some .scan → (s.channel c).sup.suspended = false → (s.channel c).sup.age < 2) (c : ChannelNo) :
    let t := allChannels.foldl tickChannel s
    (t.channel c, fetch t.link.credits c) = Channel.aged (s.channel c, fetch s.link.credits c) := by
  have hfold := foldl_agree (f := tickChannel) (f' := ageChannel) (g := fun s c => (s.channel c, fetch s.link.credits c))
    (P := fun p => p.1.sup.cls = some .scan → p.1.sup.suspended = false → p.1.sup.age < 2)
    (fun s c e h => (ageChannel_each s c e).trans (if_neg h))
    (fun s c h => by
      unfold tickChannel ageChannel
      dsimp only
      split
      next hs => rw [if_pos (h hs.1 hs.2)]
      · rfl)
    (is := allChannels) (by decide) (fun c _ => hage c)
  have hmem : c ∈ allChannels := by
    revert c
    decide
  dsimp only
  rw [hfold, foldl_each (g := fun s c => (s.channel c, fetch s.link.credits c)) (k := fun _ => ()) (F := fun _ => Channel.aged)
    ageChannel_each (fun _ _ => rfl) (by decide), if_pos hmem]

/-- Settles O57. -/
theorem waitsAndTicks : Obligations.WaitsAndTicks := by
  refine ⟨fun s l bytes => ⟨rfl, fun hcode => ?_, fun hnil => ?_, ⟨fun hne => ?_, fun hf => ?_, fun hk => ?_, fun hv => ?_, fun hlen => ?_⟩,
      fun hq hp => ?_⟩, fun s k hk hage => ?_, fun s l k hk hage honly => ?_, fun s hage => ?_, fun s hcls hage => ?_⟩
  · cases bytes with
    | nil => exact exec_unread [] rfl (l := l)
    | cons b rest => exact exec_unread _ (readMessage_noCode (hcode b rest rfl) rest)
  · subst hnil
    exact exec_unread [] rfl (l := l)
  · have hlong {m : Message} : readAll (pure m : Reader Message) bytes = none :=
      readAll_of_exactly (exactly_pure m) (fun h => hne (List.eq_nil_of_length_eq_zero h))
    have hverdict (v : Byte) : readAll readVerdict (v :: bytes) = none := Option.eq_none_iff_forall_ne_some.mpr fun m hm => by
      obtain ⟨w, hw, -⟩ := readVerdict_field hm
      exact hne (List.cons.inj hw).2
    exact ⟨exec_unread (3 :: bytes) hlong, exec_unread (4 :: bytes) hlong, exec_unread (7 :: bytes) hlong,
      exec_unread (6 :: 0 :: bytes) (hverdict 0), exec_unread (6 :: 1 :: bytes) (hverdict 1), exec_unread (3 :: bytes) hlong,
      exec_unread (4 :: bytes) hlong, exec_unread (7 :: bytes) hlong⟩
  · have hnone : ¬ NamedFields bytes := fun ⟨w, v, a, b, r, t, n, name, hb, ha, hb1, hn, hlen⟩ => by
      have := hf w v a b r t n name hb
      omega
    have hability : readMessage (1 :: bytes) = none := Option.eq_none_iff_forall_ne_some.mpr fun m hm => hnone (readAbility_fields hm)
    have hchoice : readMessage (2 :: bytes) = none := Option.eq_none_iff_forall_ne_some.mpr fun m hm => hnone (readChoice_fields hm)
    exact ⟨exec_unread _ hability, exec_unread _ hchoice, exec_unread _ hability, exec_unread _ hchoice⟩
  · have hend : readMessage (5 :: bytes) = none := Option.eq_none_iff_forall_ne_some.mpr fun m hm => by
      obtain ⟨k, rfl, hle⟩ := readPageEnd_field hm
      exact absurd (hk k rfl) (Nat.not_lt.mpr hle)
    exact ⟨exec_unread _ hend, exec_unread _ hend⟩
  · have hverdict : readMessage (6 :: bytes) = none := Option.eq_none_iff_forall_ne_some.mpr fun m hm => by
      obtain ⟨v, rfl, hle⟩ := readVerdict_field hm
      exact absurd (hv v rfl) (Nat.not_lt.mpr hle)
    exact exec_unread _ hverdict
  · have hclose : readMessage (8 :: bytes) = none := Option.eq_none_iff_forall_ne_some.mpr fun m hm => hlen (readClose_field hm)
    exact ⟨exec_unread _ hclose, exec_unread _ hclose⟩
  · exact congrArg Host.Outcome.next (takeMessage_wait hq hp)
  · intro again
    have hrun : classTick k s = printerLook ((heldLines k (s.setTick (TimeoutClass.index k) 0)).foldl (tickLine k)
        (s.setTick (TimeoutClass.index k) 0)) := by
      rcases hk with rfl | rfl | rfl | rfl <;> rfl
    have hlines : (classTick k s).lines = s.lines := by
      rw [hrun, foldl_tickLine_eq hk (s := s.setTick (TimeoutClass.index k) 0) hage, (printerLook_frame _).2.2.2.1]
      exact foldl_keep State.lines _ (fun t l => by rw [ageLine_call hk]; rfl) _ _
    refine ⟨_, rfl, by simp [hrun], hlines, fun l => ?_⟩
    have hparts := foldl_tickLine_ages hk (s := s.setTick (TimeoutClass.index k) 0) hage l
    have hproc : (classTick k s).proc l = _ := (congrArg (fetch · l) (by rw [hrun]; simp)).trans (congrArg Prod.fst hparts)
    have hslot : (classTick k s).slot l = _ := (congrArg (fetch · l) (by rw [hrun]; simp)).trans (congrArg Prod.snd hparts)
    rw [hproc, hslot]
    by_cases hc : (s.proc l).sup.cls = some k
    · have hc' : ((s.setTick (TimeoutClass.index k) 0).proc l).sup.cls = some k := hc
      rw [if_pos hc', if_pos hc, if_pos hc]
      exact ⟨rfl, rfl, rfl⟩
    · have hc' : ¬ ((s.setTick (TimeoutClass.index k) 0).proc l).sup.cls = some k := hc
      rw [if_neg hc', if_neg hc, if_neg hc]
      exact ⟨rfl, rfl, rfl⟩
  · intro s'
    have hthird := foldl_tickLine_third (s := s') hk hage honly
    cases k with
    | scan => trivial
    | print => trivial
    | answer => exact congrArg Host.Outcome.next hthird
    | message => exact congrArg Host.Outcome.next hthird
    | data => exact congrArg Host.Outcome.next hthird
    | page => exact congrArg Host.Outcome.next hthird
  · have hparts := foldl_tickChannel_ages (s := s.setTick 4 0) hage
    refine ⟨_, rfl, by simp [classTick, TimeoutClass.index], by simp [classTick], by simp [classTick], fun c => ?_⟩
    obtain ⟨hchannel, hcredit⟩ := Prod.ext_iff.mp (hparts c)
    intro x aged
    by_cases ha : aged
    · have hpair := Channel.aged_waits (fetch s.link.credits c) ha
      exact ⟨(hchannel.trans (congrArg Prod.fst hpair :)).trans (if_pos ha).symm,
        (hcredit.trans (congrArg Prod.snd hpair :)).trans (if_pos ha).symm⟩
    · have hpair := Channel.aged_passed (fetch s.link.credits c) ha
      exact ⟨(hchannel.trans (congrArg Prod.fst hpair :)).trans (if_neg ha).symm,
        (hcredit.trans (congrArg Prod.snd hpair :)).trans (if_neg ha).symm⟩
  · exact congrArg Host.Outcome.next ((if_pos hcls).trans (if_pos hage))

end Sys2Proof.Machine
end

section
/-! PROOFS. The print path (O58): credits, the lines of a page, its end and the end of a job. -/

namespace Sys2Proof.Machine

/-! ### Frames from the printer (R203, R213) -/

/-- With nothing in the checker, a CREDIT frame of the printer's station is a grant. -/
theorem goodFrame_credit {s : State} (hs : s.link.bytes = []) (n : Byte) :
    goodFrame 6 .credit [n] s = takePrinterCredit n.toNat s := by
  rw [goodFrame, checkerIdle_of_bytes_nil hs]
  rfl

section
variable {s : State}

theorem printPlace_noPrinting (h : s.noPrinting) : s.printPlace = none := by
  unfold State.printPlace State.printing
  rw [h.2.1]

theorem printPlace_some {j : Fin 32} {d : Fin 64} {b : PrintJob} {w : Option Report} (hx : s.printer.job = some j)
    (hj : s.job j = some ⟨d, .print b, w⟩) : s.printPlace = some (b.copy, b.slot) := by
  unfold State.printPlace State.printing
  rw [hx]
  dsimp only
  rw [hj]

/-- A print queue with one ACTIVE print job in it has that job at its head. -/
theorem printQueue_head {j : Fin 32} {d : Fin 64} {b : PrintJob} (hj : s.job j = some ⟨d, .print b, none⟩) (hp : b.priority ≤ 3)
    (hothers : ∀ i, i ≠ j → s.printJob i = none) (hmem : j ∈ s.jobs.order) : (printQueue s).head? = some j := by
  have hat : printsAt s b.priority j = true := by
    unfold printsAt
    rw [hj]
    exact decide_eq_true rfl
  have hin : j ∈ printQueue s := by
    refine List.mem_flatMap.mpr ⟨b.priority, ?_, List.mem_filter.mpr ⟨hmem, hat⟩⟩
    have : b.priority = 0 ∨ b.priority = 1 ∨ b.priority = 2 ∨ b.priority = 3 := by omega
    simp only [List.mem_cons, List.not_mem_nil, or_false]
    omega
  have hall (i : Fin 32) (hi : i ∈ printQueue s) : i = j := by
    obtain ⟨pr, -, hpr⟩ := List.mem_flatMap.mp hi
    have hprints := (List.mem_filter.mp hpr).2
    by_contra hne
    have hnone := hothers i hne
    unfold State.printJob at hnone
    unfold printsAt at hprints
    split at hprints
    next heq =>
      rw [heq] at hnone
      cases hnone
    · cases hprints
  obtain ⟨i, is, heq⟩ := List.exists_cons_of_ne_nil (List.ne_nil_of_mem hin)
  rw [heq, List.head?_cons, hall i (by rw [heq]; exact List.mem_cons_self)]

/-! ### The lines of a page (R161, R164) -/

theorem PrintChannel.offer_sends {x : PrintChannel} {n : Nat} {r : Raster} (hr : x.ready = some (n, r)) (hc : x.credits ≠ 0)
    (hf : x.frames = []) :
    x.offer = { x with frames := [.printLine n r], credits := x.credits - 1, ready := none, sent := x.sent + 1, sup := .off } := by
  unfold PrintChannel.offer
  rw [hr]
  dsimp only
  rw [if_neg hc, hf]
  rfl

theorem PrintChannel.offer_short {x : PrintChannel} (hr : x.ready.isSome = true) (hc : x.credits = 0) :
    x.offer = { x with sup := if x.paused = true ∨ x.sup.cls = some .print then x.sup else .enter .print } := by
  obtain ⟨⟨n, r⟩, hr⟩ := Option.isSome_iff_exists.mp hr
  unfold PrintChannel.offer
  rw [hr]
  dsimp only
  rw [if_pos hc]
  split <;> rw [← hr]

variable {x : PrintChannel} (hp : x.phase = .printing) (hs : x.stopping = false)
include hp hs

theorem printerLook_offers (hr : x.ready.isSome = true) : printerLook (setPrinter x s) = setPrinter x.offer s := by
  obtain ⟨y, hr⟩ := Option.isSome_iff_exists.mp hr
  unfold printerLook
  refine (if_pos hp).trans ((if_neg (by rw [show (setPrinter x s).printer.stopping = false from hs]; decide)).trans ?_)
  rw [show (setPrinter x s).printer.ready = _ from hr]
  rfl

theorem printerLook_decodes (hr : x.ready = none) (hf : x.frames = []) :
    printerLook (setPrinter x s) = lookAtHead lookFuel (decodePrint (setPrinter x s)) := by
  unfold printerLook
  refine (if_pos hp).trans ((if_neg (by rw [show (setPrinter x s).printer.stopping = false from hs]; decide)).trans ?_)
  rw [show (setPrinter x s).printer.ready = _ from hr]
  exact if_pos (congrArg List.isEmpty hf :)

omit hs in
theorem PrintChannel.offer_phase : x.offer.phase = .printing := by
  unfold PrintChannel.offer
  (repeat' split) <;> exact hp

/-- With no frame in hand and no line ready, the next line of the page in print is decoded and offered (R164). -/
theorem printerLook_line (hr : x.ready = none) (hf : x.frames = []) {p : Fin 256} {d : Decoder} {y : DecodedLine}
    (hpg : x.page = some p) (hline : s.store.nextLine p x.decoder = (d, .line y)) :
    printerLook (setPrinter x s) = setPrinter (x.take d y).offer s := by
  rw [printerLook_decodes hp hs hr hf, decodePrint_line hpg hline, lookAtHead_printing]
  · rfl
  · exact PrintChannel.offer_phase (x := x.take d y) hp

end

/-- The Print Channel after a grant of credits (R161, R168). -/
def PrintChannel.credited (x : PrintChannel) (n : Nat) : PrintChannel :=
  { x with credits := min 16 (x.credits + n), paused := false, sup := .off }

theorem takePrinterCredit_some {n : Nat} (hn : n ≠ 0) (s : State) :
    takePrinterCredit n s = printerLook (if s.printer.paused then
        report (.printState false .silent s.printer.job s.printPlace s.printer.readyIndex) (setPrinter (s.printer.credited n) s)
      else setPrinter (s.printer.credited n) s) := if_neg hn

theorem PrintChannel.credited_credits {x : PrintChannel} {n : Nat} (hn : n ≠ 0) : (x.credited n).credits ≠ 0 := by
  show min 16 (x.credits + n) ≠ 0
  omega

/-- The Print Channel once the frame in hand has left (R164). -/
def PrintChannel.frameGone (x : PrintChannel) : PrintChannel := { x with frames := x.frames.tail, started := false }

theorem printerFrameGone_started {s : State} (h : s.printer.started = true) (hs : s.printer.stopping = false) :
    printerFrameGone s = printerLook (setPrinter s.printer.frameGone s) := by
  unfold printerFrameGone
  dsimp only
  rw [if_pos h, if_neg (by rw [hs]; decide)]
  rfl

/-! ### The end of a page and of a job (R165, R171) -/

section
variable {s : State} {j : Fin 32} {d : Fin 64} {b : PrintJob} {c : Claim}

theorem endPrintUse_mapped (hj : s.job j = some ⟨d, .print b, none⟩) (hh : c.holder = .print j) (hu : c.inUse = true)
    (hw : c.withdrawn = false) (hc : c ∈ s.store.claims)
    (honly : ∀ k ∈ s.store.claims, k.holder = .print j → k.inUse = true → k = c) (hs : (s.page c.page).state = .sealed)
    (hm : (s.page c.page).mapped = true) (success last : Bool) :
    endPrintUse j success last s = s.claiming (endedClaims s.store.claims c (success && last)) := by
  have huse := Store.endUse_only (st := s.store) hu hw hc (by rw [hh]; exact honly) hs hm success last
  rw [hh] at huse
  unfold endPrintUse
  rw [hj]
  dsimp only [Job.active, Option.isNone_none, Bool.not_true]
  rw [withStore_same _ _ (congrArg Store.freeList huse :)]
  exact congrArg (fun st => { s with store := st }) huse

/-- The Print Channel after a page printed to its end (R165). -/
def PrintChannel.finishedPage (x : PrintChannel) (j : Fin 32) (b : PrintJob) : PrintChannel :=
  x.leftPage.hand (.pageFinish j b.slot b.copy x.sent x.substituted .complete)

theorem finishPage_mapped (hx : s.printer.job = some j) (hj : s.job j = some ⟨d, .print b, none⟩) (hh : c.holder = .print j)
    (hu : c.inUse = true) (hw : c.withdrawn = false) (hc : c ∈ s.store.claims)
    (honly : ∀ k ∈ s.store.claims, k.holder = .print j → k.inUse = true → k = c) (hs : (s.page c.page).state = .sealed)
    (hm : (s.page c.page).mapped = true) :
    finishPage s = (setPrinter (s.printer.finishedPage j b)
      (s.claiming (endedClaims s.store.claims c (decide (b.copies ≤ b.copy))))).setJob j
        (some ⟨d, .print { b with slot := b.slot + 1 }, none⟩) := by
  have hprinting : s.printing = some (j, d, b) := by
    unfold State.printing
    rw [hx]
    dsimp only
    rw [hj]
  unfold finishPage
  rw [hprinting]
  have hend := endPrintUse_mapped (s := setPrinter (s.printer.finishedPage j b) s) (d := d) (b := b) hj hh hu hw hc honly hs hm true
    (decide (b.copies ≤ b.copy))
  refine (congrArg (changePrint j _) hend).trans ((changePrint_some (doc := d) (b := b) (w := none) ?_ _).trans ?_)
  · exact hj
  · rw [Bool.true_and]
    rfl

theorem finishJob_printed (hj : s.job j = some ⟨d, .print b, none⟩) {doc : Document} (hd : s.doc d = some doc) (hr : doc.released = false)
    (hroom : s.link.reports.length < 64) (hn : s.noneOwed) :
    finishJob j s = { s.setDoc d (some { doc with jobCount := doc.jobCount - 1 }) with
      jobs := { s.jobs with slots := store s.jobs.slots j none, order := s.jobs.order.filter (fun k => decide (k ≠ j)) },
      link := { s.link with
        reports := s.link.reports ++ [⟨.printDone j d b.completed b.cancelled, s.link.gap⟩], gap := false } } := by
  rw [finishJob_print hj, dropJob_unreleased (s := s.setJob j _) hd hr]
  refine (offerDone_room (doc := d) (body := .print b) (r := .printDone j d b.completed b.cancelled) ?_ ?_ (by simp)).trans ?_
  · exact fetch_store_same _ _ _
  · exact hroom
  unfold freeJob
  rw [serveOwed_none]
  · rw [report_room]
    · simp only [State.setJob, State.setDoc, store_store]
    · exact hroom
  · refine State.noneOwed_congr hn fun i => ?_
    by_cases hi : i = j
    · subst hi
      exact .inr (fetch_store_same _ _ _)
    · left
      have h1 : fetch (store (store s.jobs.slots j (some ⟨d, .print b, some (.printDone j d b.completed b.cancelled)⟩)) j none) i =
          s.job i := by
        rw [fetch_store_ne _ _ hi, fetch_store_ne _ _ hi]
        rfl
      exact h1

end

section
variable {s : State} {j : Fin 32} {d : Fin 64} {b : PrintJob} {doc : Document}

/-- Of a holder whose one claim in use is dropped, no claim is left once those not in use are dropped as well. -/
theorem filter_used_dropped {claims : List Claim} {c : Claim} {h : Holder} (hh : c.holder = h)
    (honly : ∀ k ∈ claims, k.holder = h → k.inUse = true → k = c) :
    (claims.filter (fun k => decide (k ≠ c))).filter (fun k => !(decide (k.holder = h) && !k.inUse)) =
      claims.filter (fun k => decide (k.holder ≠ h)) := by
  rw [List.filter_filter]
  refine List.filter_congr fun k hk => ?_
  by_cases hkh : k.holder = h
  · cases hi : k.inUse with
    | true => simp [honly k hk hkh hi, hh]
    | false => simp [hkh]
  · have hne : k ≠ c := fun e => hkh (e ▸ hh)
    simp [hkh, hne]

/-- The head of the queue is complete where it has no page left in a CLOSED document and no copy to come (R162, R171). -/
theorem lookAtHead_completes (hphase : s.printer.phase ≠ .printing) (hq : (printQueue s).head? = some j)
    (hj : s.job j = some ⟨d, .print b, none⟩) (hd : s.doc d = some doc) (hslot : doc.slots[b.slot]? = none) (hopen : doc.isOpen = false)
    (hcopies : b.copies ≤ b.completed + 1) (fuel : Nat) :
    lookAtHead (fuel + 1) s = lookAtHead fuel (completePrint j d b (changePrint j (fun b => b.nextCopy) s)) := by
  conv_lhs => unfold lookAtHead
  rw [if_neg hphase, hq]
  dsimp only
  rw [hj]
  dsimp only
  rw [hd]
  dsimp only
  rw [hslot]
  dsimp only
  rw [if_neg (by rw [hopen]; decide), if_neg (Nat.not_lt.mpr hcopies)]

theorem lookAtHead_noPrinting (h : s.noPrinting) (fuel : Nat) : lookAtHead fuel s = s := by
  cases fuel with
  | zero => rfl
  | succ n =>
    obtain ⟨h1, h2, h3⟩ := h
    unfold lookAtHead
    rw [if_neg (by rw [h1]; decide), printQueue_empty h3]
    dsimp only [List.head?_nil]
    rw [← h1, ← h2]
    rfl

/-- A print job that is complete, its document neither released nor to be, finishes: its claims not in use are dropped, its JOB-DONE is
queued and its slot is free (R65, R171). -/
theorem completePrint_kept (hj : s.job j = some ⟨d, .print b, none⟩) (hd : s.doc d = some doc) (hauto : b.autoRelease = false)
    (hr : doc.released = false) (hroom : s.link.reports.length < 64) (hn : s.noneOwed) :
    ∃ scan credits, completePrint j d b s = { s with
      store := { s.store.dropHolder (.print j) with
        docs := store s.store.docs d (some { doc with jobCount := doc.jobCount - 1 }) },
      scan := scan,
      jobs := { s.jobs with slots := store s.jobs.slots j none, order := s.jobs.order.filter (fun k => decide (k ≠ j)) },
      link := { s.link with
        credits := credits, reports := s.link.reports ++ [⟨.printDone j d b.completed b.cancelled, s.link.gap⟩], gap := false } } := by
  obtain ⟨scan, credits, hstore⟩ := withStore_eq (fun t => t.dropHolder (.print j)) s
  refine ⟨scan, credits, ?_⟩
  have hdocs : (s.store.dropHolder (.print j)).docs = s.store.docs := (Store.dropHolder_frame _ _).2.1
  unfold completePrint endPrintJob
  rw [if_neg (by rw [hauto]; decide), hstore]
  refine (finishJob_printed (s := { s with
    store := s.store.dropHolder (.print j), scan := scan, link := { s.link with credits := credits } }) (doc := doc) hj ?_ hr hroom
      hn).trans ?_
  · exact (congrArg (fetch · d) hdocs).trans hd
  · rw [← hdocs]
    rfl

end

/-- Settles O58. -/
theorem printerCreditsPaceLines : Obligations.PrinterCreditsPaceLines := by
  intro s x fill
  have hpos {n : Byte} (hn : n ≠ 0) : n.toNat ≠ 0 := fun h => hn (BitVec.eq_of_toNat_eq h)
  refine ⟨fun hb => ?_, ?_, ?_, ?_, ?_, ?_, ?_, fun hcls => congrArg Host.Outcome.next (if_pos hcls)⟩
  · exact congrArg Host.Outcome.next ((goodFrame_credit hb 0).trans rfl)
  · intro n hb hq hn s'
    refine congrArg Host.Outcome.next ((goodFrame_credit hb n).trans ((takePrinterCredit_some (hpos hn) s).trans ?_))
    have hjob : s.printer.job = none := hq.2.1
    rw [hjob, printPlace_noPrinting hq, printerLook_noPrinting]
    · rfl
    · split
      · exact ⟨hq.1, hq.2.1, hq.2.2⟩
      · exact ⟨hq.1, hq.2.1, hq.2.2⟩
  · intro n i r hb hn hp hs hpa hr hf
    refine congrArg Host.Outcome.next ((goodFrame_credit hb n).trans ((takePrinterCredit_some (hpos hn) s).trans ?_))
    rw [if_neg (by rw [show s.printer.paused = false from hpa]; decide),
      printerLook_offers (x := s.printer.credited n.toNat) hp hs (congrArg Option.isSome hr :)]
    have hsends := PrintChannel.offer_sends (x := s.printer.credited n.toNat) hr (PrintChannel.credited_credits (hpos hn)) hf
    refine (congrArg (setPrinter · _) hsends).trans ?_
    rw [hpa]
    rfl
  · intro f i r hst hf hp hs hr hc
    refine congrArg Host.Outcome.next ((printerFrameGone_started hst hs).trans ?_)
    rw [printerLook_offers (x := s.printer.frameGone) hp hs (congrArg Option.isSome hr :)]
    exact congrArg (setPrinter · s)
      (PrintChannel.offer_sends (x := s.printer.frameGone) hr (Nat.pos_iff_ne_zero.mp hc) (congrArg List.tail hf))
  · intro f rest hst hf hq hs
    refine congrArg Host.Outcome.next ((printerFrameGone_started hst hs).trans ?_)
    rw [printerLook_noPrinting (s := setPrinter s.printer.frameGone s) ⟨hq.1, hq.2.1, hq.2.2⟩]
    exact congrArg (fun fs => setPrinter { s.printer with frames := fs, started := false } s) (congrArg List.tail hf)
  · intro f p d y hst hf hp hs hr hpg hline bad
    refine congrArg Host.Outcome.next ((printerFrameGone_started hst hs).trans ?_)
    rw [printerLook_line (x := s.printer.frameGone) hp hs hr (congrArg List.tail hf) hpg hline]
    have htail : s.printer.frames.tail = [] := congrArg List.tail hf
    have hbad : (if y.good then s.printer.substituted else s.printer.substituted + 1) = bad := by
      show _ = s.printer.substituted + (if y.good then 0 else 1)
      split <;> rfl
    have htake : s.printer.frameGone.take d y = { s.printer with
        started := false, frames := [], decoder := d, ready := some (y.index, y.raster), substituted := bad } := by
      rw [← htail, ← hbad]
      rfl
    rw [htake]
    by_cases hc : x.credits = 0
    · rw [if_pos hc]
      exact congrArg (setPrinter · s) (PrintChannel.offer_short rfl hc)
    · rw [if_neg hc]
      exact congrArg (setPrinter · s) (PrintChannel.offer_sends rfl hc rfl)
  · intro f p e j d b doc hst hf hp hs hr hpg hline hxj hj hothers hmem hprio hd hlen c hc honly hsealed hmapped left
    have hrun : printerFrameGone s = lookAtHead lookFuel (finishPage (setPrinter s.printer.frameGone s)) := by
      refine (printerFrameGone_started hst hs).trans ?_
      rw [printerLook_decodes (x := s.printer.frameGone) hp hs hr (congrArg List.tail hf)]
      have hdecode : decodePrint (setPrinter s.printer.frameGone s) = finishPage (setPrinter s.printer.frameGone s) := by
        unfold decodePrint
        rw [show (setPrinter s.printer.frameGone s).printer.page = some p from hpg]
        dsimp only
        rw [show (setPrinter s.printer.frameGone s).store.nextLine p (setPrinter s.printer.frameGone s).printer.decoder = _ from hline]
      rw [hdecode]
    have hframes : s.printer.frames.tail ++ [PrinterFrame.pageFinish j b.slot b.copy x.sent x.substituted .complete] =
        [.pageFinish j b.slot b.copy x.sent x.substituted .complete] := by
      rw [show s.printer.frames = [f] from hf]
      rfl
    have hleft : s.printer.frameGone.finishedPage j b = left :=
      congrArg₂ (fun fs st => { left with frames := fs, stopping := st }) hframes hs.symm
    rw [finishPage_mapped (s := setPrinter s.printer.frameGone s) (c := c) hxj hj rfl rfl rfl hc honly hsealed hmapped] at hrun
    have hclaims : endedClaims s.store.claims c (decide (b.copies ≤ b.copy)) =
        if b.copies ≤ b.copy then s.store.claims.filter (fun k => decide (k ≠ c))
        else s.store.claims.map (fun k => if k = c then { c with inUse := false } else k) := by
      unfold endedClaims
      simp only [decide_eq_true_eq]
    obtain ⟨u, hu⟩ : ∃ u, (setPrinter left (s.claiming (endedClaims s.store.claims c (decide (b.copies ≤ b.copy))))).setJob j
        (some ⟨d, .print { b with slot := b.slot + 1 }, none⟩) = u := ⟨_, rfl⟩
    replace hrun : printerFrameGone s = lookAtHead (66559 + 1) u := by
      rw [hrun, ← hu, ← hleft]
      rfl
    have hujob : u.job j = some ⟨d, .print { b with slot := b.slot + 1 }, none⟩ := by
      rw [← hu]
      exact fetch_store_same ..
    have hukept (i : Fin 32) (hi : i ≠ j) : u.job i = s.job i := by
      rw [← hu]
      exact fetch_store_ne _ _ hi
    have huothers (i : Fin 32) (hi : i ≠ j) : u.printJob i = none := by
      rw [State.printJob_congr (hukept i hi)]
      exact hothers i hi
    have huphase : u.printer.phase ≠ .printing := by
      rw [← hu]
      exact PrintPhase.noConfusion
    have huhead : (printQueue u).head? = some j := printQueue_head hujob hprio huothers (by rw [← hu]; exact hmem)
    have hudoc : u.doc d = some doc := by
      rw [← hu]
      exact hd
    have huslot : doc.slots[b.slot + 1]? = none := List.getElem?_eq_none (Nat.le_of_eq hlen)
    refine ⟨fun hopen => ?_, fun hopen hcopies hcompleted hauto hrel hn hroom => ?_⟩
    · refine congrArg Host.Outcome.next (hrun.trans ((lookAtHead_waits huphase huhead hujob hudoc (.inl ⟨huslot, hopen⟩) 66559).trans ?_))
      rw [← hu, hclaims]
      rfl
    · generalize hv : changePrint j (fun b => b.nextCopy) u = v
      have hvu : v = u.setJob j (some ⟨d, .print { b with slot := b.slot + 1, completed := b.completed + 1 }, none⟩) := by
        rw [← hv, changePrint_some hujob]
        unfold PrintJob.nextCopy
        rw [if_neg (Nat.not_lt.mpr hcompleted)]
      have hvlink : v.link = s.link := by
        rw [hvu, ← hu]
        rfl
      have hvkept (i : Fin 32) (hi : i ≠ j) : v.job i = s.job i := by
        rw [hvu]
        exact (fetch_store_ne _ _ hi).trans (hukept i hi)
      have hvjob : v.job j = some ⟨d, .print { b with slot := b.slot + 1, completed := b.completed + 1 }, none⟩ := by
        rw [hvu]
        exact fetch_store_same ..
      have hvnone : v.noneOwed := fun i d' b' w' hi => by
        by_cases hij : i = j
        · rw [hij, hvjob] at hi
          cases hi
        · exact hn i d' b' w' ((hvkept i hij).symm.trans hi)
      obtain ⟨scan, credits, hdone⟩ := completePrint_kept (s := v) (j := j) (doc := doc)
        (b := { b with slot := b.slot + 1, completed := b.completed + 1 }) hvjob
        (by rw [hvu]; exact hudoc) hauto hrel (by rw [hvlink]; exact hroom) hvnone
      have hcomplete : completePrint j d { b with slot := b.slot + 1 } v =
          completePrint j d { b with slot := b.slot + 1, completed := b.completed + 1 } v := rfl
      generalize hw : completePrint j d { b with slot := b.slot + 1 } v = w at hcomplete
      rw [← hcomplete] at hdone
      have hwnone (i : Fin 32) (hi : i ≠ j) : w.job i = s.job i := by
        rw [hdone]
        exact (fetch_store_ne _ _ hi).trans (hvkept i hi)
      have hwjob : w.job j = none := by
        rw [hdone]
        exact fetch_store_same ..
      have hwprinter : w.printer = left := by
        rw [hdone, hvu, ← hu]
        rfl
      have hwq : w.noPrinting := by
        refine ⟨by rw [hwprinter], by rw [hwprinter], fun i => ?_⟩
        by_cases hi : i = j
        · unfold State.printJob
          rw [hi, hwjob]
        · rw [State.printJob_congr (hwnone i hi)]
          exact hothers i hi
      have hfinal : printerFrameGone s = w := by
        rw [hrun, lookAtHead_completes huphase huhead hujob hudoc huslot hopen hcompleted, hv, hw, lookAtHead_noPrinting hwq]
      refine ⟨w, congrArg Host.Outcome.next hfinal, hwprinter, hwjob, hwnone, ?_, ?_, ?_, ?_, ?_, ?_, ?_⟩
      · rw [hdone, hvu, ← hu]
        rfl
      · rw [hdone]
        exact fetch_store_same ..
      · rw [hdone, hvu, ← hu]
        refine (Store.dropHolder_frame _ _).2.2.trans ?_
        show (endedClaims s.store.claims c (decide (b.copies ≤ b.copy))).filter _ = _
        rw [hclaims, if_pos hcopies]
        exact filter_used_dropped rfl honly
      · rw [hdone, hvlink]
      · rw [hdone, hvu, ← hu]
        rfl
      · rw [hdone, hvu, ← hu]
        rfl
      · rw [hdone, hvu, ← hu]
        rfl

end Sys2Proof.Machine
end

section
/-! PROOFS. The states of paper (O59): PAPER-OUT gives the page up, PAPER-READY begins it again. -/

namespace Sys2Proof.Machine

/-! ### The end of a use without success (R13, R15, R20) -/

/-- The claims after the end of a use without success: a withdrawn claim is dropped, another stands on page `q` from then on. -/
def failedClaims (claims : List Claim) (c : Claim) (q : Fin 256) : List Claim :=
  if c.withdrawn then claims.filter (fun k => decide (k ≠ c))
  else claims.map (fun k => if k = c then { c with page := q, inUse := false } else k)

theorem flatMap_dropped (claims : List Claim) (c : Claim) :
    claims.flatMap (fun k => if k = c then (none : Option Claim).toList else [k]) = claims.filter (fun k => decide (k ≠ c)) := by
  induction claims with
  | nil => rfl
  | cons k ks ih =>
    rw [List.flatMap_cons, ih, List.filter_cons]
    by_cases hk : k = c <;> simp [hk]

theorem flatMap_kept (claims : List Claim) (c e : Claim) :
    claims.flatMap (fun k => if k = c then (some e).toList else [k]) = claims.map (fun k => if k = c then e else k) := by
  induction claims with
  | nil => rfl
  | cons k ks ih =>
    rw [List.flatMap_cons, ih, List.map_cons]
    by_cases hk : k = c <;> simp [hk]

section
variable {st : Store} {c : Claim} {p : Fin 256}

theorem Store.endUse_failed (hu : c.inUse = true) (hc : c ∈ st.claims)
    (honly : ∀ k ∈ st.claims, k.holder = c.holder → k.inUse = true → k = c) (hslot : st.slotPage c.doc c.slot = some p) (drops : Bool) :
    st.endUse c.holder false drops false = Store.settle { st with
      claims := failedClaims st.claims c (if (fetch st.pages c.page).state = .void then p else c.page) } c.page := by
  have hafter : st.claimAfterUse c false drops false =
      if c.withdrawn then none
      else some { c with page := if (fetch st.pages c.page).state = .void then p else c.page, inUse := false } := by
    unfold Store.claimAfterUse
    rw [Bool.or_false, Bool.false_and, if_neg Bool.false_ne_true, hslot]
    split
    · rfl
    · split <;> rfl
  unfold Store.endUse
  rw [Store.usedClaim_only hu hc honly]
  dsimp only
  rw [hafter]
  unfold failedClaims
  split
  · rw [flatMap_dropped]
  · rw [flatMap_kept]

/-- The page of a claim that alone stood on it has none once the claim has left it. -/
theorem failedClaims_count {q : Fin 256} (hq : q ≠ c.page) (honly : ∀ k ∈ st.claims, k.page = c.page → k = c) :
    Store.claimCount { st with claims := failedClaims st.claims c q } c.page = 0 := by
  refine List.countP_eq_zero.mpr fun k hk => ?_
  rw [decide_eq_true_eq]
  intro hkp
  dsimp only at hk
  unfold failedClaims at hk
  split at hk
  · obtain ⟨hmem, hne⟩ := List.mem_filter.mp hk
    exact of_decide_eq_true hne (honly k hmem hkp)
  · obtain ⟨e, he, rfl⟩ := List.mem_map.mp hk
    by_cases hec : e = c
    · rw [if_pos hec] at hkp
      exact hq hkp
    · rw [if_neg hec] at hkp
      exact hec (honly e he hkp)

end

/-! ### What the Print Channel keeps as it goes on to the next page (R162 to R164, R171) -/

section
variable {s t : State}

@[simp] theorem withStore_reports (f : Store → Store) (s : State) : (withStore f s).link.reports = s.link.reports := by
  obtain ⟨_, _, h⟩ := withStore_eq f s
  rw [h]

@[simp] theorem dropJob_reports (d : Fin 64) (s : State) : (dropJob d s).link.reports = s.link.reports := withStore_reports ..

@[simp] theorem serveOwed_reports (s : State) : (serveOwed s).link.reports = s.link.reports := by
  have hone (s : State) (r : Fin 32) : (serveOwedAt s r).link.reports = s.link.reports := by
    unfold serveOwedAt
    split
    next d b w j _ _ =>
      have hprint {u : State} (hu : u.link = s.link) : (if (s.line b.line).settings.copies = 0 then u
          else createPrint j d (s.line b.line).settings.printJob u).link.reports = s.link.reports := by
        split <;> simp [hu]
      dsimp only
      split
      · split
        · exact (dropJob_reports ..).trans (hprint rfl)
        · exact hprint rfl
      · rfl
    · rfl
  unfold serveOwed
  exact foldl_keep (fun u : State => u.link.reports) serveOwedAt hone _ _

@[simp] theorem freeJob_reports (j : Fin 32) (s : State) : (freeJob j s).link.reports = s.link.reports := by
  unfold freeJob
  rw [serveOwed_reports]

@[simp] theorem becomeOwed_reports (j : Fin 32) (d : Fin 64) (b : ReceiveJob) (s : State) :
    (becomeOwed j d b s).link.reports = s.link.reports := by
  unfold becomeOwed
  dsimp only
  split <;> simp

theorem Link.offer_prefix (k : Link) (r : Report) : k.reports <+: (k.offer r).reports := by
  unfold Link.offer
  split
  · exact List.prefix_append _ _
  · exact List.prefix_rfl

theorem offerDone_prefix (j : Fin 32) (s : State) : s.link.reports <+: (offerDone j s).link.reports := by
  have hoffer (r : Report) : s.link.reports <+: (s.link.offer r).reports := s.link.offer_prefix r
  unfold offerDone
  (repeat' split) <;> simp [hoffer]

theorem finishJob_prefix (j : Fin 32) (s : State) : s.link.reports <+: (finishJob j s).link.reports := by
  have hdone {u : State} (hu : u.link.reports = s.link.reports) : s.link.reports <+: (offerDone j u).link.reports :=
    hu ▸ offerDone_prefix j u
  unfold finishJob
  split
  · split
    · exact hdone (by split <;> simp)
    · exact hdone (by simp)
  · exact List.prefix_rfl

theorem completePrint_prefix (j : Fin 32) (d : Fin 64) (b : PrintJob) (s : State) :
    s.link.reports <+: (completePrint j d b s).link.reports := by
  have hreports : (withStore (fun st => st.dropHolder (.print j)) (if b.autoRelease then releaseDoc d s else s)).link.reports =
      s.link.reports := by
    rw [withStore_reports]
    split
    · exact withStore_reports ..
    · rfl
  exact hreports ▸ finishJob_prefix j _

/-- From one state to a later one, paper stands as it did and frames for the printer and reports only join those in hand. -/
structure Prints (s t : State) : Prop where
  paper : t.printer.paperOut = s.printer.paperOut
  frames : s.printer.frames <+: t.printer.frames
  reports : s.link.reports <+: t.link.reports

theorem Prints.refl (s : State) : Prints s s := ⟨rfl, List.prefix_rfl, List.prefix_rfl⟩

theorem Prints.trans {u : State} (h : Prints s t) (h' : Prints t u) : Prints s u :=
  ⟨h'.paper.trans h.paper, h.frames.trans h'.frames, h.reports.trans h'.reports⟩

theorem Prints.ite {c : Prop} [Decidable c] {u v : State} (h : Prints s u) (h' : Prints s v) : Prints s (if c then u else v) := by
  split
  · exact h
  · exact h'

/-- The printer alone changes, or what it does not read. -/
theorem Prints.of_printer {x : PrintChannel} (hx : t.printer = x) (hr : t.link.reports = s.link.reports)
    (hp : x.paperOut = s.printer.paperOut) (hf : s.printer.frames <+: x.frames) : Prints s t :=
  ⟨hx ▸ hp, hx ▸ hf, hr ▸ List.prefix_rfl⟩

theorem offer_prints (x : PrintChannel) : x.offer.paperOut = x.paperOut ∧ x.frames <+: x.offer.frames := by
  unfold PrintChannel.offer
  split
  · exact ⟨rfl, List.prefix_rfl⟩
  · split
    · split <;> exact ⟨rfl, List.prefix_rfl⟩
    · split
      next h =>
        refine ⟨rfl, ?_⟩
        rw [List.isEmpty_iff.mp h]
        exact List.nil_prefix
      · exact ⟨rfl, List.prefix_rfl⟩

theorem finishPage_prints (s : State) : Prints s (finishPage s) := by
  unfold finishPage
  split
  next j d b _ =>
    refine .of_printer (x := s.printer.finishedPage j b) (by simp [PrintChannel.finishedPage, setPrinter]) ?_ rfl (List.prefix_append _ _)
    rw [(changePrint_frame _ _ _).2.2.2.2.2.2.2.2.2.2.2.2.2.2.2.1]
    exact withStore_reports ..
  · exact .refl s

theorem decodePrint_prints (s : State) : Prints s (decodePrint s) := by
  unfold decodePrint
  split
  · exact .refl s
  · split
    next d y _ => exact .of_printer rfl rfl (offer_prints (s.printer.take d y)).1 (offer_prints (s.printer.take d y)).2
    · exact finishPage_prints s
    · exact .of_printer rfl rfl rfl List.prefix_rfl

theorem beginPrint_prints (j : Fin 32) (d : Fin 64) (b : PrintJob) (p : Fin 256) (s : State) :
    s.printer.frames ++ [.pageStart j d b.slot b.copy (s.page p).version (s.page p).width (s.page p).resolution b.lost] <+:
      (beginPrint j d b p s).printer.frames ∧ Prints s (beginPrint j d b p s) := by
  obtain ⟨u, hu, huframes, hupaper, hureports⟩ : ∃ u : State, beginPrint j d b p s = decodePrint u ∧
      u.printer.frames = s.printer.frames ++
        [.pageStart j d b.slot b.copy (s.page p).version (s.page p).width (s.page p).resolution b.lost] ∧
      u.printer.paperOut = s.printer.paperOut ∧ u.link = s.link := ⟨_, rfl, by simp [setPrinter, PrintChannel.hand],
    by simp [setPrinter, PrintChannel.hand], by simp⟩
  have hnext := decodePrint_prints u
  rw [hu]
  refine ⟨huframes ▸ hnext.frames, Prints.trans ⟨hupaper, ?_, ?_⟩ hnext⟩
  · rw [huframes]
    exact List.prefix_append _ _
  · rw [hureports]

theorem lookAtHead_prints (fuel : Nat) (s : State) : Prints s (lookAtHead fuel s) := by
  induction fuel generalizing s with
  | zero => exact .refl s
  | succ fuel ih =>
    have hwait (j : Fin 32) : Prints s (waitPage j s) := .of_printer rfl rfl rfl List.prefix_rfl
    unfold lookAtHead
    split
    · exact .refl s
    · split
      · exact .of_printer rfl rfl rfl List.prefix_rfl
      next j _ =>
        split
        next d b _ _ =>
          split
          · exact hwait j
          · split
            next p _ => exact .ite (hwait j) (.ite (hwait j) ((beginPrint_prints j d b p s).2.trans (ih _)))
            · split
              · exact hwait j
              · have hnext : Prints s (changePrint j (fun b => b.nextCopy) s) := .of_printer (by simp) (by simp) rfl List.prefix_rfl
                split
                · exact hnext.trans (ih _)
                · refine hnext.trans (Prints.trans ?_ (ih _))
                  exact ⟨by simp, by simp, completePrint_prefix ..⟩
        · exact .refl s

end

/-! ### PAPER-OUT and PAPER-READY (R166, R167) -/

theorem exec_paperOut {s : State} (hs : s.link.bytes = []) : exec (.paperOut 6 []) s = .next (takePaperOut s) := by
  refine congrArg Host.Outcome.next ?_
  rw [goodFrame, checkerIdle_of_bytes_nil hs]
  rfl

theorem exec_paperReady {s : State} (hs : s.link.bytes = []) : exec (.paperReady 6 []) s = .next (takePaperReady s) := by
  refine congrArg Host.Outcome.next ?_
  rw [goodFrame, checkerIdle_of_bytes_nil hs]
  rfl

section
variable {s : State} {j : Fin 32} {d : Fin 64} {b : PrintJob} {c : Claim} {p : Fin 256}

theorem endPrintUse_failed (hj : s.job j = some ⟨d, .print b, none⟩) (hh : c.holder = .print j) (hu : c.inUse = true)
    (hc : c ∈ s.store.claims) (honly : ∀ k ∈ s.store.claims, k.holder = .print j → k.inUse = true → k = c)
    (hslot : s.store.slotPage c.doc c.slot = some p) (last : Bool) :
    ∃ scan credits, endPrintUse j false last s = { s with
      store := Store.settle { s.store with
        claims := failedClaims s.store.claims c (if (s.page c.page).state = .void then p else c.page) } c.page,
      scan := scan, link := { s.link with credits := credits } } := by
  obtain ⟨scan, credits, hstore⟩ := withStore_eq (fun st => st.endUse (.print j) false last false) s
  refine ⟨scan, credits, ?_⟩
  have huse := Store.endUse_failed hu hc (by rw [hh]; exact honly) hslot last
  rw [hh] at huse
  unfold endPrintUse
  rw [hj]
  exact hstore.trans (congrArg (fun st => { s with store := st, scan := scan, link := { s.link with credits := credits } }) huse)

/-- The Print Channel that gave its page up for want of paper (R166). -/
def PrintChannel.paperGone (x : PrintChannel) (j : Fin 32) : PrintChannel :=
  { x.leftPage with phase := .waitPage, job := some j, paperOut := true, credits := 0, paused := false }

theorem takePaperOut_printing (hp : s.printer.paperOut = false) (hph : s.printer.phase = .printing) (hxj : s.printer.job = some j)
    (hs : s.printer.stopping = false) (hj : s.job j = some ⟨d, .print b, none⟩) :
    takePaperOut s = printerLook (changePrint j (fun b => { b with lost := true }) (endPrintUse j false false
      (setPrinter (s.printer.paperGone j) (report (.printState true .paperOut (some j) (some (b.copy, b.slot)) none) s)))) := by
  unfold takePaperOut
  dsimp only
  rw [if_neg (by rw [hp]; decide), if_pos hph, hxj, printPlace_some hxj hj]
  dsimp only
  rw [if_neg (by rw [hs]; decide)]
  rfl

end

/-- Settles O59. -/
theorem paperStatesAreTaken : Obligations.PaperStatesAreTaken := by
  intro s hbytes x
  rw [exec_paperOut hbytes, exec_paperReady hbytes]
  refine ⟨fun hp => ?_, fun hp => ?_, fun hp hph => ?_, fun hq hp => ?_, fun j d b doc p hj hothers hmem hprio hd hslot hsealed => ?_⟩
  · exact congrArg Host.Outcome.next (if_pos hp)
  · exact congrArg Host.Outcome.next (if_neg (by rw [show s.printer.paperOut = false from hp]; decide))
  · exact congrArg Host.Outcome.next ((if_neg (by rw [show s.printer.paperOut = false from hp]; decide)).trans (if_neg hph))
  · refine congrArg Host.Outcome.next ((if_pos hp).trans ?_)
    rw [printQueue_empty hq.2.2]
    exact printerLook_noPrinting ⟨hq.1, hq.2.1, hq.2.2⟩
  · refine ⟨?_, ?_⟩
    · intro r w hp hph hxj hs c hc honly claims
      have hclaims : failedClaims s.store.claims c (if (s.page r).state = .void then p else r) = claims := rfl
      have hslotPage : s.store.slotPage d b.slot = some p := by
        unfold Store.slotPage
        rw [show fetch s.store.docs d = some doc from hd]
        exact hslot
      obtain ⟨scan, credits, hend⟩ := endPrintUse_failed (s := setPrinter (s.printer.paperGone j)
        (report (.printState true .paperOut (some j) (some (b.copy, b.slot)) none) s)) (c := c) (p := p) hj rfl rfl hc honly hslotPage false
      have hrun := takePaperOut_printing hp hph hxj hs hj
      obtain ⟨st, hst⟩ : ∃ st, Store.settle { s.store with claims := claims } r = st := ⟨_, rfl⟩
      obtain ⟨u, hu⟩ : ∃ u, changePrint j (fun b => { b with lost := true }) (endPrintUse j false false
        (setPrinter (s.printer.paperGone j) (report (.printState true .paperOut (some j) (some (b.copy, b.slot)) none) s))) = u := ⟨_, rfl⟩
      have hueq : u = { s with
          store := st, scan := scan, printer := s.printer.paperGone j,
          link := { s.link.offer (.printState true .paperOut (some j) (some (b.copy, b.slot)) none) with credits := credits },
          jobs := { s.jobs with slots := store s.jobs.slots j (some ⟨d, .print { b with lost := true }, none⟩) } } := by
        rw [← hu, hend, ← hst]
        refine (changePrint_some (doc := d) (b := b) (w := none) ?_ _).trans rfl
        exact hj
      rw [hu] at hrun
      have hdocs : st.docs = s.store.docs := by
        rw [← hst]
        exact (Store.settle_frame _ _).2.1
      have hujob : u.job j = some ⟨d, .print { b with lost := true }, none⟩ := by
        rw [hueq]
        exact fetch_store_same ..
      have huphase : u.printer.phase ≠ .printing := by
        rw [hueq]
        exact PrintPhase.noConfusion
      have huhead : (printQueue u).head? = some j := by
        refine printQueue_head hujob hprio (fun i hi => ?_) (by rw [hueq]; exact hmem)
        rw [State.printJob_congr (s := s) (by rw [hueq]; exact fetch_store_ne _ _ hi)]
        exact hothers i hi
      have hudoc : u.doc d = some doc := by
        rw [hueq]
        exact (congrArg (fetch · d) hdocs).trans hd
      have hlook : printerLook u = waitPage j u := (if_neg huphase).trans
        (lookAtHead_waits huphase huhead hujob hudoc (.inr ⟨by rw [hslot]; rfl, by rw [hueq]; rfl⟩) 66559)
      have hsettled (hm : (s.page r).mapped = true) : st = { s.store with claims := claims } := by
        rw [← hst]
        exact Store.settle_stays (decide_eq_false (fun h => Bool.false_ne_true (h.2.1.symm.trans hm)))
      have hfreed (hv : (s.page r).state = .void) (hm : (s.page r).mapped = false) (hrp : r ≠ p)
          (hone : ∀ k ∈ s.store.claims, k.page = r → k = c) :
          fetch st.pages r = Page.blank ∧ st.freeList = s.store.freeList ++ (s.page r).chain := by
        have hcount : Store.claimCount { s.store with claims := claims } r = 0 := by
          rw [← hclaims, if_pos hv]
          exact failedClaims_count (c := c) hrp.symm hone
        have hleaves := Store.settle_leaves (st := { s.store with claims := claims }) (p := r) (decide_eq_true ⟨.inr hv, hm, hcount⟩)
        rw [← hst, hleaves]
        exact ⟨fetch_store_same .., rfl⟩
      have hclaimsSt : st.claims = claims := by
        rw [← hst]
        exact (Store.settle_frame _ _).2.2
      have hmemory : st.mem = s.store.mem := by
        rw [← hst]
        exact Store.settle_mem ..
      rw [hrun, hlook, hueq]
      refine ⟨_, rfl, ?_, rfl, rfl, hclaimsSt, hdocs, hmemory, hsettled, hfreed, rfl, rfl, rfl⟩
      exact congrArg₂ (fun q st => { s.printer.paperGone j with job := q, stopping := st }) hxj.symm hs.symm
    · intro hp hph start resumed
      obtain ⟨u, hu⟩ : ∃ u, report (.printState false .paperOut (some j) none none) (setPrinter { x with paperOut := false } s) = u :=
        ⟨_, rfl⟩
      have hphase : u.printer.phase ≠ .printing := by
        rw [← hu]
        exact fun h => PrintPhase.noConfusion (hph.symm.trans h)
      have hujob : u.job j = some ⟨d, .print b, none⟩ := by
        rw [← hu]
        exact hj
      have hupage : u.page p = s.page p := by
        rw [← hu]
        rfl
      have hrun : takePaperReady s = lookAtHead 66559 (beginPrint j d b p u) := by
        have hhead : (printQueue s).head? = some j := printQueue_head hj hprio hothers hmem
        refine (if_pos hp).trans ?_
        rw [hhead]
        refine (congrArg printerLook hu).trans ((if_neg hphase).trans ?_)
        refine lookAtHead_begins hphase ?_ hujob (x := doc) ?_ hslot ?_ ?_ 66559
        · rw [← hu]
          exact hhead
        · rw [← hu]
          exact hd
        · rw [hupage, hsealed]
          decide
        · rw [← hu]
          rfl
      refine ⟨?_, fun e y hline => ?_⟩
      · have hbegin := beginPrint_prints j d b p u
        have hlook := hbegin.2.trans (lookAtHead_prints 66559 _)
        rw [hrun]
        refine ⟨_, rfl, ?_, ?_, ?_, ?_, ?_, ?_⟩
        · rw [hlook.paper, ← hu]
          rfl
        · refine List.IsPrefix.trans ?_ (lookAtHead_prints 66559 _).frames
          have hframes := hbegin.1
          rw [hupage] at hframes
          rw [← hu] at hframes ⊢
          exact hframes
        · refine List.IsPrefix.trans ?_ hlook.reports
          rw [← hu]
          exact List.prefix_rfl
        · simp [← hu, setPrinter]
        · simp [← hu, setPrinter]
        · simp [← hu, setPrinter]
      · have hbegin := beginPrint_line (s := u) (e := e) (y := y) hujob (by rw [hupage, ← hu]; exact hline)
        rw [hupage] at hbegin
        have hclaims : (s.store.useClaim (.print j) b.slot).claims = s.store.claims.map (fun k =>
            if k.holder = .print j ∧ k.slot = b.slot ∧ k.withdrawn = false then { k with inUse := true } else k) := by
          refine List.map_congr_left fun k _ => ?_
          simp only [Claim.standsAt, Bool.and_eq_true, decide_eq_true_eq, Bool.not_eq_true', and_assoc]
        rw [hrun, hbegin, lookAtHead_printing rfl, ← hu, ← hclaims]
        rfl

end Sys2Proof.Machine
end

section
/-! PROOFS. The transmitter (O60): the order of the frames, the orders that a reply's place lets through, and the payloads. -/

namespace Sys2Proof.Machine

/-! ### The frame on the link is the transmitter's alone (R208) -/

theorem putAccount_sending (n : Fin 64) (a : Account) (s : State) : (putAccount n a s).link.sending = s.link.sending := by
  unfold putAccount
  split <;> simp

theorem meterStart_sending (l : LineNo) (z : Fin 8) (a : Fin 64) (s : State) :
    (meterStart l z a s).link.sending = s.link.sending := by
  unfold meterStart meterPost
  dsimp only
  generalize (if (s.cell z).whole = 0 then (s.cell z).setup else (s.cell z).setup + 1) = n
  split
  · rfl
  · exact putAccount_sending ..

theorem releaseContext_sending (l : LineNo) (why : Reason) (n : Nat) (name : Name) (s : State) :
    (releaseContext l why n name s).link.sending = s.link.sending := by
  unfold releaseContext
  dsimp only
  split
  · rfl
  · rw [(lowerCounts_frame _ _).2.2.2.2.2.2.2.2.2.2.2.2.2.2.1]
    unfold settleCharge chargeAnswered fillCharge
    split
    · dsimp only
      split <;> simp
    · rfl

theorem Change.sending {s t : State} (h : Change s t) : t.link.sending = s.link.sending := by
  cases h with
  | same h =>
    simp only [State.core, Prod.mk.injEq] at h
    obtain ⟨-, -, -, -, -, -, -, -, -, -, -, -, -, -, -, -, -, h1, -⟩ := h
    exact h1
  | place j d x b i => simp
  | answer => exact meterStart_sending ..
  | release => exact releaseContext_sending ..
  | releaseDest => simp [releaseContext_sending]
  | restart =>
    refine restartBlocks_keeps (P := fun u => u.link.sending = s.link.sending) (fun {a b} hc hs => ?_)
      (fun _ hs => (releaseContext_sending ..).trans hs) (fun _ hs => hs) rfl
    simp only [State.callCore, Prod.mk.injEq] at hc
    obtain ⟨-, -, -, -, -, -, -, -, -, -, -, -, -, h1⟩ := hc
    exact h1.trans hs
  | _ => rfl

theorem Reaches.sending {s t : State} (h : Reaches s t) : t.link.sending = s.link.sending :=
  h.keeps (P := fun u => u.link.sending = s.link.sending) (fun _ _ hc hs => hc.sending.trans hs) rfl

/-! ### What leaves (R208) -/

theorem frameTo_bytes (dst : Nat) (kind : FrameKind) (payload : List Byte) :
    frameTo dst kind payload = frameBytes (byteOf dst) 0 (byteOf kind.code) payload := rfl

section
variable {s : State}

theorem allChannels_split (c : ChannelNo) : ∃ before after, allChannels = before ++ c :: after ∧ ∀ e ∈ before, e < c :=
  ⟨allChannels.take c.val, allChannels.drop (c.val + 1), by revert c; decide, by revert c; decide⟩

theorem waitingCredit_some {c : ChannelNo} {f : CreditFrame} (hc : fetch s.link.credits c = some f)
    (hlow : ∀ e, e < c → fetch s.link.credits e = none) : waitingCredit s = some (c, f) := by
  unfold waitingCredit
  obtain ⟨before, after, hsplit, hbefore⟩ := allChannels_split c
  have hnone : before.findSome? (fun e => (fetch s.link.credits e).map (fun f => (e, f))) = none :=
    List.findSome?_eq_none_iff.mpr fun e he => by rw [hlow e (hbefore e he)]; rfl
  rw [hsplit, List.findSome?_append, hnone, List.findSome?_cons, hc]
  rfl

theorem waitingCredit_none (h : ∀ c, fetch s.link.credits c = none) : waitingCredit s = none :=
  List.findSome?_eq_none_iff.mpr fun e _ => by rw [h e]; rfl

theorem waitingDone_none (h : ∀ (j : Fin 32) (x : Job), s.job j = some x → x.waiting = none) : waitingDone s = none := by
  refine List.find?_eq_none.mpr fun j _ hj => ?_
  split at hj
  next x hx =>
    rw [h j x hx] at hj
    cases hj
  · cases hj

theorem transmitSelect_credit (hr : s.link.replies = []) {c : ChannelNo} {f : CreditFrame} (hc : fetch s.link.credits c = some f)
    (hlow : ∀ e, e < c → fetch s.link.credits e = none) : transmitSelect s =
      transmit (stationOf c) .credit f.bytes { s with link := { s.link with credits := store s.link.credits c none } } := by
  unfold transmitSelect
  rw [hr, waitingCredit_some hc hlow]

theorem transmitSelect_printer (hr : s.link.replies = []) (hc : ∀ c, fetch s.link.credits c = none) :
    transmitSelect s = selectPrinter s := by
  unfold transmitSelect
  rw [hr, waitingCredit_none hc]

theorem selectPrinter_report (h : s.printer.frames = [] ∨ s.printer.started = true) : selectPrinter s = selectReport s := by
  unfold selectPrinter
  split
  next hf hs =>
    rcases h with h | h
    · rw [h] at hf
      cases hf
    · rw [h] at hs
      cases hs
  · rfl

/-- The parser takes the head of the order queue where no order is in hand and the reply queue has room (R205). -/
theorem parse_cons {e : OrderEntry} {es : List OrderEntry} (ho : s.link.orders = e :: es) (hi : s.link.inHand = none)
    (hr : s.link.replies.length < 4) :
    parse s = runParser es.length (takeEntry e { s with link := { s.link with orders := es } }) := by
  unfold parse
  rw [ho, List.length_cons]
  conv_lhs => unfold runParser
  rw [hi, ho]
  exact if_pos hr

theorem runParser_full (h : 4 ≤ s.link.replies.length) (n : Nat) : runParser n s = s := by
  cases n with
  | zero => rfl
  | succ n =>
    unfold runParser
    split
    · exact if_neg (Nat.not_lt.mpr h)
    · rfl

end

/-! ### The layouts of the payloads (R209, R212, R213) -/

theorem reply_layout (tag : Tag) (code : Byte) (data : List Byte) (why : RefuseReason) :
    (Reply.mk tag code (.done data)).bytes = uint 2 tag.toNat ++ [code, 0, 0] ++ data ∧
    (Reply.mk tag code (.refused why)).bytes = uint 2 tag.toNat ++ [code, 1,
      match why with | .malformed => 1 | .noSuch => 2 | .noRoom => 3 | .wrongState => 4 | .outOfRange => 5] :=
  ⟨rfl, by cases why <;> rfl⟩

theorem QueuedReport.bytes_eq (r : Report) (gap : Bool) :
    (QueuedReport.mk r gap).bytes = [byteOf r.code, if gap then 0x80 else 0] ++ r.content := by
  unfold QueuedReport.bytes
  rw [uint_one]
  rfl

/-- Settles O60. -/
theorem transmitSelectsInOrder : Obligations.TransmitSelectsInOrder := by
  refine ⟨?_, reply_layout, fun f => rfl, ?_, fun n r => rfl, ?_, rfl, rfl, rfl, rfl, ?_⟩
  · intro s sent
    refine ⟨?_, ?_⟩
    · intro r rest hr gone
      have hrun (es : List OrderEntry) (he : s.link.orders = es) : transmitSelect s = parse (gone es) := by
        unfold transmitSelect
        rw [hr, ← he]
        rfl
      refine ⟨fun hrest => ?_, fun hi hlen => ⟨fun c o ho hc hlast => ?_, fun o es ho hfull => ?_, fun tag q es ho hfull => ?_⟩⟩
      · exact congrArg Host.Outcome.next ((hrun _ rfl).trans (parse_of_rested (s := gone s.link.orders) hrest))
      · have htakes : (gone []).takesOrder o.tag := ⟨hi, rfl, hlen, hlast⟩
        rw [exec_orderOfCommand hc, takeOrder_taken htakes]
        refine congrArg Host.Outcome.next ((hrun _ ho).trans ?_)
        exact parse_cons (s := gone [.order o]) (es := []) rfl hi hlen
      · obtain ⟨u, hu⟩ : ∃ u, ownerOf o.code o.params { gone es with link := { (gone es).link with inHand := some o } } = u := ⟨_, rfl⟩
        have howner := hu ▸ Reaches.refl.ownerOf (s := { gone es with link := { (gone es).link with inHand := some o } }) o.code o.params
        obtain ⟨-, hord, -, hrepl, -⟩ := howner.linkKept
        have hreplies : (answerOrder o u).link.replies = rest ++ [⟨o.tag, o.code, u.2⟩] :=
          congrArg (· ++ [(⟨o.tag, o.code, u.2⟩ : Reply)]) hrepl
        have htaken : transmitSelect s = answerOrder o u := by
          refine (hrun _ ho).trans ((parse_cons (s := gone (.order o :: es)) rfl hi hlen).trans ?_)
          have hentry : takeEntry (.order o) { gone (.order o :: es) with link := { (gone (.order o :: es)).link with orders := es } } =
              answerOrder o u := congrArg (answerOrder o) hu
          rw [hentry, runParser_full]
          rw [hreplies, List.length_append, hfull]
          exact Nat.le_refl 4
        exact ⟨_, u.2, congrArg Host.Outcome.next htaken, hreplies, hord, rfl, rfl, howner.sending⟩
      · refine congrArg Host.Outcome.next ((hrun _ ho).trans ((parse_cons (s := gone (.again tag q :: es)) rfl hi hlen).trans ?_))
        refine runParser_full ?_ _
        show 4 ≤ (rest ++ [q]).length
        rw [List.length_append, hfull]
        exact Nat.le_refl 4
    · intro hr
      refine ⟨fun c f hc hlow => congrArg Host.Outcome.next (transmitSelect_credit hr hc hlow), fun hnone => ?_⟩
      have hrun := transmitSelect_printer hr hnone
      refine ⟨fun f rest hf hstart => ?_, fun hp => ⟨fun q rest hq hwait => ?_, fun hempty => ?_⟩⟩
      · refine congrArg Host.Outcome.next (hrun.trans ?_)
        unfold selectPrinter
        rw [hf, hstart]
        cases f <;> rfl
      · refine congrArg Host.Outcome.next (hrun.trans ((selectPrinter_report hp).trans ?_))
        unfold selectReport offerWaiting
        rw [hq]
        dsimp only
        rw [waitingDone_none (s := transmit 1 .report q.bytes { s with link := { s.link with reports := rest } }) hwait]
        rfl
      · refine congrArg Host.Outcome.next (hrun.trans ((selectPrinter_report hp).trans ?_))
        unfold selectReport
        rw [hempty]
  · intro j d slot copy version width q again
    cases q <;> rfl
  · intro j slot copy sent bad e
    cases e <;> rfl
  · intro gap r
    refine (QueuedReport.bytes_eq r gap).trans ?_
    cases r with
    | destResult j d n st why made allowed nx old e el =>
      simp only [Report.content, Report.code, List.append_assoc]
      cases e <;> cases el <;> rfl
    | sendDone j d a good failed cut gone => rfl
    | printDone j d copies gone => rfl
    | receiveDone l why d name pages =>
      simp only [Report.content, Report.code, jobDoneBytes, List.append_assoc]
      rfl
    | pageSealed c sheet d slot p version width q lines bad length cut old => cases old <;> rfl
    | scanFault c sheet why d place replacement => cases d <;> cases place <;> rfl
    | callIn l rings j d => rfl
    | ringRefused l rings why => rfl
    | accountOver a total limit policy blocked calls => cases policy <;> rfl
    | printState paused why j place line => cases why <;> cases j <;> cases place <;> cases line <;> rfl
    | recordsWaiting filled reserved => rfl
    | storeLow c free reserve => rfl
    | restarted why blocks free retired filled =>
      simp only [Report.content, Report.code, List.append_assoc]
      cases why <;> rfl

end Sys2Proof.Machine
end

section
/-! PROOFS. The span code's round trip (O12): runs, run codes, bits in bytes, and the decoder over a coded line. -/

namespace Sys2Proof.Machine

/-! ### Runs (R28, R36) -/

theorem runsFrom_sum (c : Bool) (k : Nat) (r : Raster) : (runsFrom c k r).sum = k + r.length := by
  induction r generalizing c k with
  | nil => simp [runsFrom]
  | cons p ps ih =>
    unfold runsFrom
    split
    · rw [ih, List.length_cons]
      omega
    · rw [List.sum_cons, ih, List.length_cons]
      omega

theorem runsFrom_pos {k : Nat} (hk : k ≠ 0) (c : Bool) (r : Raster) : ∀ n ∈ runsFrom c k r, n ≠ 0 := by
  induction r generalizing c k with
  | nil => simpa [runsFrom] using hk
  | cons p ps ih =>
    unfold runsFrom
    split
    · exact ih (Nat.succ_ne_zero k) c
    · intro n hn
      rcases List.mem_cons.mp hn with rfl | hn
      · exact hk
      · exact ih Nat.one_ne_zero _ n hn

theorem runsFrom_ne_nil (c : Bool) (k : Nat) (r : Raster) : runsFrom c k r ≠ [] := by
  induction r generalizing c k with
  | nil => exact List.cons_ne_nil _ _
  | cons p ps ih =>
    unfold runsFrom
    split
    · exact ih _ _
    · exact List.cons_ne_nil _ _

theorem expandRuns_runsFrom (c : Bool) (k : Nat) (r : Raster) : expandRuns c (runsFrom c k r) = List.replicate k c ++ r := by
  induction r generalizing c k with
  | nil => simp [runsFrom, expandRuns]
  | cons p ps ih =>
    unfold runsFrom
    split
    next hp =>
      rw [ih, hp, List.replicate_succ', List.append_assoc]
      rfl
    next hp =>
      have hp' : p = !c := by cases p <;> cases c <;> simp_all
      unfold expandRuns
      rw [ih, hp']
      rfl

theorem expandRuns_runsOf (r : Raster) : expandRuns false (runsOf r) = r := expandRuns_runsFrom false 0 r

/-- Of the runs of a line only the first may be 0 (R28). -/
theorem runsOf_tail (r : Raster) : ∀ n ∈ (runsOf r).tail, n ≠ 0 := by
  cases r with
  | nil => simp [runsOf, runsFrom]
  | cons p ps =>
    unfold runsOf runsFrom
    split
    · exact fun n hn => runsFrom_pos Nat.one_ne_zero _ _ n (List.mem_of_mem_tail hn)
    · exact runsFrom_pos Nat.one_ne_zero _ _

theorem differ_differ {a b : Raster} (h : a.length = b.length) : differ (differ a b) b = a := by
  unfold differ
  induction a generalizing b with
  | nil => simp
  | cons x xs ih =>
    cases b with
    | nil => cases h
    | cons y ys =>
      rw [List.zipWith_cons_cons, List.zipWith_cons_cons, ih (Nat.succ.inj h)]
      cases x <;> cases y <;> rfl

/-! ### Bits and numbers -/

theorem bitsValue_cons (b : Bool) (bs : List Bool) : bitsValue (b :: bs) = b.toNat * 2 ^ bs.length + bitsValue bs := by
  have key (acc : Nat) : bs.foldl (fun a b => 2 * a + b.toNat) acc = acc * 2 ^ bs.length + bitsValue bs := by
    unfold bitsValue
    induction bs generalizing acc with
    | nil => simp
    | cons c cs ih =>
      rw [List.foldl_cons, List.foldl_cons, ih, ih (2 * 0 + c.toNat), List.length_cons, pow_succ]
      ring
  unfold bitsValue
  rw [List.foldl_cons, key]
  simp [bitsValue]

theorem bitsValue_lt (bs : List Bool) : bitsValue bs < 2 ^ bs.length := by
  induction bs with
  | nil => decide
  | cons b bs ih =>
    rw [bitsValue_cons, List.length_cons, pow_succ]
    cases b <;> simp <;> omega

theorem bitsOf_length (w n : Nat) : (bitsOf w n).length = w := by
  induction w with
  | zero => rfl
  | succ w ih => rw [bitsOf, List.length_cons, ih]

theorem bitsValue_bitsOf (w n : Nat) : bitsValue (bitsOf w n) = n % 2 ^ w := by
  induction w with
  | zero => simp [bitsOf, bitsValue, Nat.mod_one]
  | succ w ih =>
    rw [bitsOf, bitsValue_cons, bitsOf_length, ih, Nat.toNat_testBit, Nat.mod_pow_succ]
    ring

theorem bitsValue_inj {as bs : List Bool} (hl : as.length = bs.length) (h : bitsValue as = bitsValue bs) : as = bs := by
  induction as generalizing bs with
  | nil => exact (List.eq_nil_of_length_eq_zero hl.symm).symm
  | cons a as ih =>
    cases bs with
    | nil => cases hl
    | cons b bs =>
      have hlen : as.length = bs.length := Nat.succ.inj hl
      have ha := bitsValue_lt as
      have hb := bitsValue_lt bs
      rw [bitsValue_cons, bitsValue_cons, hlen] at h
      rw [hlen] at ha
      have hab : a = b := by
        cases a <;> cases b <;> simp at h ⊢ <;> omega
      subst hab
      rw [ih hlen (Nat.add_left_cancel h)]

theorem bitsOf_bitsValue (bs : List Bool) : bitsOf bs.length (bitsValue bs) = bs :=
  bitsValue_inj (bitsOf_length _ _) (by rw [bitsValue_bitsOf, Nat.mod_eq_of_lt (bitsValue_lt bs)])

/-! ### Bits packed into bytes (R28) -/

theorem packFrom_byte {c : List Bool} (hc : c ≠ []) {k : Nat} (hk : k + c.length = 8) (acc : Nat) (rest : List Bool) :
    packFrom acc k (c ++ rest) = byteOf (c.foldl (fun a b => 2 * a + b.toNat) acc) :: packBits rest := by
  induction c generalizing acc k with
  | nil => exact absurd rfl hc
  | cons b c ih =>
    rw [List.length_cons] at hk
    rw [List.cons_append, packFrom]
    by_cases hk7 : k = 7
    · rw [if_pos hk7]
      have hnil : c = [] := List.eq_nil_of_length_eq_zero (by omega)
      subst hnil
      rfl
    · rw [if_neg hk7, ih (by rintro rfl; simp at hk; omega) (by omega)]
      rfl

theorem packFrom_last (c : List Bool) {k : Nat} (hk : k + c.length < 8) (hne : k + c.length ≠ 0) (acc : Nat) :
    packFrom acc k c = [byteOf (c.foldl (fun a b => 2 * a + b.toNat) acc * 2 ^ (8 - (k + c.length)))] := by
  induction c generalizing acc k with
  | nil =>
    unfold packFrom
    exact if_neg hne
  | cons b c ih =>
    rw [List.length_cons] at hk hne
    rw [packFrom, if_neg (by omega), ih (by omega) (by omega), List.foldl_cons, List.length_cons,
      show k + 1 + c.length = k + (c.length + 1) by omega]

theorem byteBits_bitsValue {bs : List Bool} (h : bs.length = 8) : byteBits (byteOf (bitsValue bs)) = bs := by
  have hlt := bitsValue_lt bs
  rw [h] at hlt
  have hval : (byteOf (bitsValue bs)).toNat = bitsValue bs := by
    unfold byteOf
    rw [BitVec.toNat_ofNat, Nat.mod_eq_of_lt hlt]
  unfold byteBits
  rw [hval, ← h]
  exact bitsOf_bitsValue bs

theorem bitsValue_append_zeros (bs : List Bool) (m : Nat) : bitsValue (bs ++ List.replicate m false) = bitsValue bs * 2 ^ m := by
  induction m with
  | zero => simp
  | succ m ih =>
    rw [List.replicate_succ', ← List.append_assoc]
    unfold bitsValue at ih ⊢
    rw [List.foldl_append, ih]
    simp [pow_succ]
    ring

/-- More than eight bits: the first eight make the first byte. -/
theorem packBits_long {c rest : List Bool} (h : c.length = 8) :
    ∃ b, packBits (c ++ rest) = b :: packBits rest ∧ byteBits b = c :=
  ⟨_, packFrom_byte (by rintro rfl; cases h) (by omega) 0 rest, byteBits_bitsValue h⟩

/-- At most eight bits make one byte, which zero bits fill. -/
theorem packBits_short {bits : List Bool} (hne : bits ≠ []) (h : bits.length ≤ 8) :
    ∃ b z, packBits bits = [b] ∧ byteBits b = bits ++ z := by
  by_cases h8 : bits.length = 8
  · obtain ⟨b, hb, hbits⟩ := packBits_long (rest := []) h8
    exact ⟨b, [], (List.append_nil bits ▸ hb : packBits bits = b :: packBits []), by simpa using hbits⟩
  · have hpos : bits.length ≠ 0 := fun h0 => hne (List.eq_nil_of_length_eq_zero h0)
    refine ⟨_, List.replicate (8 - bits.length) false, packFrom_last bits (k := 0) (by omega) (by omega) 0, ?_⟩
    have hlen : (bits ++ List.replicate (8 - bits.length) false).length = 8 := by
      rw [List.length_append, List.length_replicate]
      omega
    rw [← byteBits_bitsValue hlen, bitsValue_append_zeros, Nat.zero_add]
    rfl

theorem packFrom_length (bits : List Bool) {k : Nat} (hk : k < 8) (acc : Nat) :
    (packFrom acc k bits).length = (k + bits.length + 7) / 8 := by
  induction bits generalizing acc k with
  | nil =>
    unfold packFrom
    split
    next h => simp [h]
    next h =>
      simp
      omega
  | cons b bits ih =>
    unfold packFrom
    split
    next h =>
      rw [List.length_cons, ih (by decide), List.length_cons]
      omega
    next h =>
      rw [ih (by omega), List.length_cons]
      omega

/-! ### Run codes (R29) -/

theorem runCode_length (n : Nat) : (runCode n).length = runCodeBits n := by
  unfold runCode runCodeBits
  split
  · rw [List.length_cons, bitsOf_length]
  · split <;> simp only [List.length_cons, bitsOf_length]

/-- The bits read after `code` make the run code of `n`, and no part of them does. -/
def ReadsAs (code bits : List Bool) (n : Nat) : Prop :=
  readCode (code ++ bits) = .value n ∧ ∀ a b, bits = a ++ b → b ≠ [] → readCode (code ++ a) = .part

/-- A code of a length that its first bits give is not read before it has that length. -/
theorem readsAs_of_prefix {pre : List Bool} {w o : Nat} (hw : w ≠ 0)
    (hread : ∀ v, readCode (pre ++ v) = if v.length = w then .value (o + bitsValue v) else .part)
    (hpre : ∀ k < pre.length, readCode (pre.take k) = .part) {v : List Bool} (hv : v.length = w) {n : Nat}
    (hn : o + bitsValue v = n) : ReadsAs [] (pre ++ v) n := by
  refine ⟨by rw [List.nil_append, hread, if_pos hv, hn], fun a b hab hb => ?_⟩
  rw [List.nil_append]
  rcases List.append_eq_append_iff.mp hab with ⟨c, rfl, rfl⟩ | ⟨c, rfl, rfl⟩
  · rw [hread, if_neg]
    have := List.length_pos_of_ne_nil hb
    rw [List.length_append] at hv
    omega
  · by_cases hc : c = []
    · subst hc
      have hempty := hread []
      rw [List.append_nil, if_neg (show ([] : List Bool).length ≠ w from fun h => hw h.symm)] at hempty
      rwa [List.append_nil] at hempty
    · have hshort := hpre a.length (by
        rw [List.length_append]
        exact Nat.lt_add_of_pos_right (List.length_pos_of_ne_nil hc))
      rwa [List.take_left] at hshort

theorem runCode_readsAs {n : Nat} (hn : n ≤ 2119) : ReadsAs [] (runCode n) n := by
  unfold runCode
  split
  next h =>
    refine readsAs_of_prefix (pre := [false]) (w := 3) (o := 0) (by decide) (fun v => ?_) (by decide) (bitsOf_length _ _) ?_
    · rw [Nat.zero_add]
      rfl
    · rw [bitsValue_bitsOf, Nat.mod_eq_of_lt (by omega)]
      omega
  next h =>
    split
    next h' =>
      refine readsAs_of_prefix (pre := [true, false]) (w := 6) (o := 8) (by decide) (fun v => rfl) (by decide)
        (bitsOf_length _ _) ?_
      rw [bitsValue_bitsOf, Nat.mod_eq_of_lt (by omega)]
      omega
    next h' =>
      refine readsAs_of_prefix (pre := [true, true, false]) (w := 11) (o := 72) (by decide) (fun v => rfl) (by decide)
        (bitsOf_length _ _) ?_
      rw [bitsValue_bitsOf, Nat.mod_eq_of_lt (by omega)]
      omega

/-! ### The decoder over the bits of a line (R36) -/

/-- What a run of `n` pixels makes of the runs read so far (R36, R37). -/
def RunScan.takeRun (w : Nat) (s : RunScan) (n : Nat) : RunReading :=
  if n = 0 ∧ s.runs ≠ [] then .bad
  else if w < s.sum + n then .bad
  else if s.sum + n = w then .complete (n :: s.runs).reverse
  else .more ⟨[], n :: s.runs, s.sum + n⟩

/-- The bits complete a line with these runs, and the last bit does. -/
inductive RunScan.Completes (w : Nat) (runs : List Nat) : RunScan → List Bool → Prop
  | last {s : RunScan} {b : Bool} (h : s.feedBit w b = .complete runs) : Completes w runs s [b]
  | next {s s' : RunScan} {b : Bool} {bs : List Bool} (h : s.feedBit w b = .more s') (hs : Completes w runs s' bs) :
      Completes w runs s (b :: bs)

section
variable {w n : Nat} {runs : List Nat} {s : RunScan} {bits rest : List Bool}

theorem RunScan.feedBit_part {b : Bool} (h : readCode (s.code ++ [b]) = .part) :
    s.feedBit w b = .more { s with code := s.code ++ [b] } := by
  unfold RunScan.feedBit
  rw [h]

theorem RunScan.feedBit_value {b : Bool} (h : readCode (s.code ++ [b]) = .value n) : s.feedBit w b = s.takeRun w n := by
  unfold RunScan.feedBit
  rw [h]
  rfl

/-- A run code's bits but the last leave the scan in the code; the last takes the run. -/
theorem RunScan.Completes.code (hr : ReadsAs s.code bits n) (hne : bits ≠ [])
    (h : (rest = [] ∧ s.takeRun w n = .complete runs) ∨ (∃ s', s.takeRun w n = .more s' ∧ RunScan.Completes w runs s' rest)) :
    RunScan.Completes w runs s (bits ++ rest) := by
  induction bits generalizing s with
  | nil => exact absurd rfl hne
  | cons b bits ih =>
    cases bits with
    | nil =>
      have hb := RunScan.feedBit_value (w := w) hr.1
      rcases h with ⟨rfl, h⟩ | ⟨s', h, hs⟩
      · exact .last (hb.trans h)
      · exact .next (hb.trans h) hs
    | cons b' bits =>
      refine .next (RunScan.feedBit_part (hr.2 [b] (b' :: bits) rfl (List.cons_ne_nil _ _)))
        (ih ⟨?_, fun a c hac hc => ?_⟩ (List.cons_ne_nil _ _) h)
      · rw [List.append_assoc]
        exact hr.1
      · rw [List.append_assoc]
        exact hr.2 (b :: a) c (by rw [hac]; rfl) hc

/-- The run codes of a whole line complete it (R36): only its first run may be 0. -/
theorem RunScan.completes_runs {ns rs : List Nat} {sum : Nat} (hne : ns ≠ []) (hsum : sum + ns.sum = w) (hw : w ≤ 2119)
    (hfirst : sum < w) (hzero : rs = [] ∨ ∀ n ∈ ns, n ≠ 0) (htail : ∀ n ∈ ns.tail, n ≠ 0) :
    RunScan.Completes w (rs.reverse ++ ns) ⟨[], rs, sum⟩ (ns.flatMap runCode) := by
  induction ns generalizing rs sum with
  | nil => exact absurd rfl hne
  | cons n ns ih =>
    rw [List.sum_cons] at hsum
    have hcode : runCode n ≠ [] := by
      intro h
      have := runCode_length n
      rw [h] at this
      unfold runCodeBits at this
      split at this
      · cases this
      · split at this <;> cases this
    have hbad : ¬ (n = 0 ∧ rs ≠ []) := fun ⟨h0, hrs⟩ => hzero.elim hrs (fun h => h n List.mem_cons_self h0)
    rw [List.flatMap_cons]
    refine RunScan.Completes.code (s := ⟨[], rs, sum⟩) (runCode_readsAs (by omega)) hcode ?_
    unfold RunScan.takeRun
    rw [if_neg hbad, if_neg (show ¬ w < sum + n by omega)]
    by_cases hns : ns = []
    · subst hns
      rw [if_pos (by simpa using hsum)]
      exact .inl ⟨rfl, by rw [List.reverse_cons]⟩
    · obtain ⟨m, ms, rfl⟩ := List.exists_cons_of_ne_nil hns
      have hm := htail m (List.mem_cons_self)
      rw [List.sum_cons] at hsum
      rw [if_neg (show sum + n ≠ w by omega)]
      refine .inr ⟨_, rfl, ?_⟩
      have hrest := ih hns (rs := n :: rs) (sum := sum + n) (by rw [List.sum_cons]; omega) (by omega) (.inr htail)
        (fun k hk => htail k (List.mem_cons_of_mem _ hk))
      rwa [List.reverse_cons, List.append_assoc] at hrest

/-- The bits of a completed line, and any that fill its last byte. -/
theorem RunScan.Completes.feedBits (h : RunScan.Completes w runs s bits) (z : List Bool) : s.feedBits w (bits ++ z) = .complete runs := by
  induction h with
  | last h =>
    rw [List.cons_append]
    unfold RunScan.feedBits
    rw [h]
  | next h _ ih =>
    rw [List.cons_append]
    unfold RunScan.feedBits
    rw [h]
    exact ih

theorem RunScan.Completes.tail {b : Bool} {bs : List Bool} (h : RunScan.Completes w runs s (b :: bs)) (hne : bs ≠ []) :
    ∃ s', s.feedBit w b = .more s' ∧ RunScan.Completes w runs s' bs := by
  cases h with
  | last h => exact absurd rfl hne
  | next h hs => exact ⟨_, h, hs⟩

/-- The first bits of a line that has more. -/
theorem RunScan.Completes.more {a : List Bool} (h : RunScan.Completes w runs s (a ++ rest)) (hr : rest ≠ []) :
    ∃ s', s.feedBits w a = .more s' ∧ RunScan.Completes w runs s' rest := by
  induction a generalizing s with
  | nil => exact ⟨s, rfl, h⟩
  | cons b a ih =>
    rw [List.cons_append] at h
    have hne : a ++ rest ≠ [] := fun h => hr (List.append_eq_nil_iff.mp h).2
    obtain ⟨s₁, hfeed, hs⟩ := h.tail hne
    obtain ⟨s', hf, hc⟩ := ih hs
    refine ⟨s', ?_, hc⟩
    unfold RunScan.feedBits
    rw [hfeed]
    exact hf

theorem RunScan.Completes.ne_nil (h : RunScan.Completes w runs s bits) : bits ≠ [] := by
  cases h <;> exact List.cons_ne_nil _ _

end

/-! ### The decoder over the bytes of a line (R36) -/

section
variable {d : Decoder} {l : LineScan} {runs : List Nat}

/-- The pixels that a good line of a kind has under the decoder's reference (R36). -/
def Decoder.rasterOf (d : Decoder) (kind : LineKind) (runs : List Nat) : Raster :=
  match kind with
  | .repeatLine => substituteRaster d.width d.reference
  | .plain => expandRuns false runs
  | .delta => differ (expandRuns false runs) (substituteRaster d.width d.reference)

/-- The decoder between two lines, `k` bytes on, behind a good line. -/
def Decoder.behind (d : Decoder) (raster : Raster) (k : Nat) : Decoder :=
  { d with reference := some raster, index := d.index + 1, place := d.place + k, seeking := false, line := none }

theorem Decoder.giveGood_eq (kind : LineKind) (bytes : List Byte) :
    d.giveGood kind runs bytes =
      (d.behind (d.rasterOf kind runs) 1, .line ⟨d.rasterOf kind runs, d.index, true, some kind, bytes, runs⟩) := rfl

theorem Decoder.feed_complete {b : Byte} (hline : d.line = some l) (hended : d.ended = false)
    (h : l.scan.feedBits d.width (byteBits b) = .complete runs) :
    d.feed b = d.giveGood l.kind runs (b :: l.bytes).reverse := by
  unfold Decoder.feed
  simp only [hended, hline, h, Bool.false_eq_true, if_false]

theorem Decoder.feed_more {b : Byte} {s : RunScan} (hline : d.line = some l) (hended : d.ended = false)
    (h : l.scan.feedBits d.width (byteBits b) = .more s) :
    d.feed b = ({ d with place := d.place + 1, line := some { l with bytes := b :: l.bytes, scan := s } }, .none) := by
  unfold Decoder.feed
  simp only [hended, hline, h, Bool.false_eq_true, if_false]

theorem Decoder.feedAll_quiet {b : Byte} {e : Decoder} (bs : List Byte) (h : d.feed b = (e, .none)) :
    d.feedAll (b :: bs) = e.feedAll bs := by
  rw [Decoder.feedAll, h]

theorem Decoder.feedAll_gives {b : Byte} {e : Decoder} {x : DecodedLine} (h : d.feed b = (e, .line x)) :
    d.feedAll [b] = (e, [x]) := by
  rw [Decoder.feedAll, h]
  rfl

/-- The run-code bytes of a line give it whole. -/
theorem Decoder.feedAll_packBits {bits : List Bool} (hline : d.line = some l) (hended : d.ended = false)
    (hc : RunScan.Completes d.width runs l.scan bits) :
    d.feedAll (packBits bits) =
      (d.behind (d.rasterOf l.kind runs) (packBits bits).length,
        [⟨d.rasterOf l.kind runs, d.index, true, some l.kind, l.bytes.reverse ++ packBits bits, runs⟩]) := by
  induction hn : bits.length using Nat.strong_induction_on generalizing bits d l with
  | _ n ih =>
    subst hn
    by_cases hlong : bits.length ≤ 8
    · obtain ⟨b, z, hb, hbits⟩ := packBits_short hc.ne_nil hlong
      have hfeed := d.feed_complete hline hended (b := b) (hbits ▸ hc.feedBits z)
      rw [hb, Decoder.feedAll_gives (hfeed.trans (d.giveGood_eq _ _)), List.reverse_cons]
      rfl
    · have hlen : (bits.take 8).length = 8 := by
        rw [List.length_take]
        omega
      have hrest : bits.drop 8 ≠ [] := by
        rw [ne_eq, List.drop_eq_nil_iff]
        exact hlong
      have hsplit := List.take_append_drop 8 bits
      obtain ⟨b, hb, hbits⟩ := packBits_long (rest := bits.drop 8) hlen
      rw [hsplit] at hb
      obtain ⟨s', hmore, hc'⟩ := RunScan.Completes.more (hsplit.symm ▸ hc) hrest
      have hfeed := d.feed_more hline hended (b := b) (hbits ▸ hmore)
      have hshort : (bits.drop 8).length < bits.length := by
        rw [List.length_drop]
        omega
      have hnext := ih _ hshort (d := { d with place := d.place + 1, line := some { l with bytes := b :: l.bytes, scan := s' } })
        (l := { l with bytes := b :: l.bytes, scan := s' }) rfl hended hc' rfl
      rw [hb, Decoder.feedAll_quiet _ hfeed, hnext]
      simp [Decoder.behind, Decoder.rasterOf, Nat.add_assoc, Nat.add_comm]

/-- A PLAIN or DELTA mark begins a line. -/
theorem Decoder.feed_mark {kind : LineKind} (hline : d.line = none) (hended : d.ended = false) (hkind : kind ≠ .repeatLine)
    (hindex : kind = .delta → d.index ≠ 0) :
    d.feed (markOf kind) =
      ({ d with place := d.place + 1, seeking := false, line := some ⟨kind, [markOf kind], ⟨[], [], 0⟩⟩ }, .none) := by
  unfold Decoder.feed Decoder.feedMark
  cases kind with
  | repeatLine => exact absurd rfl hkind
  | plain => simp [hended, hline, markOf, pageEndMark]
  | delta => simp [hended, hline, markOf, pageEndMark, hindex rfl]

theorem Decoder.feed_repeat (hline : d.line = none) (hended : d.ended = false) (hindex : d.index ≠ 0) :
    d.feed (markOf .repeatLine) = d.giveGood .repeatLine [] [markOf .repeatLine] := by
  unfold Decoder.feed Decoder.feedMark
  simp [hended, hline, markOf, pageEndMark, hindex]

/-- A PLAIN or DELTA line: its mark and its runs' codes. -/
theorem Decoder.feedAll_runs {kind : LineKind} (hline : d.line = none) (hended : d.ended = false) (hkind : kind ≠ .repeatLine)
    (hindex : kind = .delta → d.index ≠ 0) {r : Raster} (hr : r.length = d.width) (hpos : 0 < r.length) (hmax : r.length ≤ 2048) :
    d.feedAll (codedLine kind (runsOf r)) =
      (d.behind (d.rasterOf kind (runsOf r)) (codedLine kind (runsOf r)).length,
        [⟨d.rasterOf kind (runsOf r), d.index, true, some kind, codedLine kind (runsOf r), runsOf r⟩]) := by
  have hcoded : codedLine kind (runsOf r) = markOf kind :: packBits ((runsOf r).flatMap runCode) := by
    cases kind with
    | repeatLine => exact absurd rfl hkind
    | plain => rfl
    | delta => rfl
  have hsum : 0 + (runsOf r).sum = d.width := by
    rw [← hr, Nat.zero_add]
    exact (runsFrom_sum false 0 r).trans (Nat.zero_add _)
  have hc : RunScan.Completes d.width (runsOf r) ⟨[], [], 0⟩ ((runsOf r).flatMap runCode) :=
    RunScan.completes_runs (rs := []) (runsFrom_ne_nil _ _ _) hsum (by omega) (by omega) (.inl rfl) (runsOf_tail r)
  have hfeed := d.feed_mark hline hended hkind hindex
  have hnext := Decoder.feedAll_packBits
    (d := { d with place := d.place + 1, seeking := false, line := some ⟨kind, [markOf kind], ⟨[], [], 0⟩⟩ })
    (l := ⟨kind, [markOf kind], ⟨[], [], 0⟩⟩) rfl hended hc
  rw [hcoded, Decoder.feedAll_quiet _ hfeed, hnext]
  simp [Decoder.behind, Decoder.rasterOf, Nat.add_assoc, Nat.add_comm]

end

/-! ### The length of a coded line -/

theorem runCodeBits_le (n : Nat) : runCodeBits n ≤ 4 * n + 4 := by
  unfold runCodeBits
  split
  · omega
  · split <;> omega

theorem flatMap_runCode_length (ns : List Nat) : (ns.flatMap runCode).length = (ns.map runCodeBits).sum := by
  rw [List.length_flatMap]
  simp only [runCode_length]

theorem runCodeBits_sum_le {ns : List Nat} (h : ∀ n ∈ ns, n ≠ 0) : (ns.map runCodeBits).sum ≤ 4 * ns.sum := by
  induction ns with
  | nil => exact Nat.le_refl 0
  | cons n ns ih =>
    have hn : runCodeBits n ≤ 4 * n := by
      have := h n List.mem_cons_self
      unfold runCodeBits
      split
      · omega
      · split <;> omega
    have := ih (fun k hk => h k (List.mem_cons_of_mem _ hk))
    rw [List.map_cons, List.sum_cons, List.sum_cons]
    omega

theorem runsOf_bits_le (r : Raster) : ((runsOf r).map runCodeBits).sum ≤ 4 * r.length + 4 := by
  have hsum : (runsOf r).sum = r.length := (runsFrom_sum false 0 r).trans (Nat.zero_add _)
  obtain ⟨n, ns, hruns⟩ := List.exists_cons_of_ne_nil (runsFrom_ne_nil false 0 r)
  have hruns : runsOf r = n :: ns := hruns
  have htail : (ns.map runCodeBits).sum ≤ 4 * ns.sum := runCodeBits_sum_le (by simpa [hruns] using runsOf_tail r)
  have hhead := runCodeBits_le n
  rw [hruns, List.sum_cons] at hsum
  rw [hruns, List.map_cons, List.sum_cons]
  omega

theorem codedLine_runs_length {kind : LineKind} {r : Raster} (hmax : r.length ≤ 2048) :
    (codedLine kind (runsOf r)).length < 2048 := by
  have hbits := runsOf_bits_le r
  have hpack : (packBits ((runsOf r).flatMap runCode)).length < 2047 := by
    unfold packBits
    rw [packFrom_length _ (by decide), flatMap_runCode_length]
    omega
  cases kind with
  | repeatLine => exact (by decide : 1 < 2048)
  | plain => exact Nat.succ_lt_succ hpack
  | delta => exact Nat.succ_lt_succ hpack

/-! ### The line chosen by R31 -/

/-- The three lines that R31 can choose: PLAIN, and behind a reference off the anchor REPEAT and DELTA. -/
theorem codeLine_cases (anchor : Nat) (reference : Option Raster) (allowed : Bool) (r : Raster) :
    (chooseKind anchor reference allowed r = .plain ∧ codeLine anchor reference allowed r = codedLine .plain (runsOf r)) ∨
    (anchor ≠ 0 ∧ ∃ f, reference = some f ∧
      ((chooseKind anchor reference allowed r = .repeatLine ∧ r = f ∧
          codeLine anchor reference allowed r = codedLine .repeatLine []) ∨
        (chooseKind anchor reference allowed r = .delta ∧
          codeLine anchor reference allowed r = codedLine .delta (runsOf (differ r f))))) := by
  have hplain (h : chooseKind anchor reference allowed r = .plain) :
      chooseKind anchor reference allowed r = .plain ∧ codeLine anchor reference allowed r = codedLine .plain (runsOf r) :=
    ⟨h, by rw [codeLine, h]⟩
  by_cases hanchor : anchor = 0
  · exact .inl (hplain (if_pos hanchor))
  · cases hf : reference with
    | none =>
      subst hf
      exact .inl (hplain (if_neg hanchor))
    | some f =>
      subst hf
      by_cases hrf : r = f
      · have hk : chooseKind anchor (some f) allowed r = .repeatLine := by
          simp only [chooseKind, if_neg hanchor, if_pos hrf]
        exact .inr ⟨hanchor, f, rfl, .inl ⟨hk, hrf, by rw [codeLine, hk]⟩⟩
      · cases hshort : allowed && decide (codedLength .delta (runsOf (differ r f)) < codedLength .plain (runsOf r)) with
        | false => exact .inl (hplain (by simp only [chooseKind, if_neg hanchor, if_neg hrf, hshort, Bool.false_eq_true, if_false]))
        | true =>
          have hk : chooseKind anchor (some f) allowed r = .delta := by
            simp only [chooseKind, if_neg hanchor, if_neg hrf, hshort, if_true]
          exact .inr ⟨hanchor, f, rfl, .inr ⟨hk, by rw [codeLine, hk]; rfl⟩⟩

/-- Settles O12, by what R31 can choose: the codes of the line's runs complete it in the decoder, bit by bit and byte by byte. -/
theorem codedLinesDecode : Obligations.CodedLinesDecode := by
  unfold Obligations.CodedLinesDecode
  intro d anchor allowed r hpos hmax hwidth hline hended href hindex bytes kind runs
  have hbehind (k : Nat) : d.behind r k =
      { d with reference := some r, index := d.index + 1, place := d.place + k, seeking := false } := by
    unfold Decoder.behind
    rw [hline]
  rcases codeLine_cases anchor d.reference allowed r with ⟨hk, hb⟩ | ⟨hanchor, f, hf, ⟨hk, hrf, hb⟩ | ⟨hk, hb⟩⟩
  · have hraster : d.rasterOf .plain (runsOf r) = r := expandRuns_runsOf r
    have hfeed := Decoder.feedAll_runs (kind := .plain) hline hended nofun nofun hwidth.symm hpos hmax
    rw [hraster, hbehind] at hfeed
    simp only [bytes, kind, runs, hk, hb]
    exact ⟨hfeed, codedLine_runs_length hmax⟩
  · have hraster : d.rasterOf .repeatLine [] = r := by
      rw [Decoder.rasterOf, hf, hrf]
      rfl
    have hnonzero : d.index ≠ 0 := Nat.ne_of_gt (hindex hanchor (by rw [hf]; nofun))
    have hfeed := Decoder.feedAll_gives ((d.feed_repeat hline hended hnonzero).trans (d.giveGood_eq _ _))
    rw [hraster, hbehind] at hfeed
    simp only [bytes, kind, runs, hk, hb]
    exact ⟨hfeed, by decide⟩
  · have hlen : f.length = r.length := href f hf
    have hdiffer : (differ r f).length = r.length := by
      unfold differ
      rw [List.length_zipWith, hlen, Nat.min_self]
    have hraster : d.rasterOf .delta (runsOf (differ r f)) = r := by
      rw [Decoder.rasterOf, hf, expandRuns_runsOf]
      exact differ_differ hlen.symm
    have hnonzero : d.index ≠ 0 := Nat.ne_of_gt (hindex hanchor (by rw [hf]; nofun))
    have hfeed := Decoder.feedAll_runs (kind := .delta) (r := differ r f) hline hended nofun (fun _ => hnonzero)
      (hdiffer.trans hwidth.symm) (hdiffer.symm ▸ hpos) (hdiffer.symm ▸ hmax)
    rw [hraster, hbehind] at hfeed
    simp only [bytes, kind, runs, hk, hb]
    rw [hf]
    exact ⟨hfeed, codedLine_runs_length (hdiffer.symm ▸ hmax)⟩

end Sys2Proof.Machine
end
